-- ==== Sys2Proof/Word.lean ====
section
/-! DEFINITION. The word types of the AQ-650 and the plainest arithmetic on them (01 R15, 03 R51). -/

namespace Sys2Proof

/-- A 64-bit register: A, a pointer register, a CSR (01 R15). -/
abbrev Word := BitVec 64
/-- One byte of memory. -/
abbrev Byte := BitVec 8
/-- A 48-bit address of any of the four spaces (01 R31). -/
abbrev Addr := BitVec 48
/-- A 32-bit instruction word, or a 32-bit float image. -/
abbrev W32 := BitVec 32
/-- A 16-byte granule of a bank (01 R29). -/
abbrev Granule := BitVec 128
/-- A pointer register number P0 to P7 (02 R38). -/
abbrev PReg := BitVec 3

/-- `k` bits of `w` from bit `lo` upwards. -/
abbrev bits {n : Nat} (w : BitVec n) (lo k : Nat) : BitVec k := w.extractLsb' lo k

/-- The field of `k` bits at `lo` of a natural number. -/
def natBits (v lo k : Nat) : Nat := v / 2 ^ lo % 2 ^ k

/-- An integer clamped to an interval (03 R52). -/
def clampInt (lo hi v : Int) : Int := if v < lo then lo else if hi < v then hi else v

end Sys2Proof
end

