-- ==== Sys2Proof/Config.lean ====
section
/-! DEFINITION. What an implementation fixes and the manual leaves to it: constants of the part, and the free
values. A free value is opaque: nothing can be proved of its value (assumption log, entry 4). -/

namespace Sys2Proof.Config

/-- A 64-bit value the manual leaves undefined, fresh for each number (R9; entry 4). -/
opaque freeWord : Nat → Word
/-- A byte the manual leaves undefined (R9, 09 R173; entry 4). -/
opaque freeByte : Nat → Byte
/-- A granule the manual leaves undefined (10 R203; entry 4). -/
opaque freeGranule : Nat → Granule
/-- The rounding of a transcendental result that the interval evaluation has not separated from a rounding
boundary (08 R158; entry 6); no operand is known to reach it. -/
opaque undecided : Nat → Nat → Nat
/-- A Falcon-1024 signature under the module's identity key (22 R341; entry 7). -/
opaque falconSign : List Byte → List Byte
/-- The length of the signature of a report, by its bytes 0 to 183 (22 Table 22-7; entry 7). -/
opaque falconLength : List Byte → Nat
/-- The length of the body of a firmware image, which a signature follows, and whether a signature is good over a digest under
the Lomner key whose hash is fused into the module (24 R374; entry 7). -/
opaque imageBodyLength : List Byte → Nat
opaque lomnerVerifies : List Byte → List Byte → Bool
/-- Where a service core begins its firmware (24 R374; entry 35). -/
opaque firmwareEntry : BitVec 48
/-- The firmware images of the boot flash, in load order, and how many there are (24 R375; entry 7). -/
opaque bootImages : Nat → List Byte
opaque bootImageCount : Nat
/-- What the boot tests of this part find faulty: banks as (cluster, bank), and cores (24 R375; entry 5). -/
opaque faultyBanks : List (Nat × Nat)
opaque faultyCores : List Nat
/-- The check value of a save area (23 R354; entry 8). -/
opaque saveCheck : Nat → Word
/-- The bins of the histogram of a window in which its p50 and its p99 lie, by measure (22 R333): functions of time, which
the model does not hold (entry 9). -/
opaque qosBins : Nat → Nat × Nat
/-- The keystream of a block of a line under a key: by line, major and minor counter and block (22 R334; entry 7). -/
opaque linePad : Nat → Nat → Word → BitVec 7 → Nat → BitVec 128
/-- The MAC of a line under a key: of its ciphertext, line, major and minor counter (22 R334; entry 7). -/
opaque lineMac : Nat → List Byte → Nat → Word → BitVec 7 → BitVec 48
/-- The MAC of a counter line or tree node: of its content and place, under the counter that its parent holds (22 R335;
entry 7). -/
opaque treeMac : Nat → List Word → Nat → Word → BitVec 48
/-- The key that the service firmware of two modules agrees for a port, the keystream of a packet under it, by number and byte,
and the tag of its header and ciphertext (24 R371; entry 7). -/
opaque portKey : Nat → BitVec 256
/-- The attestation report that the peer of a port gives, and whether a report verifies (22 R341, 24 R371; entry 7). -/
opaque peerReport : Nat → List Byte
opaque reportVerifies : List Byte → Bool
opaque linkPad : BitVec 256 → BitVec 12 → Nat → Byte
opaque linkTag : BitVec 256 → List Byte → BitVec 128
/-- Packets that an input buffer of the mesh holds, less 1 (21 R312; entry 5). -/
opaque bufferDepth : Nat
/-- The escape threshold that the module configuration names, if it does (21 R316; entry 5). -/
opaque escapeNamed : Option Nat

/-- Security states of the module (22 R342). -/
inductive Security where
  | lab | prod | prodLocked | rma
  deriving DecidableEq, Repr, Inhabited

/-- The fused security state of this part (22 R342; entry 5). -/
opaque security : Security
/-- This module's number in its domain and the modules in it, minus 1 (24 Table 24-5; entry 5). -/
opaque moduleNumber : BitVec 6
opaque modulesMinus1 : BitVec 6
/-- Whether a request for debug state `HALT` carries a good owner authorisation (22 Table 22-8; entry 7). -/
opaque authorised : Nat → Bool
/-- Lanes that hold lock again when a retrain is requested (24 R369), and the peer of each port (entry 5). -/
opaque lanesRecovered : Nat → BitVec 16
opaque portPeer : Nat → Nat
/-- Tier-1 frames of fabric-attached memory (24 Table 24-4 `T1FRAMES`; entry 5). -/
opaque tier1Frames : Nat
/-- Whether an access of a device of another module is granted there and its page good, so that it succeeds; and how one that is
not such ends: 0, or the status of its failure (09 R175, 24 R370; entry 11). -/
opaque remoteGood : Nat → Nat → BitVec 48 → Bool
opaque remoteStatus : Nat → BitVec 4
/-- Usable tier-0 frames (19 R286). -/
def tier0Frames : Nat := 44040192

end Sys2Proof.Config
end

