-- ==== Sys2Proof/Syntax.lean ====
section
/-! DEFINITION. The instructions: one constructor for each row of spec/opcode_table.json. The encoded
instructions carry their fields (02 R38, Table 2-3); the rows without a word are the part's events, and
carry the core, context, stream or unit at which they take place (95, "What each step holds"). -/

namespace Sys2Proof

/-- Access sizes (02 R39). -/
inductive Size where
  | b | h | w | d
  deriving DecidableEq, Repr

/-- The bytes of an access size (02 R39). -/
def Size.bytes : Size → Nat
  | .b => 1
  | .h => 2
  | .w => 4
  | .d => 8

/-- Addressing modes, in the order of their codes (02 Table 2-5). -/
inductive Mode where
  | disp | postStride | preStride | postSize | dispWrite | indexA | postNeg
  deriving DecidableEq, Repr

/-- Whether a mode uses the displacement (02 Table 2-5). -/
def Mode.usesDisp : Mode → Bool
  | .disp => true
  | .dispWrite => true
  | _ => false

/-- A memory operand: pointer, mode and a displacement of `n` bits (02 R42). -/
structure MemOp (n : Nat) where
  p : PReg
  mode : Mode
  d : BitVec n
  deriving DecidableEq, Repr

/-- Order qualifiers (02 Table 2-4). -/
inductive Order where
  | none | acq | rel | ar
  deriving DecidableEq, Repr

/-- Scopes of ordered accesses (02 R40). -/
inductive Scope where
  | part | dev | sys
  deriving DecidableEq, Repr

/-- Branch conditions, in the order of their codes (02 Table 2-6b). -/
inductive Cond where
  | eq | ne | lt | ge | le | gt | ult | uge | ule | ugt | neg | pos | ov | nov | sat | always
  deriving DecidableEq, Repr

/-- Links of the wire fabric (02, the dir table after Table 2-12). -/
inductive Link where
  | n | e | s | w | xe | xw
  deriving DecidableEq, Repr

/-- Scopes of `ICINV` (02 Table 2-2). -/
inductive ICScope where
  | ctx | core | cluster | part
  deriving DecidableEq, Repr

/-- Scopes of `TLBINV` (11 R219). -/
inductive TlbScope where
  | core | cluster | part
  deriving DecidableEq, Repr

/-- Conditions of `VCMP` (08 Table 8-2). -/
inductive VCond where
  | eq | ne | lt | le | gt | ge | ord | unord
  deriving DecidableEq, Repr

/-- Reductions of `VRED` (08 Table 8-2). -/
inductive ROp where
  | sum | max | min | asum
  deriving DecidableEq, Repr

/-- The CSRs of Table 11-3 (11 R214). -/
inductive Csr where
  | st | lc0 | lc1 | tvec | tpc | tcause | taddr | tval | oorf | oora
  | log (k : BitVec 3) | cyc | core | flowcyc | att (n : BitVec 4) | vtime | vcnt (k : BitVec 3)
  | capid | capb | capc | cload | migctl | pbase | plen | pflowmax | psel | gscyc | gstx | gsrx
  deriving DecidableEq, Repr

/-- What a scrubber's read finds (19 R296, R297). -/
inductive ErrKind where
  | clean | corrected | uncorrectable
  deriving DecidableEq, Repr

/-- Sites of a contained error (23 Table 23-6). -/
inductive ErrSite where
  | residentLine | context | engine | accumulator | barrierUnit | ctrlPacket | elevator
  deriving DecidableEq, Repr

/-- The instructions and events of spec/opcode_table.json, in its order. In the events `k` is a core
(site, or 655,360 + cluster for a service core), `c` a context, `e` a log entry, `v` a virtual device, `s` a
stream, `n` 0 for the stream's own command and j + 1 for node j of its running graph. -/
inductive Instr where
  -- system (11 Table 11-1)
  | nop
  | trap (n : BitVec 20)
  | eret
  | csrr (c : Csr)
  | csrw (c : Csr)
  | csrs (c : Csr)
  | csrc (c : Csr)
  | waite (m : BitVec 4)
  | halt (r : Bool) (c : BitVec 6)
  | icinv (s : ICScope)
  | tlbw (cl : Bool) (c : BitVec 6)
  | tlbinv (a : Bool) (c : BitVec 6) (s : TlbScope)
  | revoke (c : BitVec 6)
  | ctxsv (c : BitVec 6)
  | ctxld (c : BitVec 6)
  | gstop (c : BitVec 6) (r : Bool)
  | dbrk (n : BitVec 20)
  | rdtime
  | rdcyc
  | reissue (k : BitVec 3)
  | oorclr
  | movrv
  -- loads and stores (05 Table 5-1)
  | ldl (z : Size) (sx : Bool) (m : MemOp 15)
  | ldc (z : Size) (sx : Bool) (m : MemOp 15)
  | ldg (z : Size) (sx : Bool) (m : MemOp 15)
  | ldgOrdered (z : Size) (sx : Bool) (o : Order) (s : Scope) (m : MemOp 13)
  | ldw (z : Size) (sx : Bool) (m : MemOp 15)
  | ldwOrdered (z : Size) (sx : Bool) (o : Order) (m : MemOp 13)
  | stl (z : Size) (m : MemOp 15)
  | stc (z : Size) (m : MemOp 15)
  | stg (z : Size) (m : MemOp 15)
  | stgOrdered (z : Size) (o : Order) (s : Scope) (m : MemOp 13)
  | stw (z : Size) (m : MemOp 15)
  | stwOrdered (z : Size) (o : Order) (m : MemOp 13)
  -- full/empty (05 Table 5-7)
  | ldlf (z : Size) (m : MemOp 12)
  | ldlfC (z : Size) (m : MemOp 12)
  | ldcf (z : Size) (m : MemOp 12)
  | ldcfC (z : Size) (m : MemOp 12)
  | stlf (z : Size) (m : MemOp 12)
  | stcf (z : Size) (m : MemOp 12)
  | feset (m : MemOp 12)
  | feclr (m : MemOp 12)
  | fetst (m : MemOp 12)
  -- atomics (05 Table 5-8); `d64` selects size d over w
  | amogAdd (d64 : Bool) (o : Order) (s : Scope) (m : MemOp 8)
  | amogAnd (d64 : Bool) (o : Order) (s : Scope) (m : MemOp 8)
  | amogOr (d64 : Bool) (o : Order) (s : Scope) (m : MemOp 8)
  | amogXor (d64 : Bool) (o : Order) (s : Scope) (m : MemOp 8)
  | amogMin (d64 : Bool) (o : Order) (s : Scope) (m : MemOp 8)
  | amogMax (d64 : Bool) (o : Order) (s : Scope) (m : MemOp 8)
  | amogMinu (d64 : Bool) (o : Order) (s : Scope) (m : MemOp 8)
  | amogMaxu (d64 : Bool) (o : Order) (s : Scope) (m : MemOp 8)
  | amogSwap (d64 : Bool) (o : Order) (s : Scope) (m : MemOp 8)
  | amogCas (d64 : Bool) (o : Order) (s : Scope) (m : MemOp 8)
  | amocAdd (d64 : Bool) (m : MemOp 8)
  | amocAnd (d64 : Bool) (m : MemOp 8)
  | amocOr (d64 : Bool) (m : MemOp 8)
  | amocSwap (d64 : Bool) (m : MemOp 8)
  | amocCas (d64 : Bool) (m : MemOp 8)
  -- ALU with a memory operand (04 Table 4-2)
  | add (z : Size) (m : MemOp 12)
  | adc (z : Size) (m : MemOp 12)
  | sub (z : Size) (m : MemOp 12)
  | sbc (z : Size) (m : MemOp 12)
  | rsb (z : Size) (m : MemOp 12)
  | adds (z : Size) (m : MemOp 12)
  | addsu (z : Size) (m : MemOp 12)
  | subs (z : Size) (m : MemOp 12)
  | subsu (z : Size) (m : MemOp 12)
  | mul (z : Size) (m : MemOp 12)
  | mulh (z : Size) (m : MemOp 12)
  | mulhu (z : Size) (m : MemOp 12)
  | div (z : Size) (m : MemOp 12)
  | divu (z : Size) (m : MemOp 12)
  | rem (z : Size) (m : MemOp 12)
  | remu (z : Size) (m : MemOp 12)
  | and (z : Size) (m : MemOp 12)
  | or (z : Size) (m : MemOp 12)
  | xor (z : Size) (m : MemOp 12)
  | andn (z : Size) (m : MemOp 12)
  | shl (z : Size) (m : MemOp 12)
  | shr (z : Size) (m : MemOp 12)
  | sar (z : Size) (m : MemOp 12)
  | rol (z : Size) (m : MemOp 12)
  | ror (z : Size) (m : MemOp 12)
  | min (z : Size) (m : MemOp 12)
  | max (z : Size) (m : MemOp 12)
  | minu (z : Size) (m : MemOp 12)
  | maxu (z : Size) (m : MemOp 12)
  | cmp (z : Size) (m : MemOp 12)
  | tst (z : Size) (m : MemOp 12)
  -- immediate ALU (04 Table 4-3)
  | addi (i : BitVec 20)
  | addsi (i : BitVec 20)
  | rsbi (i : BitVec 20)
  | muli (i : BitVec 20)
  | andi (i : BitVec 20)
  | ori (i : BitVec 20)
  | xori (i : BitVec 20)
  | shli (k : BitVec 6)
  | shri (k : BitVec 6)
  | sari (k : BitVec 6)
  | rori (k : BitVec 6)
  | cmpi (i : BitVec 20)
  | tsti (i : BitVec 20)
  -- scalar floating point (04 Table 4-5)
  | fadd (m : MemOp 12)
  | fsub (m : MemOp 12)
  | frsub (m : MemOp 12)
  | fmul (m : MemOp 12)
  | fdiv (m : MemOp 12)
  | fmin (m : MemOp 12)
  | fmax (m : MemOp 12)
  | fcmp (m : MemOp 12)
  | fsqrt (m : MemOp 12)
  | fcvtbf (m : MemOp 12)
  | fcvthf (m : MemOp 12)
  | frndbf (m : MemOp 12)
  | frndhf (m : MemOp 12)
  | fcvti (m : MemOp 12)
  | fcvtf (m : MemOp 12)
  | fcvtuf (m : MemOp 12)
  -- unary (04 Table 4-4)
  | not | neg | abs | negs | abss | clz | ctz | popc | bswap
  | sextb | sexth | sextw | zextb | zexth | zextw
  -- pointers (04 Table 4-7)
  | pmov (n m : PReg)
  | paddi (n m : PReg) (i : BitVec 16)
  | padda (n m : PReg)
  | pstr (n : PReg) (i : BitVec 16)
  | pget (n : PReg)
  | pset (n : PReg)
  | psub (n m : PReg)
  -- branches, jumps, loops, constants (04 R81-R84, 02 R46)
  | b (c : Cond) (o : BitVec 22)
  | call (o : BitVec 22)
  | jmp (n : PReg) (i : BitVec 16)
  | ret
  | loop (k : Bool) (o : BitVec 16)
  | dbnz (k : Bool) (o : BitVec 16)
  | li (i : BitVec 20)
  | lih (i : BitVec 20)
  -- banks (06 Table 6-1)
  | balloc (n : BitVec 4)
  | att (n : BitVec 4)
  | det (n : BitVec 4)
  | detZ (n : BitVec 4)
  | arm (n : BitVec 4) (t : BitVec 16)
  | bwait (n : BitVec 4)
  | openSlot (n : BitVec 4)
  | closeSlot (n : BitVec 4)
  | bqry (n : BitVec 4)
  | hov (n : BitVec 4)
  -- threads, groups, flow (10 Table 10-1)
  | start (h : BitVec 4) (o : BitVec 16)
  | startM (h : BitVec 4) (o : BitVec 16)
  | endT
  | hwait (h : BitVec 4)
  | hkill (h : BitVec 4)
  | yield
  | self
  | spawn
  | join (g : BitVec 8)
  | leave (g : BitVec 8)
  | bar (g : BitVec 8)
  | flow (g : BitVec 8) (n : BitVec 14)
  | xmit (l : Link) (p : PReg) (s : BitVec 16)
  | muxs (l : Link) (s : BitVec 16)
  | recv (p : PReg) (s : BitVec 16)
  | xfwd (l : Link) (s : BitVec 16)
  | flend
  -- matrix (07 Table 7-1)
  | mxls (a b : PReg)
  | mxflip
  | mxst (a b : PReg)
  | mxzero
  | mxswap
  | mxdrn (a b : PReg)
  | mxckl
  | mxckf
  | mxrty
  | mxwait
  | mxrd (k : BitVec 4)
  | mxwr (k : BitVec 4) (a : PReg)
  | mxwrg (k : BitVec 4) (n : BitVec 5) (a : PReg)
  -- vector (08 Table 8-1)
  | vadd (a b : PReg) (sc : Bool)
  | vsub (a b : PReg) (sc : Bool)
  | vmul (a b : PReg) (sc : Bool)
  | vfma (a b : PReg) (sc : Bool)
  | vmin (a b : PReg) (sc : Bool)
  | vmax (a b : PReg) (sc : Bool)
  | vabs (a b : PReg)
  | vneg (a b : PReg)
  | vexp2 (a b : PReg)
  | vlog2 (a b : PReg)
  | vrcp (a b : PReg)
  | vrsq (a b : PReg)
  | vtanh (a b : PReg)
  | vcvt (a b : PReg)
  | vred (a b : PReg) (r : ROp) (rv : Bool)
  | vscan (a b : PReg)
  | vafs (a b : PReg) (upd : Bool)
  | vsel (a b : PReg) (sc : Bool)
  | vclamp (a b : PReg)
  | vcmp (a b : PReg) (c : VCond) (sc : Bool)
  | vgath (a b : PReg)
  | vscat (a b : PReg)
  | vwr (k : BitVec 4) (a : PReg)
  | vwrg (k : BitVec 4) (n : BitVec 5) (a : PReg)
  | vrd (k : BitVec 4)
  | vwait
  -- copy and reduction (09 Table 9-1)
  | cg2l (a b : PReg)
  | cl2g (a b : PReg)
  | cl2c (a b : PReg)
  | cc2l (a b : PReg)
  | cw2l (a b : PReg)
  | cl2w (a b : PReg)
  | cx2g (a b : PReg)
  | cg2x (a b : PReg)
  | cwr (k : BitVec 4) (a : PReg)
  | cwrg (k : BitVec 4) (n : BitVec 5) (a : PReg)
  | cwait
  | rdadd (a b : PReg)
  | rdflush (a : PReg)
  | rdwait
  -- events of a core's own accesses
  | rvFill (k : Nat)
  | storeAcknowledge (k c e : Nat)
  | tier1WriteThrough (line : Nat)
  | lateFaultReport (k c e : Nat)
  | lateFaultTrap (k c : Nat)
  | gResponse (k c : Nat)
  | sliceAccess (k c e : Nat)
  | tlbMissRequest (k c : Nat)
  | fetchRefill (k c : Nat)
  | bankMissMicrotrap (k n : Nat)
  | registerMissMicrotrap (k c : Nat)
  | hovDrainDone (k c : Nat)
  | hovArrival (k c : Nat)
  | hovStatusReturn (k c : Nat)
  | eventLatchMessage (k h : Nat)
  | bankReleaseDrainDone (k c : Nat)
  | detZZeroingDone (k c : Nat)
  | btoTimeout (k c : Nat)
  | barrierArrival (k : Nat)
  | barrierRelease (k : Nat)
  | flowRelease (part group : Nat)
  | flowSlotOverrun (k : Nat)
  | flowFaultReport (k : Nat)
  | flendClosing (k : Nat)
  | cloadSample (cl : Nat)
  | helperMigrationArrival (cl : Nat)
  -- placement and streams (18)
  | taskPlacement (l : Nat)
  | spawnPlacement (part : Nat)
  | coresidentLaunchStart (l : Nat)
  | launchCompletion (l : Nat)
  | streamRecordFetch (v s : Nat)
  | launch (v s n : Nat)
  | graphDefine (v s : Nat)
  | graphLaunch (v s : Nat)
  | graphEdit (v s : Nat)
  | graphDestroy (v s : Nat)
  | graphNodeStart (v s n : Nat)
  | copy (v s n : Nat)
  | fill (v s n : Nat)
  | waitv (v s n : Nat)
  | waitvReread (v s n : Nat)
  | waitvTimeout (v s n : Nat)
  | signal (v s n : Nat)
  | pin (v s : Nat)
  | unpin (v s : Nat)
  | tierPromote (v s : Nat)
  | tierKeep (v s : Nat)
  | tierAutomatic (v s : Nat)
  | pageMove (frame : Nat)
  | preemptSave (v s : Nat)
  | preemptResume (v s : Nat)
  | qosLevels (v s : Nat)
  | qosBound (v s : Nat)
  | qosWindowEnd (v : Nat)
  | keyCreate (v s : Nat)
  | keyErase (v s : Nat)
  | coveCreate (v s : Nat)
  | coveGrant (v s : Nat)
  | coveRevoke (v s : Nat)
  | coveRekey (v s : Nat)
  | coveDestroy (v s : Nat)
  | migrateBegin (v s : Nat)
  | migrateRound (v s : Nat)
  | migrateFinal (v s : Nat)
  | migrateCommit (v s : Nat)
  | migrateAbort (v s : Nat)
  | streamDestroyComplete (v s : Nat)
  -- host and admin space (24 Table 24-4)
  | sqtailWrite (v s : Nat) (value : Word)
  | sqstatErrClear (v s : Nat)
  | streamCreate (v s slot : Nat)
  | streamDestroy (v s : Nat)
  | debugStateRequest (d : BitVec 2)
  | linkRetrainRequest (port : Nat)
  | doubleRelease (cl cloc : Nat)
  | clusterPowerRequest (cl : Nat) (st : BitVec 2)
  | partitionWrite (slot : Nat) (value : Word)
  | attestationRequest (value : Word)
  | promoWrite (value : Word)
  | trbaseWrite (v : Nat) (value : Word)
  | adminRegisterWrite (offset : Nat) (value : Word)
  | recoveryImageWrite (image : List Byte)
  | hostGRead (v : Nat) (addr : Addr) (len : Nat)
  | hostGWrite (v : Nat) (addr : Addr) (data : List Byte)
  -- engines and slices
  | matrixCommandGrant (quad : Nat)
  | matrixCommandComplete (k : Nat)
  | vectorCommandGrant (quad : Nat)
  | vectorCommandComplete (k : Nat)
  | copyTransferGrant (cl : Nat)
  | copyCommandComplete (k : Nat)
  | reductionContribution (slice : Nat)
  | reductionFlush (slice : Nat)
  | lineWriteback (line : Nat)
  | bankScrub (cl bank g : Nat) (e : ErrKind)
  | hbmScrub (line : Nat) (e : ErrKind)
  -- networks (21, 24)
  | packetDelivery (id : Nat)
  | packetNackResend (id : Nat)
  | packetEscape (id : Nat)
  | elevatorRetire (cl : Nat)
  | routeGenUpdate (cl : Nat)
  | linkPacketReceive (port : Nat) (out : Bool) (seq : BitVec 12) (crcOk : Bool)
  | linkAckTimer (port : Nat) (out : Bool)
  | linkReplayTimeout (port : Nat) (out : Bool)
  | laneDown (port : Nat) (out : Bool) (lane : Nat)
  | linkRetrainDone (port : Nat) (out : Bool)
  -- reliability, power, start (22, 23, 24)
  | twinPacketCompare (k : Nat)
  | twinHashTimeout (k : Nat)
  | selfTestComplete (k : Nat) (pass : Bool)
  | containedError (cl : Nat) (site : ErrSite)
  | doubleAbortTimer (k : Nat)
  | saveSequence (k : Nat)
  | coreStopReached (k : Nat)
  | napEntry (cl : Nat)
  | clusterWake (cl : Nat)
  | powerCapThrottle (above : Bool)
  | thermalStop
  | powerOnReset
  | illins (w : W32)
  | darkClusterBoot (cl : Nat)
  | thermalStopResume
  deriving DecidableEq, Repr

end Sys2Proof
end

