-- ==== Sys2Proof/WellFormed.lean ====
section
/-! DEFINITION. Which values of the fields an instruction may carry: those that have an encoding (02 R47 and
the tables of the instruction chapters). Everything else is a rejected value or a reserved bit. -/

namespace Sys2Proof

/-- A memory operand whose mode takes no displacement carries the displacement 0 (02 R42). -/
def MemOp.wf {n : Nat} (m : MemOp n) : Bool := m.mode.usesDisp || m.d == 0

/-- Sign extension is for loads narrower than a doubleword (02 R39). -/
def sxWf (z : Size) (sx : Bool) : Bool := !(sx && z == .d)

/-- The order values of an ordered G load (02 Table 2-4). -/
def Order.loadWf (o : Order) : Bool := o == .acq || o == .ar

/-- The order values of an ordered G store (02 Table 2-4). -/
def Order.storeWf (o : Order) : Bool := o == .rel || o == .ar

/-- An unordered AMOG has no scope: its scope bits are reserved (02 R41). -/
def scopeWf (o : Order) (s : Scope) : Bool := o != .none || s == .part

/-- A bank slot number (02 R47). -/
def slotWf (n : BitVec 4) : Bool := n.toNat ≤ 11

/-- A helper number (02 R47). -/
def helperWf (h : BitVec 4) : Bool := 1 ≤ h.toNat && h.toNat ≤ 10

/-- A CSR of Table 11-3: the indexed ones within their ranges. -/
def Csr.wf : Csr → Bool
  | .att n => n.toNat ≤ 11
  | _ => true

/-- The register number and count of `VWRG` and `CWRG` (08 R150, 09 R168). -/
def wrg8Wf (k : BitVec 4) (n : BitVec 5) : Bool := k.toNat ≤ 7 && 1 ≤ n.toNat && n.toNat ≤ 8

/-- The field values that have an encoding. -/
def Instr.wf : Instr → Bool
  | .csrr c => c.wf
  | .csrw c => c.wf
  | .csrs c => c.wf
  | .csrc c => c.wf
  | .waite m => m != 0
  | .ldl z sx m => sxWf z sx && m.wf
  | .ldc z sx m => sxWf z sx && m.wf
  | .ldg z sx m => sxWf z sx && m.wf
  | .ldgOrdered z sx o _ m => sxWf z sx && o.loadWf && m.wf
  | .ldw z sx m => sxWf z sx && m.wf
  | .ldwOrdered z sx o m => sxWf z sx && o != .none && m.wf
  | .stl _ m => m.wf
  | .stc _ m => m.wf
  | .stg _ m => m.wf
  | .stgOrdered _ o _ m => o.storeWf && m.wf
  | .stw _ m => m.wf
  | .stwOrdered _ o m => o != .none && m.wf
  | .ldlf _ m => m.wf
  | .ldlfC _ m => m.wf
  | .ldcf _ m => m.wf
  | .ldcfC _ m => m.wf
  | .stlf _ m => m.wf
  | .stcf _ m => m.wf
  | .feset m => m.wf
  | .feclr m => m.wf
  | .fetst m => m.wf
  | .amogAdd _ o s m => scopeWf o s && m.wf
  | .amogAnd _ o s m => scopeWf o s && m.wf
  | .amogOr _ o s m => scopeWf o s && m.wf
  | .amogXor _ o s m => scopeWf o s && m.wf
  | .amogMin _ o s m => scopeWf o s && m.wf
  | .amogMax _ o s m => scopeWf o s && m.wf
  | .amogMinu _ o s m => scopeWf o s && m.wf
  | .amogMaxu _ o s m => scopeWf o s && m.wf
  | .amogSwap _ o s m => scopeWf o s && m.wf
  | .amogCas _ o s m => scopeWf o s && m.wf
  | .amocAdd _ m => m.wf
  | .amocAnd _ m => m.wf
  | .amocOr _ m => m.wf
  | .amocSwap _ m => m.wf
  | .amocCas _ m => m.wf
  | .add _ m => m.wf
  | .adc _ m => m.wf
  | .sub _ m => m.wf
  | .sbc _ m => m.wf
  | .rsb _ m => m.wf
  | .adds _ m => m.wf
  | .addsu _ m => m.wf
  | .subs _ m => m.wf
  | .subsu _ m => m.wf
  | .mul _ m => m.wf
  | .mulh _ m => m.wf
  | .mulhu _ m => m.wf
  | .div _ m => m.wf
  | .divu _ m => m.wf
  | .rem _ m => m.wf
  | .remu _ m => m.wf
  | .and _ m => m.wf
  | .or _ m => m.wf
  | .xor _ m => m.wf
  | .andn _ m => m.wf
  | .shl _ m => m.wf
  | .shr _ m => m.wf
  | .sar _ m => m.wf
  | .rol _ m => m.wf
  | .ror _ m => m.wf
  | .min _ m => m.wf
  | .max _ m => m.wf
  | .minu _ m => m.wf
  | .maxu _ m => m.wf
  | .cmp _ m => m.wf
  | .tst _ m => m.wf
  | .fadd m => m.wf
  | .fsub m => m.wf
  | .frsub m => m.wf
  | .fmul m => m.wf
  | .fdiv m => m.wf
  | .fmin m => m.wf
  | .fmax m => m.wf
  | .fcmp m => m.wf
  | .fsqrt m => m.wf
  | .fcvtbf m => m.wf
  | .fcvthf m => m.wf
  | .frndbf m => m.wf
  | .frndhf m => m.wf
  | .fcvti m => m.wf
  | .fcvtf m => m.wf
  | .fcvtuf m => m.wf
  | .balloc n => slotWf n
  | .att n => slotWf n
  | .det n => slotWf n
  | .detZ n => slotWf n
  | .arm n _ => slotWf n
  | .bwait n => slotWf n
  | .openSlot n => slotWf n
  | .closeSlot n => slotWf n
  | .bqry n => slotWf n
  | .hov n => slotWf n
  | .start h _ => helperWf h
  | .startM h _ => helperWf h
  | .hwait h => helperWf h
  | .hkill h => helperWf h
  | .flow _ n => n != 0
  | .mxwrg _ n _ => 1 ≤ n.toNat && n.toNat ≤ 16
  | .vred a _ _ rv => !rv || a == 0
  | .vwr k _ => k.toNat ≤ 7
  | .vwrg k n _ => wrg8Wf k n
  | .vrd k => k.toNat ≤ 7
  | .cwr k _ => k.toNat ≤ 7
  | .cwrg k n _ => wrg8Wf k n
  | _ => true

end Sys2Proof
end

