-- ==== Sys2Proof/Decode.lean ====
section
/-! DEFINITION. Decoding of instruction words, total, rejecting by name (02 R38 to R47), and the encoder
written from the same tables. -/

namespace Sys2Proof

/-- Why a word is not an instruction (02 R47). -/
inductive Reject where
  /-- The major opcode is unassigned. -/
  | major
  /-- The function value is unassigned for its major. -/
  | func
  /-- The mode field is 0b111. -/
  | mode
  /-- A field holds a value that a table rejects. -/
  | value
  /-- A bit reserved for the instruction is not zero. -/
  | reserved
  deriving DecidableEq, Repr

/-! ### Fields and their codes -/

def Size.code : Size → BitVec 2
  | .b => 0 | .h => 1 | .w => 2 | .d => 3

def Size.ofCode (c : BitVec 2) : Size :=
  match c.toNat with
  | 0 => .b | 1 => .h | 2 => .w | _ => .d

def Mode.code : Mode → BitVec 3
  | .disp => 0 | .postStride => 1 | .preStride => 2 | .postSize => 3 | .dispWrite => 4 | .indexA => 5
  | .postNeg => 6

def Mode.ofCode (c : BitVec 3) : Option Mode :=
  match c.toNat with
  | 0 => some .disp | 1 => some .postStride | 2 => some .preStride | 3 => some .postSize
  | 4 => some .dispWrite | 5 => some .indexA | 6 => some .postNeg | _ => none

def Order.code : Order → BitVec 2
  | .none => 0 | .acq => 1 | .rel => 2 | .ar => 3

def Order.ofCode (c : BitVec 2) : Order :=
  match c.toNat with
  | 0 => .none | 1 => .acq | 2 => .rel | _ => .ar

def Scope.code : Scope → BitVec 2
  | .part => 0 | .dev => 1 | .sys => 2

def Scope.ofCode (c : BitVec 2) : Option Scope :=
  match c.toNat with
  | 0 => some .part | 1 => some .dev | 2 => some .sys | _ => none

def Cond.code : Cond → BitVec 4
  | .eq => 0 | .ne => 1 | .lt => 2 | .ge => 3 | .le => 4 | .gt => 5 | .ult => 6 | .uge => 7 | .ule => 8
  | .ugt => 9 | .neg => 10 | .pos => 11 | .ov => 12 | .nov => 13 | .sat => 14 | .always => 15

def Cond.ofCode (c : BitVec 4) : Cond :=
  match c.toNat with
  | 0 => .eq | 1 => .ne | 2 => .lt | 3 => .ge | 4 => .le | 5 => .gt | 6 => .ult | 7 => .uge | 8 => .ule
  | 9 => .ugt | 10 => .neg | 11 => .pos | 12 => .ov | 13 => .nov | 14 => .sat | _ => .always

def Link.code : Link → BitVec 3
  | .n => 0 | .e => 1 | .s => 2 | .w => 3 | .xe => 4 | .xw => 5

def Link.ofCode (c : BitVec 3) : Option Link :=
  match c.toNat with
  | 0 => some .n | 1 => some .e | 2 => some .s | 3 => some .w | 4 => some .xe | 5 => some .xw | _ => none

def ICScope.code : ICScope → BitVec 2
  | .ctx => 0 | .core => 1 | .cluster => 2 | .part => 3

def ICScope.ofCode (c : BitVec 2) : ICScope :=
  match c.toNat with
  | 0 => .ctx | 1 => .core | 2 => .cluster | _ => .part

def TlbScope.code : TlbScope → BitVec 2
  | .core => 0 | .cluster => 1 | .part => 2

def TlbScope.ofCode (c : BitVec 2) : Option TlbScope :=
  match c.toNat with
  | 0 => some .core | 1 => some .cluster | 2 => some .part | _ => none

def VCond.code : VCond → BitVec 3
  | .eq => 0 | .ne => 1 | .lt => 2 | .le => 3 | .gt => 4 | .ge => 5 | .ord => 6 | .unord => 7

def VCond.ofCode (c : BitVec 3) : VCond :=
  match c.toNat with
  | 0 => .eq | 1 => .ne | 2 => .lt | 3 => .le | 4 => .gt | 5 => .ge | 6 => .ord | _ => .unord

def ROp.code : ROp → BitVec 3
  | .sum => 0 | .max => 1 | .min => 2 | .asum => 3

def ROp.ofCode (c : BitVec 3) : Option ROp :=
  match c.toNat with
  | 0 => some .sum | 1 => some .max | 2 => some .min | 3 => some .asum | _ => none

/-- The number of a CSR (11 Table 11-3). -/
def Csr.code : Csr → BitVec 12
  | .st => 0x000 | .lc0 => 0x001 | .lc1 => 0x002 | .tvec => 0x008
  | .tpc => 0x010 | .tcause => 0x011 | .taddr => 0x012 | .tval => 0x013
  | .oorf => 0x018 | .oora => 0x019
  | .log k => 0x020 + k.zeroExtend 12
  | .cyc => 0x030 | .core => 0x031 | .flowcyc => 0x032
  | .att n => 0x040 + n.zeroExtend 12
  | .vtime => 0x060
  | .vcnt k => 0x068 + k.zeroExtend 12
  | .capid => 0x080 | .capb => 0x081 | .capc => 0x082 | .cload => 0x090 | .migctl => 0x091
  | .pbase => 0x0A0 | .plen => 0x0A1 | .pflowmax => 0x0A2 | .psel => 0x0A3
  | .gscyc => 0x0B0 | .gstx => 0x0B1 | .gsrx => 0x0B2

/-- The CSR of a number; none where Table 11-3 lists no CSR. -/
def Csr.ofCode (c : BitVec 12) : Option Csr :=
  match c.toNat with
  | 0x000 => some .st | 0x001 => some .lc0 | 0x002 => some .lc1 | 0x008 => some .tvec
  | 0x010 => some .tpc | 0x011 => some .tcause | 0x012 => some .taddr | 0x013 => some .tval
  | 0x018 => some .oorf | 0x019 => some .oora
  | 0x020 => some (.log 0) | 0x021 => some (.log 1) | 0x022 => some (.log 2) | 0x023 => some (.log 3)
  | 0x024 => some (.log 4) | 0x025 => some (.log 5) | 0x026 => some (.log 6) | 0x027 => some (.log 7)
  | 0x030 => some .cyc | 0x031 => some .core | 0x032 => some .flowcyc
  | 0x040 => some (.att 0) | 0x041 => some (.att 1) | 0x042 => some (.att 2) | 0x043 => some (.att 3)
  | 0x044 => some (.att 4) | 0x045 => some (.att 5) | 0x046 => some (.att 6) | 0x047 => some (.att 7)
  | 0x048 => some (.att 8) | 0x049 => some (.att 9) | 0x04A => some (.att 10) | 0x04B => some (.att 11)
  | 0x060 => some .vtime
  | 0x068 => some (.vcnt 0) | 0x069 => some (.vcnt 1) | 0x06A => some (.vcnt 2) | 0x06B => some (.vcnt 3)
  | 0x06C => some (.vcnt 4) | 0x06D => some (.vcnt 5) | 0x06E => some (.vcnt 6) | 0x06F => some (.vcnt 7)
  | 0x080 => some .capid | 0x081 => some .capb | 0x082 => some .capc | 0x090 => some .cload
  | 0x091 => some .migctl | 0x0A0 => some .pbase | 0x0A1 => some .plen | 0x0A2 => some .pflowmax
  | 0x0A3 => some .psel | 0x0B0 => some .gscyc | 0x0B1 => some .gstx | 0x0B2 => some .gsrx
  | _ => none

/-! ### The nine formats (02 Table 2-3) -/

/-- Formats S and I: a function and 20 bits. -/
def packI (major : BitVec 6) (func : BitVec 6) (i : BitVec 20) : W32 := (major ++ func ++ i : BitVec 32)

/-- Format L. -/
def packL (major : BitVec 6) (p m : BitVec 3) (z : BitVec 2) (sx : BitVec 1) (o : BitVec 2) (d : BitVec 15) :
    W32 := (major ++ p ++ m ++ z ++ sx ++ o ++ d : BitVec 32)

/-- Format A. -/
def packA (major : BitVec 6) (p m : BitVec 3) (z : BitVec 2) (func : BitVec 6) (d : BitVec 12) : W32 :=
  (major ++ p ++ m ++ z ++ func ++ d : BitVec 32)

/-- Format B. -/
def packB (major : BitVec 6) (c : BitVec 4) (o : BitVec 22) : W32 := (major ++ c ++ o : BitVec 32)

/-- Format P. -/
def packP (major : BitVec 6) (n m : BitVec 3) (func : BitVec 4) (i : BitVec 16) : W32 :=
  (major ++ n ++ m ++ func ++ i : BitVec 32)

/-- Format E. -/
def packE (major : BitVec 6) (a b : BitVec 3) (func : BitVec 6) (o : BitVec 14) : W32 :=
  (major ++ a ++ b ++ func ++ o : BitVec 32)

/-- Format K, and the thread instructions that name a helper: a function, 4 bits and 16 bits. -/
def packK (major : BitVec 6) (func : BitVec 6) (s : BitVec 4) (i : BitVec 16) : W32 :=
  (major ++ func ++ s ++ i : BitVec 32)

/-- Format F. -/
def packF (func : BitVec 4) (dir p : BitVec 3) (s : BitVec 16) : W32 :=
  ((0x19 : BitVec 6) ++ func ++ dir ++ p ++ s : BitVec 32)

/-- A memory operand from its fields (02 R42). -/
def memOp {n : Nat} (p m : BitVec 3) (d : BitVec n) : Except Reject (MemOp n) :=
  match Mode.ofCode m with
  | none => .error .mode
  | some mode => if mode.usesDisp || d == 0 then .ok ⟨p, mode, d⟩ else .error .reserved

/-- Refuse unless a condition on the fields holds. -/
def need (ok : Bool) (r : Reject) (i : Except Reject Instr) : Except Reject Instr :=
  if ok then i else .error r

/-! ### Decoding by major opcode -/

/-- Major 0x00, SYS (02 Table 2-7, 11 Table 11-1). -/
def decodeSys (f : BitVec 6) (i : BitVec 20) : Except Reject Instr :=
  let csr (k : Csr → Instr) : Except Reject Instr :=
    need (bits i 12 8 == 0) .reserved
      (match Csr.ofCode (bits i 0 12) with
       | some c => .ok (k c)
       | none => .error .value)
  let c6 : BitVec 6 := bits i 0 6
  match f.toNat with
  | 0x01 => need (i == 0) .reserved (.ok .nop)
  | 0x02 => .ok (.trap i)
  | 0x03 => need (i == 0) .reserved (.ok .eret)
  | 0x04 => csr .csrr
  | 0x05 => csr .csrw
  | 0x06 => csr .csrs
  | 0x07 => csr .csrc
  | 0x08 => need (bits i 4 16 == 0) .reserved (need (bits i 0 4 != 0) .value (.ok (.waite (bits i 0 4))))
  | 0x09 => need (bits i 7 13 == 0) .reserved (.ok (.halt (bits i 6 1 == 1) c6))
  | 0x0A => need (bits i 2 18 == 0) .reserved (.ok (.icinv (ICScope.ofCode (bits i 0 2))))
  | 0x0B => need (bits i 7 13 == 0) .reserved (.ok (.tlbw (bits i 6 1 == 1) c6))
  | 0x0C => need (bits i 9 11 == 0) .reserved
      (match TlbScope.ofCode (bits i 0 2) with
       | some s => .ok (.tlbinv (bits i 8 1 == 1) (bits i 2 6) s)
       | none => .error .value)
  | 0x0D => need (bits i 6 14 == 0) .reserved (.ok (.revoke c6))
  | 0x0E => need (bits i 6 14 == 0) .reserved (.ok (.ctxsv c6))
  | 0x0F => need (bits i 6 14 == 0) .reserved (.ok (.ctxld c6))
  | 0x10 => need (bits i 7 13 == 0) .reserved (.ok (.gstop (bits i 1 6) (bits i 0 1 == 1)))
  | 0x11 => .ok (.dbrk i)
  | 0x12 => need (i == 0) .reserved (.ok .rdtime)
  | 0x13 => need (i == 0) .reserved (.ok .rdcyc)
  | 0x14 => need (bits i 3 17 == 0) .reserved (.ok (.reissue (bits i 0 3)))
  | 0x15 => need (i == 0) .reserved (.ok .oorclr)
  | 0x16 => need (i == 0) .reserved (.ok .movrv)
  | _ => .error .func

/-- The load majors without order (`LDL`, `LDC`) or with order 0. -/
def decodeLoad (k : Size → Bool → MemOp 15 → Instr) (p m : BitVec 3) (z : BitVec 2) (sx : Bool)
    (d : BitVec 15) : Except Reject Instr :=
  match memOp p m d with
  | .error r => .error r
  | .ok mo => need (sxWf (Size.ofCode z) sx) .reserved (.ok (k (Size.ofCode z) sx mo))

/-- The store majors without order or with order 0: sx is reserved (02 R39). -/
def decodeStore (k : Size → MemOp 15 → Instr) (p m : BitVec 3) (z : BitVec 2) (sx : Bool) (d : BitVec 15) :
    Except Reject Instr :=
  match memOp p m d with
  | .error r => .error r
  | .ok mo => need (!sx) .reserved (.ok (k (Size.ofCode z) mo))

/-- Format L, majors 0x01 to 0x08 (02 R39, R40). -/
def decodeL (major : Nat) (p m : BitVec 3) (z : BitVec 2) (sx : Bool) (o : BitVec 2) (d : BitVec 15) :
    Except Reject Instr :=
  let plain := o == 0
  let ord := Order.ofCode o
  let zz := Size.ofCode z
  let withScope (k : Scope → MemOp 13 → Except Reject Instr) : Except Reject Instr :=
    match Scope.ofCode (bits d 13 2) with
    | none => .error .value
    | some s =>
      match memOp p m (bits d 0 13) with
      | .error r => .error r
      | .ok mo => k s mo
  match major with
  | 1 => need plain .value (decodeLoad .ldl p m z sx d)
  | 2 => need plain .value (decodeLoad .ldc p m z sx d)
  | 3 =>
    if plain then decodeLoad .ldg p m z sx d
    else need ord.loadWf .value (need (sxWf zz sx) .reserved (withScope fun s mo => .ok (.ldgOrdered zz sx ord s mo)))
  | 4 =>
    if plain then decodeLoad .ldw p m z sx d
    else need (sxWf zz sx && bits d 13 2 == 0) .reserved (withScope fun _ mo => .ok (.ldwOrdered zz sx ord mo))
  | 5 => need plain .value (decodeStore .stl p m z sx d)
  | 6 => need plain .value (decodeStore .stc p m z sx d)
  | 7 =>
    if plain then decodeStore .stg p m z sx d
    else need ord.storeWf .value (need (!sx) .reserved (withScope fun s mo => .ok (.stgOrdered zz ord s mo)))
  | 8 =>
    if plain then decodeStore .stw p m z sx d
    else need (!sx && bits d 13 2 == 0) .reserved (withScope fun _ mo => .ok (.stwOrdered zz ord mo))
  | _ => .error .major

/-- The ALU functions in the order of their codes (02 Table 2-8). -/
def aluTable : List (Size → MemOp 12 → Instr) :=
  [.add, .adc, .sub, .sbc, .rsb, .adds, .addsu, .subs, .subsu, .mul, .mulh, .mulhu, .div, .divu, .rem, .remu,
   .and, .or, .xor, .andn, .shl, .shr, .sar, .rol, .ror, .min, .max, .minu, .maxu, .cmp, .tst]

/-- The FPU functions with the only size each accepts (02 Table 2-9). -/
def fpuTable : List (Size × (MemOp 12 → Instr)) :=
  [(.w, .fadd), (.w, .fsub), (.w, .frsub), (.w, .fmul), (.w, .fdiv), (.w, .fmin), (.w, .fmax), (.w, .fcmp),
   (.w, .fsqrt), (.h, .fcvtbf), (.h, .fcvthf), (.w, .frndbf), (.w, .frndhf), (.w, .fcvti), (.w, .fcvtf),
   (.w, .fcvtuf)]

/-- The full/empty functions with sizes (02 Table 2-10). -/
def feTable : List (Size → MemOp 12 → Instr) := [.ldlf, .ldlfC, .ldcf, .ldcfC, .stlf, .stcf]

/-- The full/empty functions that require size b (02 Table 2-10). -/
def feBitTable : List (MemOp 12 → Instr) := [.feset, .feclr, .fetst]

/-- The G atomics (02 Table 2-10). -/
def amogTable : List (Bool → Order → Scope → MemOp 8 → Instr) :=
  [.amogAdd, .amogAnd, .amogOr, .amogXor, .amogMin, .amogMax, .amogMinu, .amogMaxu, .amogSwap, .amogCas]

/-- The C atomics (02 Table 2-10). -/
def amocTable : List (Bool → MemOp 8 → Instr) := [.amocAdd, .amocAnd, .amocOr, .amocSwap, .amocCas]

/-- Format A, majors 0x09 to 0x0C and 0x0E. -/
def decodeA (major : Nat) (p m : BitVec 3) (z : BitVec 2) (f : BitVec 6) (d : BitVec 12) : Except Reject Instr :=
  let zz := Size.ofCode z
  let with12 (k : MemOp 12 → Except Reject Instr) : Except Reject Instr :=
    match memOp p m d with
    | .error r => .error r
    | .ok mo => k mo
  let with8 (k : MemOp 8 → Except Reject Instr) : Except Reject Instr :=
    match memOp p m (bits d 0 8) with
    | .error r => .error r
    | .ok mo => k mo
  let wd := zz == .w || zz == .d
  match major with
  | 0x09 =>
    match feTable[f.toNat]? with
    | some k => with12 fun mo => .ok (k zz mo)
    | none =>
      match feBitTable[f.toNat - 6]? with
      | some k => need (zz == .b) .value (with12 fun mo => .ok (k mo))
      | none => .error .func
  | 0x0A =>
    match amogTable[f.toNat]?, Scope.ofCode (bits d 8 2) with
    | none, _ => .error .func
    | some _, none => .error .value
    | some k, some s =>
      need wd .value (need (scopeWf (Order.ofCode (bits d 10 2)) s) .reserved
        (with8 fun mo => .ok (k (zz == .d) (Order.ofCode (bits d 10 2)) s mo)))
  | 0x0B =>
    match amocTable[f.toNat]? with
    | none => .error .func
    | some k => need wd .value (need (bits d 8 4 == 0) .reserved (with8 fun mo => .ok (k (zz == .d) mo)))
  | 0x0C =>
    match aluTable[f.toNat]? with
    | none => .error .func
    | some k => with12 fun mo => .ok (k zz mo)
  | 0x0E =>
    match fpuTable[f.toNat]? with
    | none => .error .func
    | some (sz, k) => need (zz == sz) .value (with12 fun mo => .ok (k mo))
  | _ => .error .major

/-- The immediate ALU functions with a 20-bit immediate, and none where the function is a shift. -/
def aluiTable : List (Option (BitVec 20 → Instr)) :=
  [some .addi, some .addsi, some .rsbi, some .muli, some .andi, some .ori, some .xori, none, none, none, none,
   some .cmpi, some .tsti]

/-- The shift functions of ALUI, from function 0x07 on (04 Table 4-3). -/
def aluiShiftTable : List (BitVec 6 → Instr) := [.shli, .shri, .sari, .rori]

/-- The unary functions (02 Table 2-9). -/
def unaTable : List Instr :=
  [.not, .neg, .abs, .negs, .abss, .clz, .ctz, .popc, .bswap, .sextb, .sexth, .sextw, .zextb, .zexth, .zextw]

/-- Format I majors 0x0D, 0x0F, 0x14, 0x15, 0x17 and 0x18. -/
def decodeI (major : Nat) (f : BitVec 6) (i : BitVec 20) : Except Reject Instr :=
  let h : BitVec 4 := bits i 16 4
  let g : BitVec 8 := bits i 0 8
  match major with
  | 0x0D =>
    match aluiTable[f.toNat]? with
    | some (some k) => .ok (k i)
    | some none =>
      match aluiShiftTable[f.toNat - 7]? with
      | some k => need (bits i 6 14 == 0) .reserved (.ok (k (bits i 0 6)))
      | none => .error .func
    | none => .error .func
  | 0x0F =>
    match unaTable[f.toNat]? with
    | some k => need (i == 0) .reserved (.ok k)
    | none => .error .func
  | 0x14 => need (f == 0) .func (.ok (.li i))
  | 0x15 => need (f == 0) .func (.ok (.lih i))
  | 0x17 =>
    match f.toNat with
    | 0 => need (helperWf h) .value (.ok (.start h (bits i 0 16)))
    | 1 => need (helperWf h) .value (.ok (.startM h (bits i 0 16)))
    | 2 => need (i == 0) .reserved (.ok .endT)
    | 3 => need (helperWf h) .value (need (bits i 0 16 == 0) .reserved (.ok (.hwait h)))
    | 4 => need (helperWf h) .value (need (bits i 0 16 == 0) .reserved (.ok (.hkill h)))
    | 5 => need (i == 0) .reserved (.ok .yield)
    | 6 => need (i == 0) .reserved (.ok .self)
    | 7 => need (i == 0) .reserved (.ok .spawn)
    | _ => .error .func
  | 0x18 =>
    match f.toNat with
    | 0 => need (bits i 8 12 == 0) .reserved (.ok (.join g))
    | 1 => need (bits i 8 12 == 0) .reserved (.ok (.leave g))
    | 2 => need (bits i 8 12 == 0) .reserved (.ok (.bar g))
    | _ => .error .func
  | _ => .error .major

/-- Format P, majors 0x10 and 0x13 (04 R80, R83, R84). -/
def decodeP (major : Nat) (n m : BitVec 3) (f : BitVec 4) (i : BitVec 16) : Except Reject Instr :=
  let loopReg (k : Bool → BitVec 16 → Instr) : Except Reject Instr :=
    need (n.toNat ≤ 1) .value (need (m == 0) .reserved (.ok (k (n == 1) i)))
  match major, f.toNat with
  | 0x10, 0 => need (i == 0) .reserved (.ok (.pmov n m))
  | 0x10, 1 => .ok (.paddi n m i)
  | 0x10, 2 => need (i == 0) .reserved (.ok (.padda n m))
  | 0x10, 3 => need (m == 0) .reserved (.ok (.pstr n i))
  | 0x10, 4 => need (m == 0 && i == 0) .reserved (.ok (.pget n))
  | 0x10, 5 => need (m == 0 && i == 0) .reserved (.ok (.pset n))
  | 0x10, 6 => need (i == 0) .reserved (.ok (.psub n m))
  | 0x13, 0 => need (m == 0) .reserved (.ok (.jmp n i))
  | 0x13, 1 => need (n == 0 && m == 0 && i == 0) .reserved (.ok .ret)
  | 0x13, 2 => loopReg .loop
  | 0x13, 3 => loopReg .dbnz
  | _, _ => .error .func

/-- Major 0x16, BANK (06 Table 6-1). -/
def decodeK (f : BitVec 6) (s : BitVec 4) (i : BitVec 16) : Except Reject Instr :=
  let plain (k : BitVec 4 → Instr) : Except Reject Instr :=
    need (slotWf s) .value (need (i == 0) .reserved (.ok (k s)))
  match f.toNat with
  | 0 => plain .balloc
  | 1 => plain .att
  | 2 => plain .det
  | 3 => plain .detZ
  | 4 => need (slotWf s) .value (.ok (.arm s i))
  | 5 => plain .bwait
  | 6 => plain .openSlot
  | 7 => plain .closeSlot
  | 8 => plain .bqry
  | 9 => plain .hov
  | _ => .error .func

/-- Major 0x19, FLW (10 Table 10-1). -/
def decodeF (f : BitVec 4) (dir p : BitVec 3) (s : BitVec 16) (w22 : BitVec 22) : Except Reject Instr :=
  let linked (k : Link → Except Reject Instr) : Except Reject Instr :=
    match Link.ofCode dir with
    | some l => k l
    | none => .error .value
  match f.toNat with
  | 0 => need (bits w22 0 14 != 0) .value (.ok (.flow (bits w22 14 8) (bits w22 0 14)))
  | 1 => linked fun l => .ok (.xmit l p s)
  | 2 => linked fun l => need (p == 0) .reserved (.ok (.muxs l s))
  | 3 => need (dir == 0) .reserved (.ok (.recv p s))
  | 4 => linked fun l => need (p == 0) .reserved (.ok (.xfwd l s))
  | 5 => need (w22 == 0) .reserved (.ok .flend)
  | _ => .error .func

/-- Vector functions with two pointers and no option (08 Table 8-1), by function code. -/
def vxPlain (f : Nat) : Option (PReg → PReg → Instr) :=
  match f with
  | 0x06 => some .vabs | 0x07 => some .vneg | 0x08 => some .vexp2 | 0x09 => some .vlog2 | 0x0A => some .vrcp
  | 0x0B => some .vrsq | 0x0C => some .vtanh | 0x0D => some .vcvt | 0x0F => some .vscan | 0x12 => some .vclamp
  | 0x14 => some .vgath | 0x15 => some .vscat
  | _ => none

/-- Vector functions whose only option is `sc`, by function code. -/
def vxScalar (f : Nat) : Option (PReg → PReg → Bool → Instr) :=
  match f with
  | 0x00 => some .vadd | 0x01 => some .vsub | 0x02 => some .vmul | 0x03 => some .vfma | 0x04 => some .vmin
  | 0x05 => some .vmax | 0x11 => some .vsel
  | _ => none

/-- Major 0x1B, VX (08 R150). -/
def decodeV (a b : BitVec 3) (f : BitVec 6) (o : BitVec 14) : Except Reject Instr :=
  match vxPlain f.toNat, vxScalar f.toNat with
  | some k, _ => need (o == 0) .reserved (.ok (k a b))
  | none, some k => need (bits o 1 13 == 0) .reserved (.ok (k a b (bits o 0 1 == 1)))
  | none, none =>
    match f.toNat with
    | 0x0E =>
      need (bits o 5 9 == 0 && bits o 0 1 == 0) .reserved
        (match ROp.ofCode (bits o 1 3) with
         | none => .error .value
         | some r => need (bits o 4 1 == 0 || a == 0) .reserved (.ok (.vred a b r (bits o 4 1 == 1))))
    | 0x10 => need (bits o 6 8 == 0 && bits o 0 5 == 0) .reserved (.ok (.vafs a b (bits o 5 1 == 1)))
    | 0x13 => need (bits o 4 10 == 0) .reserved (.ok (.vcmp a b (VCond.ofCode (bits o 1 3)) (bits o 0 1 == 1)))
    | 0x16 =>
      need (b == 0 && bits o 4 10 == 0) .reserved
        (need ((bits o 0 4).toNat ≤ 7) .value (.ok (.vwr (bits o 0 4) a)))
    | 0x17 =>
      need (b == 0 && bits o 9 5 == 0) .reserved
        (need (wrg8Wf (bits o 0 4) (bits o 4 5)) .value (.ok (.vwrg (bits o 0 4) (bits o 4 5) a)))
    | 0x18 =>
      need (a == 0 && b == 0 && bits o 4 10 == 0) .reserved
        (need ((bits o 0 4).toNat ≤ 7) .value (.ok (.vrd (bits o 0 4))))
    | 0x19 => need (a == 0 && b == 0 && o == 0) .reserved (.ok .vwait)
    | _ => .error .func

/-- Majors 0x1A, 0x1C and 0x1D: MX, CP and RD (07 Table 7-1, 09 Table 9-1). -/
def decodeE (major : Nat) (a b : BitVec 3) (f : BitVec 6) (o : BitVec 14) : Except Reject Instr :=
  let two (k : PReg → PReg → Instr) : Except Reject Instr := need (o == 0) .reserved (.ok (k a b))
  let zero (k : Instr) : Except Reject Instr := need (a == 0 && b == 0 && o == 0) .reserved (.ok k)
  match major, f.toNat with
  | 0x1A, 0x00 => two .mxls
  | 0x1A, 0x01 => zero .mxflip
  | 0x1A, 0x02 => two .mxst
  | 0x1A, 0x03 => zero .mxzero
  | 0x1A, 0x04 => zero .mxswap
  | 0x1A, 0x05 => two .mxdrn
  | 0x1A, 0x06 => zero .mxckl
  | 0x1A, 0x07 => zero .mxckf
  | 0x1A, 0x08 => zero .mxrty
  | 0x1A, 0x09 => zero .mxwait
  | 0x1A, 0x0A => need (a == 0 && b == 0 && bits o 4 10 == 0) .reserved (.ok (.mxrd (bits o 0 4)))
  | 0x1A, 0x0B => need (b == 0 && bits o 4 10 == 0) .reserved (.ok (.mxwr (bits o 0 4) a))
  | 0x1A, 0x0C =>
    need (b == 0 && bits o 9 5 == 0) .reserved
      (need (1 ≤ (bits o 4 5).toNat && (bits o 4 5).toNat ≤ 16) .value (.ok (.mxwrg (bits o 0 4) (bits o 4 5) a)))
  | 0x1C, 0x00 => two .cg2l
  | 0x1C, 0x01 => two .cl2g
  | 0x1C, 0x02 => two .cl2c
  | 0x1C, 0x03 => two .cc2l
  | 0x1C, 0x04 => two .cw2l
  | 0x1C, 0x05 => two .cl2w
  | 0x1C, 0x06 => two .cx2g
  | 0x1C, 0x07 => two .cg2x
  | 0x1C, 0x08 =>
    need (b == 0 && bits o 4 10 == 0) .reserved
      (need ((bits o 0 4).toNat ≤ 7) .value (.ok (.cwr (bits o 0 4) a)))
  | 0x1C, 0x09 =>
    need (b == 0 && bits o 9 5 == 0) .reserved
      (need (wrg8Wf (bits o 0 4) (bits o 4 5)) .value (.ok (.cwrg (bits o 0 4) (bits o 4 5) a)))
  | 0x1C, 0x0A => zero .cwait
  | 0x1D, 0x00 => two .rdadd
  | 0x1D, 0x01 => need (b == 0 && o == 0) .reserved (.ok (.rdflush a))
  | 0x1D, 0x02 => zero .rdwait
  | _, _ => .error .func

/-- The instruction a word names, or why it names none (02 R38, R45, R47). -/
def decode (w : W32) : Except Reject Instr :=
  let p : BitVec 3 := bits w 23 3
  let m : BitVec 3 := bits w 20 3
  let z : BitVec 2 := bits w 18 2
  let f6 : BitVec 6 := bits w 20 6
  match (bits w 26 6).toNat with
  | 0x00 => decodeSys f6 (bits w 0 20)
  | 0x01 => decodeL 1 p m z (bits w 17 1 == 1) (bits w 15 2) (bits w 0 15)
  | 0x02 => decodeL 2 p m z (bits w 17 1 == 1) (bits w 15 2) (bits w 0 15)
  | 0x03 => decodeL 3 p m z (bits w 17 1 == 1) (bits w 15 2) (bits w 0 15)
  | 0x04 => decodeL 4 p m z (bits w 17 1 == 1) (bits w 15 2) (bits w 0 15)
  | 0x05 => decodeL 5 p m z (bits w 17 1 == 1) (bits w 15 2) (bits w 0 15)
  | 0x06 => decodeL 6 p m z (bits w 17 1 == 1) (bits w 15 2) (bits w 0 15)
  | 0x07 => decodeL 7 p m z (bits w 17 1 == 1) (bits w 15 2) (bits w 0 15)
  | 0x08 => decodeL 8 p m z (bits w 17 1 == 1) (bits w 15 2) (bits w 0 15)
  | 0x09 => decodeA 0x09 p m z (bits w 12 6) (bits w 0 12)
  | 0x0A => decodeA 0x0A p m z (bits w 12 6) (bits w 0 12)
  | 0x0B => decodeA 0x0B p m z (bits w 12 6) (bits w 0 12)
  | 0x0C => decodeA 0x0C p m z (bits w 12 6) (bits w 0 12)
  | 0x0D => decodeI 0x0D f6 (bits w 0 20)
  | 0x0E => decodeA 0x0E p m z (bits w 12 6) (bits w 0 12)
  | 0x0F => decodeI 0x0F f6 (bits w 0 20)
  | 0x10 => decodeP 0x10 p m (bits w 16 4) (bits w 0 16)
  | 0x11 => .ok (.b (Cond.ofCode (bits w 22 4)) (bits w 0 22))
  | 0x12 => need (bits w 22 4 == 0) .reserved (.ok (.call (bits w 0 22)))
  | 0x13 => decodeP 0x13 p m (bits w 16 4) (bits w 0 16)
  | 0x14 => decodeI 0x14 f6 (bits w 0 20)
  | 0x15 => decodeI 0x15 f6 (bits w 0 20)
  | 0x16 => decodeK f6 (bits w 16 4) (bits w 0 16)
  | 0x17 => decodeI 0x17 f6 (bits w 0 20)
  | 0x18 => decodeI 0x18 f6 (bits w 0 20)
  | 0x19 => decodeF (bits w 22 4) (bits w 19 3) (bits w 16 3) (bits w 0 16) (bits w 0 22)
  | 0x1A => decodeE 0x1A p m (bits w 14 6) (bits w 0 14)
  | 0x1B => decodeV p m (bits w 14 6) (bits w 0 14)
  | 0x1C => decodeE 0x1C p m (bits w 14 6) (bits w 0 14)
  | 0x1D => decodeE 0x1D p m (bits w 14 6) (bits w 0 14)
  | _ => .error .major

/-- Four bytes, the lowest address first, as one word (02 R34: little-endian). -/
def wordOfBytes (b0 b1 b2 b3 : Byte) : W32 := (b3 ++ b2 ++ b1 ++ b0 : BitVec 32)

/-- The instruction read from the bytes of an instruction word, with the bytes that follow. -/
def decodeBytes : List Byte → Except Reject (Instr × List Byte)
  | b0 :: b1 :: b2 :: b3 :: rest =>
    match decode (wordOfBytes b0 b1 b2 b3) with
    | .ok i => .ok (i, rest)
    | .error r => .error r
  | _ => .error .value

/-- The four bytes of a word in memory order. -/
def bytesOfWord (w : W32) : List Byte := [bits w 0 8, bits w 8 8, bits w 16 8, bits w 24 8]

/-- What the decoder reads from an opcode-table word of `nbits` bits; the bits above are zero. -/
def decodeTableWord (nbits w : Nat) : Option Instr :=
  match decodeBytes (bytesOfWord (BitVec.ofNat 32 (w % 2 ^ nbits))) with
  | .ok (i, _) => some i
  | .error _ => none

/-! ### The encoder -/

/-- A Bool as one bit. -/
def bit1 (x : Bool) : BitVec 1 := if x then 1 else 0

def encS (func : BitVec 6) (i : BitVec 20) : Option W32 := some (packI 0 func i)

def encL (major : BitVec 6) (z : Size) (sx : Bool) (m : MemOp 15) : Option W32 :=
  some (packL major m.p m.mode.code z.code (bit1 sx) 0 m.d)

/-- Format L with order and scope (02 R40). -/
def encLO (major : BitVec 6) (z : Size) (sx : Bool) (o : Order) (s : Scope) (m : MemOp 13) : Option W32 :=
  some (packL major m.p m.mode.code z.code (bit1 sx) o.code (s.code ++ m.d : BitVec 15))

def encA (major : BitVec 6) (func : BitVec 6) (z : Size) (m : MemOp 12) : Option W32 :=
  some (packA major m.p m.mode.code z.code func m.d)

/-- Format A with the divided displacement of AMOG (02 R41). -/
def encAG (func : BitVec 6) (d64 : Bool) (o : Order) (s : Scope) (m : MemOp 8) : Option W32 :=
  some (packA 0x0A m.p m.mode.code (if d64 then 3 else 2) func (o.code ++ s.code ++ m.d : BitVec 12))

/-- Format A with the displacement of AMOC (02 R41). -/
def encAC (func : BitVec 6) (d64 : Bool) (m : MemOp 8) : Option W32 :=
  some (packA 0x0B m.p m.mode.code (if d64 then 3 else 2) func ((0 : BitVec 4) ++ m.d : BitVec 12))

def encI (major : BitVec 6) (func : BitVec 6) (i : BitVec 20) : Option W32 := some (packI major func i)

def encP (major : BitVec 6) (n m : PReg) (func : BitVec 4) (i : BitVec 16) : Option W32 :=
  some (packP major n m func i)

def encK (func : BitVec 6) (s : BitVec 4) (i : BitVec 16) : Option W32 := some (packK 0x16 func s i)

def encT (func : BitVec 6) (h : BitVec 4) (i : BitVec 16) : Option W32 := some (packK 0x17 func h i)

def encG (func : BitVec 6) (g : BitVec 8) : Option W32 := some (packI 0x18 func ((0 : BitVec 12) ++ g : BitVec 20))

def encF (func : BitVec 4) (dir : BitVec 3) (p : PReg) (s : BitVec 16) : Option W32 := some (packF func dir p s)

def encE (major : BitVec 6) (a b : PReg) (func : BitVec 6) (o : BitVec 14) : Option W32 :=
  some (packE major a b func o)

/-- Options holding a register number and a count. -/
def optKN (k : BitVec 4) (n : BitVec 5) : BitVec 14 := ((0 : BitVec 5) ++ n ++ k : BitVec 14)

/-- The word of an instruction, written from the encoding tables; none for the events, which have no word. -/
def encode : Instr → Option W32
  | .nop => encS 0x01 0
  | .trap n => encS 0x02 n
  | .eret => encS 0x03 0
  | .csrr c => encS 0x04 ((0 : BitVec 8) ++ c.code : BitVec 20)
  | .csrw c => encS 0x05 ((0 : BitVec 8) ++ c.code : BitVec 20)
  | .csrs c => encS 0x06 ((0 : BitVec 8) ++ c.code : BitVec 20)
  | .csrc c => encS 0x07 ((0 : BitVec 8) ++ c.code : BitVec 20)
  | .waite m => encS 0x08 ((0 : BitVec 16) ++ m : BitVec 20)
  | .halt r c => encS 0x09 ((0 : BitVec 13) ++ bit1 r ++ c : BitVec 20)
  | .icinv s => encS 0x0A ((0 : BitVec 18) ++ s.code : BitVec 20)
  | .tlbw cl c => encS 0x0B ((0 : BitVec 13) ++ bit1 cl ++ c : BitVec 20)
  | .tlbinv a c s => encS 0x0C ((0 : BitVec 11) ++ bit1 a ++ c ++ s.code : BitVec 20)
  | .revoke c => encS 0x0D ((0 : BitVec 14) ++ c : BitVec 20)
  | .ctxsv c => encS 0x0E ((0 : BitVec 14) ++ c : BitVec 20)
  | .ctxld c => encS 0x0F ((0 : BitVec 14) ++ c : BitVec 20)
  | .gstop c r => encS 0x10 ((0 : BitVec 13) ++ c ++ bit1 r : BitVec 20)
  | .dbrk n => encS 0x11 n
  | .rdtime => encS 0x12 0
  | .rdcyc => encS 0x13 0
  | .reissue k => encS 0x14 ((0 : BitVec 17) ++ k : BitVec 20)
  | .oorclr => encS 0x15 0
  | .movrv => encS 0x16 0
  | .ldl z sx m => encL 0x01 z sx m
  | .ldc z sx m => encL 0x02 z sx m
  | .ldg z sx m => encL 0x03 z sx m
  | .ldgOrdered z sx o s m => encLO 0x03 z sx o s m
  | .ldw z sx m => encL 0x04 z sx m
  | .ldwOrdered z sx o m => encLO 0x04 z sx o .part m
  | .stl z m => encL 0x05 z false m
  | .stc z m => encL 0x06 z false m
  | .stg z m => encL 0x07 z false m
  | .stgOrdered z o s m => encLO 0x07 z false o s m
  | .stw z m => encL 0x08 z false m
  | .stwOrdered z o m => encLO 0x08 z false o .part m
  | .ldlf z m => encA 0x09 0x00 z m
  | .ldlfC z m => encA 0x09 0x01 z m
  | .ldcf z m => encA 0x09 0x02 z m
  | .ldcfC z m => encA 0x09 0x03 z m
  | .stlf z m => encA 0x09 0x04 z m
  | .stcf z m => encA 0x09 0x05 z m
  | .feset m => encA 0x09 0x06 .b m
  | .feclr m => encA 0x09 0x07 .b m
  | .fetst m => encA 0x09 0x08 .b m
  | .amogAdd x o s m => encAG 0x00 x o s m
  | .amogAnd x o s m => encAG 0x01 x o s m
  | .amogOr x o s m => encAG 0x02 x o s m
  | .amogXor x o s m => encAG 0x03 x o s m
  | .amogMin x o s m => encAG 0x04 x o s m
  | .amogMax x o s m => encAG 0x05 x o s m
  | .amogMinu x o s m => encAG 0x06 x o s m
  | .amogMaxu x o s m => encAG 0x07 x o s m
  | .amogSwap x o s m => encAG 0x08 x o s m
  | .amogCas x o s m => encAG 0x09 x o s m
  | .amocAdd x m => encAC 0x00 x m
  | .amocAnd x m => encAC 0x01 x m
  | .amocOr x m => encAC 0x02 x m
  | .amocSwap x m => encAC 0x03 x m
  | .amocCas x m => encAC 0x04 x m
  | .add z m => encA 0x0C 0x00 z m
  | .adc z m => encA 0x0C 0x01 z m
  | .sub z m => encA 0x0C 0x02 z m
  | .sbc z m => encA 0x0C 0x03 z m
  | .rsb z m => encA 0x0C 0x04 z m
  | .adds z m => encA 0x0C 0x05 z m
  | .addsu z m => encA 0x0C 0x06 z m
  | .subs z m => encA 0x0C 0x07 z m
  | .subsu z m => encA 0x0C 0x08 z m
  | .mul z m => encA 0x0C 0x09 z m
  | .mulh z m => encA 0x0C 0x0A z m
  | .mulhu z m => encA 0x0C 0x0B z m
  | .div z m => encA 0x0C 0x0C z m
  | .divu z m => encA 0x0C 0x0D z m
  | .rem z m => encA 0x0C 0x0E z m
  | .remu z m => encA 0x0C 0x0F z m
  | .and z m => encA 0x0C 0x10 z m
  | .or z m => encA 0x0C 0x11 z m
  | .xor z m => encA 0x0C 0x12 z m
  | .andn z m => encA 0x0C 0x13 z m
  | .shl z m => encA 0x0C 0x14 z m
  | .shr z m => encA 0x0C 0x15 z m
  | .sar z m => encA 0x0C 0x16 z m
  | .rol z m => encA 0x0C 0x17 z m
  | .ror z m => encA 0x0C 0x18 z m
  | .min z m => encA 0x0C 0x19 z m
  | .max z m => encA 0x0C 0x1A z m
  | .minu z m => encA 0x0C 0x1B z m
  | .maxu z m => encA 0x0C 0x1C z m
  | .cmp z m => encA 0x0C 0x1D z m
  | .tst z m => encA 0x0C 0x1E z m
  | .addi i => encI 0x0D 0x00 i
  | .addsi i => encI 0x0D 0x01 i
  | .rsbi i => encI 0x0D 0x02 i
  | .muli i => encI 0x0D 0x03 i
  | .andi i => encI 0x0D 0x04 i
  | .ori i => encI 0x0D 0x05 i
  | .xori i => encI 0x0D 0x06 i
  | .shli k => encI 0x0D 0x07 ((0 : BitVec 14) ++ k : BitVec 20)
  | .shri k => encI 0x0D 0x08 ((0 : BitVec 14) ++ k : BitVec 20)
  | .sari k => encI 0x0D 0x09 ((0 : BitVec 14) ++ k : BitVec 20)
  | .rori k => encI 0x0D 0x0A ((0 : BitVec 14) ++ k : BitVec 20)
  | .cmpi i => encI 0x0D 0x0B i
  | .tsti i => encI 0x0D 0x0C i
  | .fadd m => encA 0x0E 0x00 .w m
  | .fsub m => encA 0x0E 0x01 .w m
  | .frsub m => encA 0x0E 0x02 .w m
  | .fmul m => encA 0x0E 0x03 .w m
  | .fdiv m => encA 0x0E 0x04 .w m
  | .fmin m => encA 0x0E 0x05 .w m
  | .fmax m => encA 0x0E 0x06 .w m
  | .fcmp m => encA 0x0E 0x07 .w m
  | .fsqrt m => encA 0x0E 0x08 .w m
  | .fcvtbf m => encA 0x0E 0x09 .h m
  | .fcvthf m => encA 0x0E 0x0A .h m
  | .frndbf m => encA 0x0E 0x0B .w m
  | .frndhf m => encA 0x0E 0x0C .w m
  | .fcvti m => encA 0x0E 0x0D .w m
  | .fcvtf m => encA 0x0E 0x0E .w m
  | .fcvtuf m => encA 0x0E 0x0F .w m
  | .not => encI 0x0F 0x00 0
  | .neg => encI 0x0F 0x01 0
  | .abs => encI 0x0F 0x02 0
  | .negs => encI 0x0F 0x03 0
  | .abss => encI 0x0F 0x04 0
  | .clz => encI 0x0F 0x05 0
  | .ctz => encI 0x0F 0x06 0
  | .popc => encI 0x0F 0x07 0
  | .bswap => encI 0x0F 0x08 0
  | .sextb => encI 0x0F 0x09 0
  | .sexth => encI 0x0F 0x0A 0
  | .sextw => encI 0x0F 0x0B 0
  | .zextb => encI 0x0F 0x0C 0
  | .zexth => encI 0x0F 0x0D 0
  | .zextw => encI 0x0F 0x0E 0
  | .pmov n m => encP 0x10 n m 0 0
  | .paddi n m i => encP 0x10 n m 1 i
  | .padda n m => encP 0x10 n m 2 0
  | .pstr n i => encP 0x10 n 0 3 i
  | .pget n => encP 0x10 n 0 4 0
  | .pset n => encP 0x10 n 0 5 0
  | .psub n m => encP 0x10 n m 6 0
  | .b c o => some (packB 0x11 c.code o)
  | .call o => some (packB 0x12 0 o)
  | .jmp n i => encP 0x13 n 0 0 i
  | .ret => encP 0x13 0 0 1 0
  | .loop k o => encP 0x13 (if k then 1 else 0) 0 2 o
  | .dbnz k o => encP 0x13 (if k then 1 else 0) 0 3 o
  | .li i => encI 0x14 0 i
  | .lih i => encI 0x15 0 i
  | .balloc n => encK 0 n 0
  | .att n => encK 1 n 0
  | .det n => encK 2 n 0
  | .detZ n => encK 3 n 0
  | .arm n t => encK 4 n t
  | .bwait n => encK 5 n 0
  | .openSlot n => encK 6 n 0
  | .closeSlot n => encK 7 n 0
  | .bqry n => encK 8 n 0
  | .hov n => encK 9 n 0
  | .start h o => encT 0 h o
  | .startM h o => encT 1 h o
  | .endT => encT 2 0 0
  | .hwait h => encT 3 h 0
  | .hkill h => encT 4 h 0
  | .yield => encT 5 0 0
  | .self => encT 6 0 0
  | .spawn => encT 7 0 0
  | .join g => encG 0 g
  | .leave g => encG 1 g
  | .bar g => encG 2 g
  | .flow g n => some ((0x19 : BitVec 6) ++ (0 : BitVec 4) ++ g ++ n : BitVec 32)
  | .xmit l p s => encF 1 l.code p s
  | .muxs l s => encF 2 l.code 0 s
  | .recv p s => encF 3 0 p s
  | .xfwd l s => encF 4 l.code 0 s
  | .flend => encF 5 0 0 0
  | .mxls a b => encE 0x1A a b 0x00 0
  | .mxflip => encE 0x1A 0 0 0x01 0
  | .mxst a b => encE 0x1A a b 0x02 0
  | .mxzero => encE 0x1A 0 0 0x03 0
  | .mxswap => encE 0x1A 0 0 0x04 0
  | .mxdrn a b => encE 0x1A a b 0x05 0
  | .mxckl => encE 0x1A 0 0 0x06 0
  | .mxckf => encE 0x1A 0 0 0x07 0
  | .mxrty => encE 0x1A 0 0 0x08 0
  | .mxwait => encE 0x1A 0 0 0x09 0
  | .mxrd k => encE 0x1A 0 0 0x0A ((0 : BitVec 10) ++ k : BitVec 14)
  | .mxwr k a => encE 0x1A a 0 0x0B ((0 : BitVec 10) ++ k : BitVec 14)
  | .mxwrg k n a => encE 0x1A a 0 0x0C (optKN k n)
  | .vadd a b sc => encE 0x1B a b 0x00 ((0 : BitVec 13) ++ bit1 sc : BitVec 14)
  | .vsub a b sc => encE 0x1B a b 0x01 ((0 : BitVec 13) ++ bit1 sc : BitVec 14)
  | .vmul a b sc => encE 0x1B a b 0x02 ((0 : BitVec 13) ++ bit1 sc : BitVec 14)
  | .vfma a b sc => encE 0x1B a b 0x03 ((0 : BitVec 13) ++ bit1 sc : BitVec 14)
  | .vmin a b sc => encE 0x1B a b 0x04 ((0 : BitVec 13) ++ bit1 sc : BitVec 14)
  | .vmax a b sc => encE 0x1B a b 0x05 ((0 : BitVec 13) ++ bit1 sc : BitVec 14)
  | .vabs a b => encE 0x1B a b 0x06 0
  | .vneg a b => encE 0x1B a b 0x07 0
  | .vexp2 a b => encE 0x1B a b 0x08 0
  | .vlog2 a b => encE 0x1B a b 0x09 0
  | .vrcp a b => encE 0x1B a b 0x0A 0
  | .vrsq a b => encE 0x1B a b 0x0B 0
  | .vtanh a b => encE 0x1B a b 0x0C 0
  | .vcvt a b => encE 0x1B a b 0x0D 0
  | .vred a b r rv => encE 0x1B a b 0x0E ((0 : BitVec 9) ++ bit1 rv ++ r.code ++ (0 : BitVec 1) : BitVec 14)
  | .vscan a b => encE 0x1B a b 0x0F 0
  | .vafs a b u => encE 0x1B a b 0x10 ((0 : BitVec 8) ++ bit1 u ++ (0 : BitVec 5) : BitVec 14)
  | .vsel a b sc => encE 0x1B a b 0x11 ((0 : BitVec 13) ++ bit1 sc : BitVec 14)
  | .vclamp a b => encE 0x1B a b 0x12 0
  | .vcmp a b c sc => encE 0x1B a b 0x13 ((0 : BitVec 10) ++ c.code ++ bit1 sc : BitVec 14)
  | .vgath a b => encE 0x1B a b 0x14 0
  | .vscat a b => encE 0x1B a b 0x15 0
  | .vwr k a => encE 0x1B a 0 0x16 ((0 : BitVec 10) ++ k : BitVec 14)
  | .vwrg k n a => encE 0x1B a 0 0x17 (optKN k n)
  | .vrd k => encE 0x1B 0 0 0x18 ((0 : BitVec 10) ++ k : BitVec 14)
  | .vwait => encE 0x1B 0 0 0x19 0
  | .cg2l a b => encE 0x1C a b 0x00 0
  | .cl2g a b => encE 0x1C a b 0x01 0
  | .cl2c a b => encE 0x1C a b 0x02 0
  | .cc2l a b => encE 0x1C a b 0x03 0
  | .cw2l a b => encE 0x1C a b 0x04 0
  | .cl2w a b => encE 0x1C a b 0x05 0
  | .cx2g a b => encE 0x1C a b 0x06 0
  | .cg2x a b => encE 0x1C a b 0x07 0
  | .cwr k a => encE 0x1C a 0 0x08 ((0 : BitVec 10) ++ k : BitVec 14)
  | .cwrg k n a => encE 0x1C a 0 0x09 (optKN k n)
  | .cwait => encE 0x1C 0 0 0x0A 0
  | .rdadd a b => encE 0x1D a b 0x00 0
  | .rdflush a => encE 0x1D a 0 0x01 0
  | .rdwait => encE 0x1D 0 0 0x02 0
  | _ => none

end Sys2Proof
end

