-- ==== Sys2Proof/Machine/Float.lean ====
section
/-! DEFINITION. Number formats: IEEE binary32, binary16 and BF16 with correct rounding (03 R53 to R58), the BX
block formats (03 R59 to R63), and the transcendental functions of the vector unit (08 R158). A float image is
held as a natural number, its bits. -/

namespace Sys2Proof

/-- The three floating-point formats (03 Table 3-2). -/
inductive FFmt where
  | f32 | bf16 | f16
  deriving DecidableEq, Repr

/-- Rounding modes (03 Table 3-3). -/
inductive Rm where
  | rne | rtz | rup | rdn
  deriving DecidableEq, Repr

def FFmt.fw : FFmt → Nat
  | .f32 => 23 | .bf16 => 7 | .f16 => 10

def FFmt.ew : FFmt → Nat
  | .f32 => 8 | .bf16 => 8 | .f16 => 5

def FFmt.bias (f : FFmt) : Nat := 2 ^ (f.ew - 1) - 1

/-- Bytes of an element of the format. -/
def FFmt.bytes : FFmt → Nat
  | .f32 => 4 | .bf16 => 2 | .f16 => 2

/-- The bits of +infinity. -/
def FFmt.infBits (f : FFmt) : Nat := (2 ^ f.ew - 1) * 2 ^ f.fw

/-- The sign bit. -/
def FFmt.signBit (f : FFmt) : Nat := 2 ^ (f.ew + f.fw)

/-- The canonical NaN (03 Table 3-2). -/
def FFmt.nan : FFmt → Nat
  | .f32 => 0x7FC00000 | .bf16 => 0x7FC0 | .f16 => 0x7E00

/-- The exponent of the smallest subnormal. -/
def FFmt.emin (f : FFmt) : Int := 1 - (f.bias : Int) - f.fw

/-- A floating-point datum: a NaN, an infinity, or (-1)^neg × m × 2^e (03 R53). -/
inductive FVal where
  | nan
  | inf (neg : Bool)
  | fin (neg : Bool) (m : Nat) (e : Int)
  deriving DecidableEq, Repr

/-- The datum of a float image (03 R53). -/
def FFmt.unpack (f : FFmt) (w : Nat) : FVal :=
  let neg := w / f.signBit % 2 == 1
  let ex := w / 2 ^ f.fw % 2 ^ f.ew
  let fr := w % 2 ^ f.fw
  if ex == 2 ^ f.ew - 1 then (if fr == 0 then .inf neg else .nan)
  else if ex == 0 then .fin neg fr f.emin
  else .fin neg (2 ^ f.fw + fr) (f.emin + (ex - 1))

/-- Attach a sign to a magnitude image. -/
def FFmt.signed (f : FFmt) (neg : Bool) (mag : Nat) : Nat := if neg then f.signBit + mag else mag

/-- The largest finite magnitude. -/
def FFmt.maxFin (f : FFmt) : Nat := f.infBits - 1

/-- What an overflow gives (03 Table 3-3). -/
def FFmt.overflow (f : FFmt) (rm : Rm) (neg : Bool) : Nat :=
  match rm, neg with
  | .rne, _ => f.signed neg f.infBits
  | .rtz, _ => f.signed neg f.maxFin
  | .rup, false => f.infBits
  | .rup, true => f.signed true f.maxFin
  | .rdn, false => f.maxFin
  | .rdn, true => f.signed true f.infBits

/-- Whether a quotient q with remainder r over den goes up in magnitude. -/
def roundUp (rm : Rm) (neg : Bool) (q r den : Nat) : Bool :=
  match rm with
  | .rne => den < 2 * r || (2 * r == den && q % 2 == 1)
  | .rtz => false
  | .rup => r != 0 && !neg
  | .rdn => r != 0 && neg

/-- floor(log2(n / d)) for positive n and d. -/
def ratLog2 (n d : Nat) : Int :=
  let t : Int := (Nat.log2 n : Int) - Nat.log2 d
  let ge : Bool := if 0 ≤ t then d * 2 ^ t.toNat ≤ n else d ≤ n * 2 ^ (-t).toNat
  if ge then t else t - 1

/-- The exact value (-1)^neg × n / d × 2^e rounded once to the format (03 R54, R56); d is positive. -/
def FFmt.round (f : FFmt) (rm : Rm) (neg : Bool) (n d : Nat) (e : Int) : Nat :=
  if n == 0 then f.signed neg 0
  else
    let k := Max.max (ratLog2 n d + e - f.fw) f.emin
    let num := if k ≤ e then n * 2 ^ (e - k).toNat else n
    let den := if k ≤ e then d else d * 2 ^ (k - e).toNat
    let q := num / den
    let q' := if roundUp rm neg q (num % den) den then q + 1 else q
    let out := (k - f.emin).toNat * 2 ^ f.fw + q'
    if f.infBits ≤ out then f.overflow rm neg else f.signed neg out

/-- A datum rounded to a format, a NaN giving the canonical NaN (03 R55). -/
def FFmt.pack (f : FFmt) (rm : Rm) : FVal → Nat
  | .nan => f.nan
  | .inf neg => f.signed neg f.infBits
  | .fin neg m e => f.round rm neg m 1 e

/-- The signed integer m at scale 2^e as a datum; an exact zero takes the given sign. -/
def FVal.ofInt (v : Int) (e : Int) (zeroNeg : Bool) : FVal :=
  if v == 0 then .fin zeroNeg 0 e else .fin (v < 0) v.natAbs e

def FVal.neg : FVal → FVal
  | .nan => .nan
  | .inf s => .inf (!s)
  | .fin s m e => .fin (!s) m e

def FVal.abs : FVal → FVal
  | .nan => .nan
  | .inf _ => .inf false
  | .fin _ m e => .fin false m e

/-- Signed significand. -/
def sgn (neg : Bool) (m : Nat) : Int := if neg then -(m : Int) else m

/-- The exact sum; x + (-x) is +0 but -0 under RDN (03 R54). -/
def FVal.add (rm : Rm) : FVal → FVal → FVal
  | .nan, _ => .nan
  | _, .nan => .nan
  | .inf s, .inf t => if s == t then .inf s else .nan
  | .inf s, .fin _ _ _ => .inf s
  | .fin _ _ _, .inf t => .inf t
  | .fin s m e, .fin t n g =>
    let lo := Min.min e g
    let sum := sgn s m * 2 ^ (e - lo).toNat + sgn t n * 2 ^ (g - lo).toNat
    FVal.ofInt sum lo (if m == 0 && n == 0 && s == t then s else rm == .rdn)

def FVal.mul : FVal → FVal → FVal
  | .nan, _ => .nan
  | _, .nan => .nan
  | .inf s, .inf t => .inf (s != t)
  | .inf s, .fin t n _ => if n == 0 then .nan else .inf (s != t)
  | .fin s m _, .inf t => if m == 0 then .nan else .inf (s != t)
  | .fin s m e, .fin t n g => .fin (s != t) (m * n) (e + g)

/-- Comparison of two data that are not NaN; none when a NaN takes part. -/
def FVal.cmp : FVal → FVal → Option Ordering
  | .nan, _ => none
  | _, .nan => none
  | .inf s, .inf t => some (if s == t then .eq else if s then .lt else .gt)
  | .inf s, .fin _ _ _ => some (if s then .lt else .gt)
  | .fin _ _ _, .inf t => some (if t then .gt else .lt)
  | .fin s m e, .fin t n g =>
    let lo := Min.min e g
    some (compare (sgn s m * 2 ^ (e - lo).toNat) (sgn t n * 2 ^ (g - lo).toNat))

def FVal.isNeg : FVal → Bool
  | .nan => false
  | .inf s => s
  | .fin s _ _ => s

/-- Minimum, ordering -0 below +0; a NaN gives a NaN (03 R55). -/
def FVal.min (a b : FVal) : FVal :=
  match FVal.cmp a b with
  | none => .nan
  | some .lt => a
  | some .gt => b
  | some .eq => if a.isNeg then a else b

/-- Maximum, ordering -0 below +0; a NaN gives a NaN (03 R55). -/
def FVal.max (a b : FVal) : FVal :=
  match FVal.cmp a b with
  | none => .nan
  | some .lt => b
  | some .gt => a
  | some .eq => if a.isNeg then b else a

/-! ### Rounded operations -/

def fAdd (f : FFmt) (rm : Rm) (a b : FVal) : Nat := f.pack rm (FVal.add rm a b)
def fSub (f : FFmt) (rm : Rm) (a b : FVal) : Nat := f.pack rm (FVal.add rm a b.neg)
def fMul (f : FFmt) (rm : Rm) (a b : FVal) : Nat := f.pack rm (FVal.mul a b)
/-- a × b + c with one rounding (03 R68). -/
def fFma (f : FFmt) (rm : Rm) (a b c : FVal) : Nat := f.pack rm (FVal.add rm (FVal.mul a b) c)

def fDiv (f : FFmt) (rm : Rm) : FVal → FVal → Nat
  | .nan, _ => f.nan
  | _, .nan => f.nan
  | .inf _, .inf _ => f.nan
  | .inf s, .fin t _ _ => f.signed (s != t) f.infBits
  | .fin s _ _, .inf t => f.signed (s != t) 0
  | .fin s m e, .fin t n g =>
    if n == 0 then (if m == 0 then f.nan else f.signed (s != t) f.infBits)
    else f.round rm (s != t) m n (e - g)

/-- Integer square root: the bits of the root from bit `k - 1` down. -/
def isqrtGo (n : Nat) : Nat → Nat → Nat
  | 0, r => r
  | k + 1, r => if (r + 2 ^ k) * (r + 2 ^ k) ≤ n then isqrtGo n k (r + 2 ^ k) else isqrtGo n k r

/-- floor of the square root. -/
def isqrt (n : Nat) : Nat := isqrtGo n (Nat.log2 n / 2 + 1) 0

/-- Square root of (m × 2^e), m positive, rounded once. -/
def sqrtRound (f : FFmt) (rm : Rm) (m : Nat) (e : Int) : Nat :=
  let m2 := if e % 2 == 0 then m else 2 * m
  let e2 := if e % 2 == 0 then e else e - 1
  let big := m2 * 2 ^ 64
  let r := isqrt big
  f.round rm false (2 * r + (if r * r == big then 0 else 1)) 1 (e2 / 2 - 33)

def fSqrt (f : FFmt) (rm : Rm) : FVal → Nat
  | .nan => f.nan
  | .inf s => if s then f.nan else f.infBits
  | .fin s m e => if m == 0 then f.signed s 0 else if s then f.nan else sqrtRound f rm m e

/-- Reciprocal square root (08 R158, Table 8-5). -/
def fRsqrt (f : FFmt) : FVal → Nat
  | .nan => f.nan
  | .inf s => if s then f.nan else 0
  | .fin s m e =>
    if m == 0 then f.signed s f.infBits
    else if s then f.nan
    else
      let m2 := if e % 2 == 0 then m else 2 * m
      let e2 := if e % 2 == 0 then e else e - 1
      let q := 2 ^ 160 / m2
      let r := isqrt q
      f.round .rne false (2 * r + (if r * r * m2 == 2 ^ 160 then 0 else 1)) 1 (-(e2 / 2) - 81)

/-- Reciprocal (08 R158, Table 8-5). -/
def fRcp (f : FFmt) : FVal → Nat
  | .nan => f.nan
  | .inf s => f.signed s 0
  | .fin s m e => if m == 0 then f.signed s f.infBits else f.round .rne s 1 m (-e)

/-! ### Integers and conversions (03 R58) -/

/-- A float rounded to an integer (not a NaN, not infinite). -/
def roundToInt (rm : Rm) (neg : Bool) (m : Nat) (e : Int) : Int :=
  if 0 ≤ e then sgn neg (m * 2 ^ e.toNat)
  else
    let den := 2 ^ (-e).toNat
    let q := m / den
    sgn neg (if roundUp rm neg q (m % den) den then q + 1 else q)

/-- A float converted to a signed integer of n bits: the value, and whether it was clamped or a NaN. -/
def floatToInt (rm : Rm) (n : Nat) (v : FVal) : Int × Bool :=
  let lo : Int := -(2 ^ (n - 1))
  let hi : Int := 2 ^ (n - 1) - 1
  match v with
  | .nan => (0, true)
  | .inf s => (if s then lo else hi, true)
  | .fin s m e =>
    let r := roundToInt rm s m e
    (clampInt lo hi r, r < lo || hi < r)

/-- An integer as a datum. -/
def FVal.int (v : Int) : FVal := FVal.ofInt v 0 false

/-! ### Transcendental functions (08 R158)

Each exact value is enclosed between two integers at scale 2^-P; if both ends round alike, that is the
correctly rounded result, whatever the value between them. -/

/-- Rounded enclosure, if both ends agree. -/
def agree (f : FFmt) (neg : Bool) (lo hi : Nat) (e : Int) : Option Nat :=
  let a := f.round .rne neg lo 1 e
  if a == f.round .rne neg hi 1 e then some a else none

/-- ln 2 at scale 2^P, from below: the sum of 2^P / (k 2^k). -/
def ln2Go (P : Nat) : Nat → Nat → Nat
  | 0, _ => 0
  | fuel + 1, k => 2 ^ P / (k * 2 ^ k) + ln2Go P fuel (k + 1)

/-- ln 2 between these two at scale 2^P: the floors lose less than P + 2, the tail is below 1. -/
def ln2Lo (P : Nat) : Nat := ln2Go P P 1
def ln2Hi (P : Nat) : Nat := ln2Lo P + P + 2

/-- The Taylor sum of exp from below: term k+1 from term k. -/
def expLoGo (P y : Nat) : Nat → Nat → Nat → Nat
  | 0, _, _ => 0
  | fuel + 1, k, t => t + expLoGo P y fuel (k + 1) (t * y / (2 ^ P * (k + 1)))

/-- The Taylor sum of exp from above. -/
def expHiGo (P y : Nat) : Nat → Nat → Nat → Nat
  | 0, _, t => 2 * t
  | fuel + 1, k, t => t + expHiGo P y fuel (k + 1) (t * y / (2 ^ P * (k + 1)) + 1)

/-- exp(y) for 0 ≤ y < 1 at scale 2^P, from below and from above. -/
def expLo (P y : Nat) : Nat := expLoGo P y (P / 2 + 8) 0 (2 ^ P)
def expHi (P y : Nat) : Nat := expHiGo P y (P / 2 + 8) 0 (2 ^ P)

/-- 2^s for s = (-1)^neg m 2^e at precision P. -/
def exp2At (f : FFmt) (neg : Bool) (m : Nat) (e : Int) (P : Nat) : Option Nat :=
  let v := sgn neg m
  if 0 ≤ e then some (f.round .rne false 1 1 (clampInt (-1000) 1000 (v * 2 ^ (Min.min e 20).toNat)))
  else
    let den : Int := 2 ^ (-e).toNat
    let i := v / den
    let fr := (v % den).toNat
    if fr == 0 then some (f.round .rne false 1 1 (clampInt (-1000) 1000 i))
    else if i < -400 then some (f.round .rne false 1 1 (-1000))
    else if 400 < i then some (f.round .rne false 1 1 1000)
    else
      let ylo := fr * ln2Lo P / den.toNat
      let yhi := fr * ln2Hi P / den.toNat + 1
      agree f false (expLo P ylo) (expHi P yhi) (i - P)

/-- The series of atanh z = z + z^3/3 + ..., from below, for z at scale 2^P. -/
def atanhLoGo (P z2 : Nat) : Nat → Nat → Nat → Nat
  | 0, _, _ => 0
  | fuel + 1, k, t => t / (2 * k + 1) + atanhLoGo P z2 fuel (k + 1) (t * z2 / 2 ^ P)

def atanhHiGo (P z2 : Nat) : Nat → Nat → Nat → Nat
  | 0, _, t => 2 * t
  | fuel + 1, k, t => t / (2 * k + 1) + 1 + atanhHiGo P z2 fuel (k + 1) (t * z2 / 2 ^ P + 1)

/-- log2 of m × 2^e (m positive, not a power of two) at precision P. -/
def log2At (f : FFmt) (m : Nat) (e : Int) (P : Nat) : Option Nat :=
  let k := Nat.log2 m
  let one := 2 ^ k
  let zlo := (m - one) * 2 ^ P / (m + one)
  let zhi := zlo + 1
  let llo := 2 * atanhLoGo P (zlo * zlo / 2 ^ P) (P / 2 + 8) 0 zlo
  let lhi := 2 * atanhHiGo P (zhi * zhi / 2 ^ P + 1) (P / 2 + 8) 0 zhi
  let base : Int := (e + k) * 2 ^ P
  let lo : Int := base + (llo * 2 ^ P / ln2Hi P : Nat)
  let hi : Int := base + (lhi * 2 ^ P / ln2Lo P + 1 : Nat)
  if 0 < lo then agree f false lo.toNat hi.toNat (-(P : Int))
  else if hi < 0 then agree f true hi.natAbs lo.natAbs (-(P : Int))
  else none

/-- tanh of m × 2^e (m positive) at precision P: (E - 1) / (E + 1) with E = exp(2 m 2^e). -/
def tanhAt (f : FFmt) (neg : Bool) (m : Nat) (e : Int) (P : Nat) : Option Nat :=
  if 6 ≤ (Nat.log2 m : Int) + e then some (f.round .rne neg (2 ^ 200 - 1) 1 (-200))
  else
    let g := e + 1
    let y := if 0 ≤ g + P then m * 2 ^ (g + P).toNat else m / 2 ^ (-(g + P)).toNat
    let yhi0 := if 0 ≤ g + P then y else y + 1
    let k := y / ln2Hi P
    let rlo := y - k * ln2Hi P
    let rhi := yhi0 - k * ln2Lo P
    let elo := expLo P rlo * 2 ^ k
    let ehi := expHi P rhi * 2 ^ k
    let o := 2 ^ P
    agree f neg ((elo - o) * o / (elo + o)) ((ehi - o) * o / (ehi + o) + 1) (-(P : Int))

/-- The first precision that decides the rounding. -/
def firstDecided (g : Nat → Option Nat) (u : Nat) : Nat :=
  match g 160 with
  | some r => r
  | none =>
    match g 640 with
    | some r => r
    | none =>
      match g 1280 with
      | some r => r
      | none => u

/-- 2^s (08 Table 8-5). -/
def fExp2 (f : FFmt) : FVal → Nat
  | .nan => f.nan
  | .inf s => if s then 0 else f.infBits
  | .fin s m e => if m == 0 then f.round .rne false 1 1 0 else firstDecided (exp2At f s m e) (Config.undecided 0 m)

/-- log2 s (08 Table 8-5). -/
def fLog2 (f : FFmt) : FVal → Nat
  | .nan => f.nan
  | .inf s => if s then f.nan else f.infBits
  | .fin s m e =>
    if m == 0 then f.signed true f.infBits
    else if s then f.nan
    else if m == 2 ^ Nat.log2 m then f.pack .rne (FVal.int (e + Nat.log2 m))
    else firstDecided (log2At f m e) (Config.undecided 1 m)

/-- tanh s (08 Table 8-5). -/
def fTanh (f : FFmt) : FVal → Nat
  | .nan => f.nan
  | .inf s => f.round .rne s 1 1 0
  | .fin s m e => if m == 0 then f.signed s 0 else firstDecided (tanhAt f s m e) (Config.undecided 2 m)

/-! ### BX blocks (03 R59 to R63) -/

/-- The BX formats (03 Table 3-6). -/
inductive BxFmt where
  | bx8 | bx6 | bx4
  deriving DecidableEq, Repr

/-- Magnitude width m. -/
def BxFmt.magBits : BxFmt → Nat
  | .bx8 => 6 | .bx6 => 4 | .bx4 => 2

/-- Element bits. -/
def BxFmt.elemBits (f : BxFmt) : Nat := f.magBits + 2

/-- Element bytes of a block of 32 (03 Table 3-6). -/
def BxFmt.blockBytes : BxFmt → Nat
  | .bx8 => 32 | .bx6 => 24 | .bx4 => 16

/-- One element of a block: sign, selector, magnitude. -/
structure BxElem where
  neg : Bool
  sel : Bool
  mag : Nat
  deriving DecidableEq, Repr

/-- Little-endian value of a list of bytes. -/
def leNat : List Byte → Nat
  | [] => 0
  | b :: bs => b.toNat + 256 * leNat bs

/-- n bytes of a value, lowest first. -/
def leBytes : Nat → Nat → List Byte
  | 0, _ => []
  | n + 1, v => BitVec.ofNat 8 v :: leBytes n (v / 256)

/-- Element i of a block whose element bytes, read little-endian, are v: with the packings of Table 3-6 element i
lies at bit i × (element bits) in every format. -/
def BxFmt.elem (f : BxFmt) (v i : Nat) : BxElem :=
  let x := v / 2 ^ (i * f.elemBits) % 2 ^ f.elemBits
  { neg := x / 2 ^ (f.magBits + 1) % 2 == 1, sel := x / 2 ^ f.magBits % 2 == 1, mag := x % 2 ^ f.magBits }

/-- The bits of an element. -/
def BxFmt.elemBitsOf (f : BxFmt) (x : BxElem) : Nat :=
  if x.mag == 0 then 0
  else (if x.neg then 2 ^ (f.magBits + 1) else 0) + (if x.sel then 2 ^ f.magBits else 0) + x.mag

/-- X and Δ of a header (03 Table 3-5). -/
def hdrX (h : Nat) : Nat := h / 256 % 256
def hdrDelta (h : Nat) : Nat := h / 16 % 16

/-- The exponent E of an element (03 R61). -/
def bxE (h : Nat) (sel : Bool) : Int := if sel then (hdrX h : Int) - hdrDelta h else hdrX h

/-- The value of an element under a header (03 R61). -/
def BxFmt.value (f : BxFmt) (h : Nat) (x : BxElem) : FVal :=
  if hdrX h == 255 then .nan
  else if hdrX h == 0 || x.mag == 0 then .fin false 0 0
  else .fin x.neg x.mag (bxE h x.sel - 127 - (f.magBits - 1))

/-- q(x, E) of R62: |x| × 2^(127 + (m - 1) - E) rounded to an integer, ties to even. -/
def BxFmt.quant (f : BxFmt) (v : FVal) (E : Int) : Nat :=
  match v with
  | .fin _ m e => (roundToInt .rne false m (e + 127 + (f.magBits - 1) - E)).natAbs
  | _ => 0

/-- The least X from x upwards whose scale fits amax; 254 if there is none (03 R62). -/
def BxFmt.leastX (f : BxFmt) (amax : FVal) : Nat → Nat → Nat
  | 0, _ => 254
  | fuel + 1, x => if f.quant amax x ≤ 2 ^ f.magBits - 1 then x else f.leastX amax fuel (x + 1)

/-- One element of R62: the element, and whether it saturated. -/
def BxFmt.convElem (f : BxFmt) (X : Nat) (delta : Nat) (v : FVal) : BxElem × Bool :=
  let mmax := 2 ^ f.magBits - 1
  let fine := f.quant v ((X : Int) - delta)
  if 0 < delta && fine ≤ mmax then (⟨v.isNeg, true, fine⟩, false)
  else (⟨v.isNeg, false, Min.min (f.quant v X) mmax⟩, mmax < f.quant v X)

/-- The largest magnitude of a list of finite data. -/
def absMax : List FVal → FVal
  | [] => .fin false 0 0
  | v :: vs => FVal.max v.abs (absMax vs)

/-- Element bits of a list packed upwards from bit 0. -/
def BxFmt.packElems (f : BxFmt) : List BxElem → Nat
  | [] => 0
  | x :: xs => f.elemBitsOf x + 2 ^ f.elemBits * f.packElems xs

/-- What the conversion of a block delivers (03 R62, 08 R159). -/
structure BxBlock where
  header : Nat
  elems : Nat
  saturated : Bool
  nanBlock : Bool
  deriving DecidableEq, Repr

/-- Whether a datum is a NaN or an infinity. -/
def FVal.special : FVal → Bool
  | .fin _ _ _ => false
  | _ => true

/-- Whether a finite datum is zero. -/
def FVal.isZero : FVal → Bool
  | .fin _ m _ => m == 0
  | _ => false

/-- The conversion of 32 values to a block (03 R62). -/
def BxFmt.convert (f : BxFmt) (delta : Nat) (vs : List FVal) : BxBlock :=
  if vs.any FVal.special then ⟨0xFF00, 0, false, true⟩
  else
    let amax := absMax vs
    if amax.isZero then ⟨0, 0, false, false⟩
    else
      let X := f.leastX amax 254 1
      let es := vs.map (f.convElem X delta)
      ⟨X * 256 + delta * 16, f.packElems (es.map Prod.fst), es.any Prod.snd, false⟩

end Sys2Proof
end

