-- ==== Sys2Proof/Machine/Hash.lean ====
section
/-! DEFINITION. SHAKE256 with a 64-byte output (22 R340): the extendable-output function of FIPS 202, which the manual names
and does not repeat (entry 7). -/

namespace Sys2Proof.Machine

/-- The five rows of the permutation's state, lane (x, y) at place x + 5 y. -/
abbrev Lanes := List Word

def lane (s : Lanes) (x y : Nat) : Word := s.getD (x % 5 + 5 * (y % 5)) 0

/-- The 25 lanes that a function of x and y gives. -/
def lanesOf (f : Nat → Nat → Word) : Lanes := (List.range 25).map fun i => f (i % 5) (i / 5)

/-- The walk over the lanes (x, y) other than (0, 0) along which the rotations grow: from (1, 0), each next one is
(y, 2 x + 3 y). -/
def rotWalk : Nat → Nat → Nat → List (Nat × Nat)
  | 0, _, _ => []
  | n + 1, x, y => (x, y) :: rotWalk n y ((2 * x + 3 * y) % 5)

/-- How far a lane is rotated: the triangular number of its step of the walk. -/
def rotBy (x y : Nat) : Nat :=
  match (rotWalk 24 1 0).findIdx? fun e => decide (e = (x, y)) with
  | some n => (n + 1) * (n + 2) / 2 % 64
  | none => 0

/-- The next state of the register that makes the round constants: eight bits, with feedback x^8 + x^6 + x^5 + x^4 + 1. -/
def lfsrNext (r : Nat) : Nat := if r < 128 then 2 * r else (2 * r) ^^^ 0x171

/-- The bits that the register puts out, from a state on. -/
def lfsrBits : Nat → Nat → List Bool
  | 0, _ => []
  | n + 1, r => r.testBit 0 :: lfsrBits n (lfsrNext r)

/-- A round constant: seven bits of the register, bit j at place 2^j - 1. -/
def roundWord (bs : List Bool) : Word :=
  BitVec.ofNat 64 (bs.zipIdx.foldl (fun v e => if e.1 then v + 2 ^ (2 ^ e.2 - 1) else v) 0)

/-- The constants of the 24 rounds. -/
def iotaConstants : List Word :=
  let bs := lfsrBits 168 1
  (List.range 24).map fun i => roundWord ((bs.drop (7 * i)).take 7)

/-- The five steps of a round. -/
def theta (s : Lanes) : Lanes :=
  let c := (List.range 5).map fun x => (List.range 5).foldl (fun v y => v ^^^ lane s x y) 0
  let d (x : Nat) : Word := c.getD ((x + 4) % 5) 0 ^^^ (c.getD ((x + 1) % 5) 0).rotateLeft 1
  lanesOf fun x y => lane s x y ^^^ d x
def rho (s : Lanes) : Lanes := lanesOf fun x y => (lane s x y).rotateLeft (rotBy x y)
def piStep (s : Lanes) : Lanes := lanesOf fun x y => lane s (x + 3 * y) x
def chi (s : Lanes) : Lanes := lanesOf fun x y => lane s x y ^^^ (~~~(lane s (x + 1) y) &&& lane s (x + 2) y)
def iotaStep (c : Word) (s : Lanes) : Lanes := s.set 0 (lane s 0 0 ^^^ c)

def keccakRound (s : Lanes) (c : Word) : Lanes := iotaStep c (chi (piStep (rho (theta s))))
def keccak (s : Lanes) : Lanes := iotaConstants.foldl keccakRound s

/-- The word of the first eight bytes of a list, little-endian, and the bytes of a word. -/
def laneOf (bs : List Byte) : Word := BitVec.ofNat 64 ((bs.take 8).foldr (fun b v => b.toNat + 256 * v) 0)
def laneBytes (w : Word) : List Byte := (List.range 8).map fun i => (w >>> (8 * i)).setWidth 8

/-- The block size of SHAKE256 in bytes. -/
def shakeRate : Nat := 136

/-- A block absorbed. -/
def absorb (s : Lanes) (block : List Byte) : Lanes :=
  keccak ((List.range 25).map fun i => s.getD i 0 ^^^ (if i < 17 then laneOf (block.drop (8 * i)) else 0))

/-- The blocks of a message with its padding: bits 1111, then 1, zeros and a last 1. -/
def shakeBlocks (bs : List Byte) : List (List Byte) :=
  let n := bs.length / shakeRate
  let rest := bs.drop (n * shakeRate)
  let last : List Byte :=
    if rest.length = shakeRate - 1 then rest ++ [0x9F] else rest ++ [0x1F] ++ List.replicate (shakeRate - 2 - rest.length) 0 ++ [0x80]
  ((List.range n).map fun i => (bs.drop (i * shakeRate)).take shakeRate) ++ [last]

/-- The first 64 bytes of SHAKE256 of a message. -/
def shake256 (bs : List Byte) : List Byte :=
  ((((shakeBlocks bs).foldl absorb (List.replicate 25 0)).take 8).map laneBytes).flatten

end Sys2Proof.Machine
end

