-- ==== Sys2Proof/Machine/Site.lean ====
section
/-! DEFINITION. Where things lie on the module: core sites, clusters, quads and slices (01 R24, 06 R109, 19 R287),
and the partition Hilbert index (22 R326) with its inverse. -/

namespace Sys2Proof.Machine

/-- Core sites of the module (00 R1). A core is named by its site `1024 * ROW + COL`; the service core of
cluster `cl` is named `sites + cl`. -/
def sites : Nat := 655360

/-- Clusters of the module. -/
def clusterCount : Nat := 10240

def colOf (k : Nat) : Nat := k % 1024
def rowOf (k : Nat) : Nat := k / 1024

/-- The cluster of a core (01 Table 1-7). -/
def clusOf (k : Nat) : Nat := if k < sites then rowOf k / 8 * 128 + colOf k / 8 else k - sites

/-- The cluster-local index of a core (01 Table 1-7). -/
def clocOf (k : Nat) : Nat := rowOf k % 8 * 8 + colOf k % 8

/-- The core of a cluster with a cluster-local index (01 Table 1-7). -/
def coreAt (cl cloc : Nat) : Nat := (cl / 128 * 8 + cloc / 8) * 1024 + (cl % 128 * 8 + cloc % 8)

/-- The service core of a cluster. -/
def serviceOf (cl : Nat) : Nat := sites + cl

/-- The position of a core in its quad (01 Table 1-7). -/
def qidxOf (k : Nat) : Nat := rowOf k % 2 * 2 + colOf k % 2

/-- The quad of a core within its cluster (06 R109). -/
def quadIn (k : Nat) : Nat := rowOf k % 8 / 2 * 4 + colOf k % 8 / 2

/-- A quad of the module: `16 * cluster + quad`. -/
def quadOf (k : Nat) : Nat := 16 * clusOf k + quadIn k

/-- The four cores of a quad, by QIDX. -/
def quadCores (q : Nat) : List Nat :=
  [0, 1, 2, 3].map fun i => coreAt (q / 16) ((q % 16 / 4 * 2 + i / 2) * 8 + q % 4 * 2 + i % 2)

/-- The cores of a cluster, by CLOC. -/
def clusterCores (cl : Nat) : List Nat := (List.range 64).map (coreAt cl)

/-- `CORE` of a site (01 Table 1-7). A service core has no site: only its cluster is given (entry 10). -/
def coreWord (k : Nat) : Word :=
  if k < sites then
    BitVec.ofNat 64 (colOf k + rowOf k * 2 ^ 10 + clocOf k * 2 ^ 20 + clusOf k * 2 ^ 26 + qidxOf k * 2 ^ 40)
  else BitVec.ofNat 64 (clusOf k * 2 ^ 26)

/-- The home channel of a frame (19 R287). -/
def channelOf (ppn : Nat) : Nat :=
  natBits ppn 0 10 ^^^ natBits ppn 10 10 ^^^ natBits ppn 20 10 ^^^ natBits ppn 30 3

/-- Column and row of a slice (18 R266, 19 R287). -/
def sliceCol (sl : Nat) : Nat := 2 * (sl % 512)
def sliceRow (sl : Nat) : Nat := if sl < 512 then 0 else 639

/-- The clusters whose router attaches a slice (21 R317). -/
def sliceCluster (sl : Nat) : Nat := rowOf (sliceRow sl * 1024) / 8 * 128 + sliceCol sl / 8

/-- Distance of two numbers. -/
def absDiff (a b : Nat) : Nat := (a - b) + (b - a)

/-- The distance from a core to a slice (18 R266). -/
def sliceDist (k sl : Nat) : Nat := absDiff (colOf k) (sliceCol sl) + absDiff (rowOf k) (sliceRow sl)

/-- The steps of the Hilbert index on an `n` square, for the bits from `s` down (18 R263). -/
def hilbGo (n : Nat) : Nat → Nat → Nat → Nat → Nat
  | 0, _, _, d => d
  | fuel + 1, x, y, d =>
    let s := 2 ^ fuel
    let rx := if x / s % 2 = 1 then 1 else 0
    let ry := if y / s % 2 = 1 then 1 else 0
    let d := d + s * s * ((3 * rx) ^^^ ry)
    if ry = 0 then
      if rx = 1 then hilbGo n fuel (n - 1 - y) (n - 1 - x) d else hilbGo n fuel y x d
    else hilbGo n fuel x y d

/-- The Hilbert index on a square of side `2 ^ b` (18 R263). -/
def hilb (b x y : Nat) : Nat := hilbGo (2 ^ b) b x y 0

/-- The point of a Hilbert index, built from the low bits up: the inverse of `hilb`. -/
def unhilbGo : Nat → Nat → Nat → Nat → Nat → Nat × Nat
  | 0, _, _, x, y => (x, y)
  | fuel + 1, s, t, x, y =>
    let rx := t / 2 % 2
    let ry := (t ^^^ rx) % 2
    let xy := if ry = 0 then (if rx = 1 then (s - 1 - y, s - 1 - x) else (y, x)) else (x, y)
    unhilbGo fuel (2 * s) (t / 4) (xy.1 + s * rx) (xy.2 + s * ry)

/-- The point of a Hilbert index on a square of side `2 ^ b`. -/
def unhilb (b d : Nat) : Nat × Nat := unhilbGo b 1 d 0 0

/-- The partition Hilbert index of a core site (22 R326). -/
def partIndex (k : Nat) : Nat :=
  let sr := rowOf k / 128
  let sc := colOf k / 128
  let u := colOf k % 128
  let v := rowOf k % 128
  let xy := if sc = 7 then (v, u) else if sr % 2 = 0 then (u, v) else (127 - u, 127 - v)
  (8 * sr + (if sr % 2 = 0 then sc else 7 - sc)) * 16384 + hilb 7 xy.1 xy.2

/-- The core site with a partition Hilbert index (22 R326). -/
def siteOfIndex (i : Nat) : Nat :=
  let sq := i / 16384
  let xy := unhilb 7 (i % 16384)
  let sr := sq / 8
  let sc := if sr % 2 = 0 then sq % 8 else 7 - sq % 8
  let uv := if sc = 7 then (xy.2, xy.1) else if sr % 2 = 0 then xy else (127 - xy.1, 127 - xy.2)
  (sr * 128 + uv.2) * 1024 + sc * 128 + uv.1

end Sys2Proof.Machine
end

