-- ==== Sys2Proof/Machine/Sparse.lean ====
section
/-! DEFINITION. Sparse maps: association lists kept in rising order of their keys. A key that is not listed
reads as the default which the reader names. -/

namespace Sys2Proof.Machine

/-- A map from natural numbers, as a list of pairs in rising order of the key. -/
abbrev Sparse (α : Type) := List (Nat × α)

/-- The entry of a key, if the map lists one. -/
def Sparse.find {α : Type} (m : Sparse α) (k : Nat) : Option α :=
  match m with
  | [] => none
  | (j, x) :: t => if j = k then some x else Sparse.find t k

/-- The entry of a key, or `d` where the map lists none. -/
def Sparse.get {α : Type} (m : Sparse α) (d : α) (k : Nat) : α := (m.find k).getD d

/-- The map with the entry of one key set. -/
def Sparse.put {α : Type} (m : Sparse α) (k : Nat) (x : α) : Sparse α :=
  match m with
  | [] => [(k, x)]
  | (j, y) :: t =>
    if k = j then (k, x) :: t else if k < j then (k, x) :: (j, y) :: t else (j, y) :: Sparse.put t k x

/-- The map without the entry of one key. -/
def Sparse.drop {α : Type} (m : Sparse α) (k : Nat) : Sparse α := m.filter (fun e => e.1 != k)

/-- The map with one entry set, an entry equal to the default being left unlisted. -/
def Sparse.putD {α : Type} [DecidableEq α] (d : α) (m : Sparse α) (k : Nat) (x : α) : Sparse α :=
  if x = d then m.drop k else m.put k x

/-- Keys strictly rising. -/
def Sparse.rising {α : Type} : Sparse α → Bool
  | [] => true
  | [_] => true
  | (j, _) :: (k, y) :: t => decide (j < k) && Sparse.rising ((k, y) :: t)

end Sys2Proof.Machine
end

