-- ==== Sys2Proof/Machine/State.lean ====
section
/-! DEFINITION. The state of one AQ-650 module as plain data: contexts, cores, engines, clusters, partitions,
virtual devices, memory, networks, links and the admin registers (01 R32, 24 R373), and the state at reset. -/

namespace Sys2Proof.Machine

/-- Reasons to stop with a fault. -/
inductive Fault where
  /-- Raised by `step` when the turn to take names a core site the module does not have (01 R24). Safe: the
  hardware has no such site, so no behaviour of it is lost. -/
  | noSuchCore
  deriving DecidableEq, Repr

/-- Reasons to refuse an instruction. -/
inductive Refusal where
  /-- Raised by an arm of `exec` for an instruction without a meaning. Safe: nothing can be proved of it. -/
  | notModelled (mnemonic : String)
  deriving DecidableEq, Repr

/-- What an uncorrectable error falls on, where an access of the consumer finds it (23 Table 23-6): a packet of the
mesh, a line of an I-cache or a code cache, a granule on a wire-fabric link, an entry of a TLB, a line of MACs, a counter line
or node of a tree; and what stands in HBM4E otherwise than a slice left it there: a byte of a line, or a counter of the tree (22 R334, R335). The errors
of banks and of G memory are events of the scrubbers, and errors in state that no access reads are `CONTAINED_ERROR`. -/
inductive Flaw where
  | packet (id : Nat)
  | icacheLine (core vdev addr : Nat)
  | codeLine (cluster vdev addr : Nat)
  | wire (core : Nat) (out : Link)
  | tlbEntry (core index : Nat)
  | macLine (line : Nat)
  | stored (line byte : Nat) (x : Byte)
  | tree (slice node : Nat) (x : Word)
  | node (slice node : Nat)
  deriving DecidableEq, Repr

/-- What moves next: a core issues from its next ready context (18 R268), a context that is held goes on, or an event
takes place. The clock advances by `cycles` afterwards. -/
inductive Turn where
  | issue (k : Nat) (cycles : Nat)
  | retry (k c : Nat) (cycles : Nat)
  | event (i : Instr) (cycles : Nat)
  /-- A packet leaves its source for its first router (21 R314). -/
  | enter (id : Nat) (cycles : Nat)
  /-- A link of the routed or express mesh takes a packet: the node and its output (21 R312, R317). -/
  | link (node out : Nat) (cycles : Nat)
  /-- An uncorrectable error falls on something (23 R364). -/
  | flaw (x : Flaw) (cycles : Nat)
  /-- Firmware writes the route-table entry of a cluster for a destination (21 R318). -/
  | route (cl dst : Nat) (w : Word) (cycles : Nat)
  /-- Service firmware marks a core that it suspects (23 R363). -/
  | suspect (k : Nat) (cycles : Nat)
  /-- The host reads a doubleword of the admin space (24 R373). -/
  | adminRead (off : Nat) (cycles : Nat)
  /-- A fuse of the security state is blown (22 R342). -/
  | fuse (x : Config.Security) (cycles : Nat)
  /-- The boot phase under way fails (24 R375). -/
  | phaseFails (cycles : Nat)
  /-- A turn whose G and W requests travel as packets instead of crossing the networks at once. -/
  | far (t : Turn)
  deriving DecidableEq, Repr

/-! ### Contexts -/

/-- States of an operand-log entry (01 R22). A release that waits is `held` (05 R95), `posted` travels, `taken` has
been delivered at the slice, `performed` waits for its acknowledgement and `refused` for the report of its
failure: all of these read as posted. -/
inductive LogState where
  | free | held | posted | taken | performed | refused | failed
  deriving DecidableEq, Repr

/-- An operand-log entry (01 R22, Table 1-5), with the instruction word and data it holds. -/
structure LogEntry where
  state : LogState := .free
  space : Bool := false
  cause : Byte := 0
  addr : Addr := 0
  word : W32 := 0
  data : Word := 0
  size : Size := .b
  rel : Bool := false
  ar : Bool := false
  scope : Scope := .part
  /-- The physical address translated at issue (05 R94), and the place in the order of issue. -/
  pa : Nat := 0
  order : Nat := 0
  /-- The secondary twin's entry of the same store: core, context, entry (23 R362). -/
  mate : Option (Nat × Nat × Nat) := none
  deriving DecidableEq, Repr

/-- How far a held instruction has come, and what it waits for. -/
inductive Phase where
  /-- The instruction is tried again at each turn, until its bound runs out with the address as `TADDR`
  (01 R28, 05 R100). -/
  | poll (addr : Word)
  /-- As `poll`, and no bound applies to the wait. -/
  | held
  /-- A translation is missing (19 R290); `v` is the virtual device. -/
  | miss (v : Nat) (va : Addr) (wr ex : Bool)
  /-- A slot is ABSENT and waits for its micro-trap (23 R356). -/
  | bankMiss (slot : Nat)
  /-- An idle engine context is absent and waits for its micro-trap (23 R356). -/
  | engineMiss
  /-- The bound of a `WAITE` has run out (11 R215, 10 R199). -/
  | expired
  /-- The access was abandoned by a release of its bank (06 R112): the trap to take. -/
  | abandoned (cause : Byte) (addr : Addr)
  /-- Waits until an engine of the core has completed `target` commands (07 R148). -/
  | until (target : Nat)
  /-- `MXDRN` waits for the decision of its check (07 R141). -/
  | verdict (id : Nat)
  /-- A hand-over drains, travels, or returns with a status (06 R119). -/
  | hovDrain | hovSent | hovBack (st : BitVec 2)
  /-- `DET`, `DET.z` or `CLOSE` of a bank drains, or zeroes (06 R113). -/
  | release (bank : Nat) | zeroing (bank : Nat)
  /-- Has arrived at a group's episode (10 R196); `done` is set when the episode has ended, `bad` for a mixed
  episode (10 R197). -/
  | arrived (done bad : Bool)
  /-- `FLEND` waits for the closing (10 R204). -/
  | closing
  /-- `HKILL` or `END` waits for logs to drain (10 R189, R191). -/
  | draining
  /-- A stop or save of another core is under way (11 R221 to R223), or a helper that `END` stops has an instruction to
  finish (10 R189, R191). -/
  | stopping
  /-- `REVOKE` waits for the drain sets (11 R220). -/
  | revoking (ran : Bool)
  /-- A twin's request waits for the other twin's: its number in the order of the core's requests, and its slice; `twinGo` is the
  primary's, found equal to that of a context of the secondary (23 R362). -/
  | twin (n slice : Nat)
  | twinGo (c : Nat)
  /-- A `WAITE` whose event has come within its bound: it goes on without one (10 R199, 11 R215). -/
  | woken
  /-- An L access that an ARMED slot blocked: the slot is attached, and the access has reached its bank (01 R28, 06 R112). -/
  | slotCame (slot : Nat)
  /-- A G or W load or atomic travels to its home slice, and its answer has come: the value, or the cause of the fault
  (05 R93, R105, 21 R309). `tag` names the request. -/
  | asked (tag : Nat)
  | answered (bad : Option Byte) (v : Word)
  deriving DecidableEq, Repr

/-- An instruction that holds its context: the instruction, the `CYC` of its issue and its phase. -/
structure Hold where
  instr : Instr
  since : Nat
  phase : Phase
  deriving DecidableEq, Repr

/-- One context (01 R15, Table 1-1), with its event latches (11 R215) and what holds it (18 R268). -/
structure Ctx where
  pc : Addr := 0
  a : Word := 0
  p : Vector Word 8 := Vector.replicate 8 0
  lc0 : BitVec 16 := 0
  lc1 : BitVec 16 := 0
  st : Word := 0
  rv : Word := 0
  tpc : Word := 0
  tcause : Word := 0
  taddr : Word := 0
  tval : Word := 0
  oorf : Bool := false
  oora : Addr := 0
  log : Vector LogEntry 8 := Vector.replicate 8 {}
  causeRead : Bool := false
  latches : BitVec 4 := 0
  live : Bool := false
  hold : Option Hold := none
  /-- The command that owes this context a value for RV (01 R20). -/
  owed : Option Nat := none
  /-- Where a migrated helper runs: core and context (10 R193). -/
  away : Option (Nat × Nat) := none
  /-- The home of a guest: core and helper number (10 R193). -/
  guest : Option (Nat × Nat) := none
  /-- Registers left in a save area (23 R356). -/
  absent : Bool := false
  /-- A suspended access whose miss was resolved as having no mapping, and the address of such a fetch (11 R218). -/
  tlbBad : Bool := false
  codeBad : Option Addr := none
  deriving DecidableEq, Repr

/-! ### Engines -/

/-- A queued engine or copy command: the instruction, its context and address, the captured pointers, the
values of a group write, its class and its L footprint as ranges of addresses (07 R126, R129). -/
structure Cmd where
  id : Nat
  instr : Instr
  ctx : Nat
  pc : Addr
  pa : Word := 0
  pb : Word := 0
  vals : List Word := []
  cls : BitVec 2 := 0
  foot : List (Nat × Nat) := []
  /-- The slots of the footprint with the banks they held at enqueue (06 R112). -/
  banks : List (Nat × Nat) := []
  /-- Granted, and on its path of the engine; `started` stays set when it stops at a checkpoint (07 R149, 20 R307). -/
  ran : Bool := false
  started : Bool := false
  /-- The next row, column or boundary of 16 elements, and the bytes of rows read so far (07 R149, 08 R167); of a copy, the
  position at which the granted transfer unit begins, and the bytes of it that another module has sent (09 R171, R175). -/
  row : Nat := 0
  got : List Byte := []
  hdrs : List Byte := []
  /-- Of a copy or reduction: the positions not yet granted, as ranges; the pieces of the granted unit still to be moved; the
  banks that the unit has reached in C space; the granules of the source read so far, by row and address; and the one that a
  slice has been asked for (09 R171, R173, R175). -/
  rest : List (Nat × Nat) := []
  todo : List (Nat × Nat) := []
  reach : List Nat := []
  srcs : Sparse Granule := []
  asked : Option Nat := none
  /-- Of a load: it began in an open chain, and is an entry of its log (07 R139). -/
  chained : Bool := false
  /-- Of a vector command: the bytes written of granules of which it will write more, by L address (12 R226). -/
  wrote : Sparse Byte := []
  /-- The `CYC` of its enqueue or of its last transfer unit. -/
  since : Nat := 0
  /-- Bytes or elements moved so far, and elements acknowledged (09 R177, R185). -/
  pos : Nat := 0
  acked : Nat := 0
  status : BitVec 4 := 0
  /-- Its place in the order of enqueue of its engine. -/
  nth : Nat := 0
  /-- Every read and write of a bank that it makes is performed (06 R112). -/
  moved : Bool := false
  deriving DecidableEq, Repr

/-- A weight plane (07 R134): format, elements and headers as stored, and its source. -/
structure Plane where
  fmt : BitVec 3
  elems : List Byte
  hdrs : List Byte
  pa : Word
  pb : Word
  deriving DecidableEq, Repr

/-- An accumulator with its checksum row and column (07 R136, R142): cell (m, n) is entry 33 m + n. -/
structure Acc where
  cells : Sparse Word := []
  marks : Sparse Bool := []
  g : Sparse W32 := []
  h : Sparse W32 := []
  rowHdr : Sparse (BitVec 16) := []
  colHdr : Sparse (BitVec 16) := []
  /-- Formats of the chain's first stream: of A and of the plane. -/
  fmt : Option (BitVec 3 × BitVec 3) := none
  deriving DecidableEq, Repr

/-- Kinds of chain-log entries (07 R139). -/
inductive ChainKind where
  | activeSrc | shadowSrc | load | flip | stream
  deriving DecidableEq, Repr

/-- A chain-log entry: captured pointers, register values and footprint (07 R139). -/
structure ChainEntry where
  kind : ChainKind
  pa : Word := 0
  pb : Word := 0
  mg0 : Word := 0
  mg1 : Word := 0
  mg2 : Word := 0
  foot : List (Nat × Nat) := []
  deriving DecidableEq, Repr

/-- The reset values of `MG0`-`MG15` (07 Table 7-3). -/
def mgReset : Vector Word 16 :=
  #v[0x2020, 0, 0x20020, 128, 0, 0, 0x3480000000800000, 0x3480000000800000, 0, 0, 0, 0, 0, 0, 0, 0]

/-- A matrix engine context (01 R30, 07 R132). The fields of `MG9` to `MG15` that the engine writes are
held in `mg`; BUSY is computed. -/
structure Mx where
  mg : Vector Word 16 := mgReset
  active : Option Plane := none
  shadow : Option Plane := none
  working : Acc := {}
  visible : Acc := {}
  log : List ChainEntry := []
  queue : List Cmd := []
  enqueued : Nat := 0
  completed : Nat := 0
  /-- Left in a save area while idle (23 R356). -/
  absent : Bool := false
  deriving DecidableEq, Repr

/-- The reset values of `VC0`-`VC7` (08 Table 8-3). -/
def vcReset : Vector Word 8 := #v[0, 0, 0, 0x40, 0, 0xFF800000, 0x7F800000, 0]

/-- A vector engine context (08 R153). -/
structure Vx where
  vc : Vector Word 8 := vcReset
  queue : List Cmd := []
  enqueued : Nat := 0
  completed : Nat := 0
  absent : Bool := false
  deriving DecidableEq, Repr

/-- The reset values of `CV0`-`CV7` (09 Table 9-2). -/
def cvReset : Vector Word 8 := #v[0, 1, 0, 0, 0, 0, 0, 0]

/-- A copy context (09 R172). -/
structure Cx where
  cv : Vector Word 8 := cvReset
  queue : List Cmd := []
  enqueued : Nat := 0
  completed : Nat := 0
  absent : Bool := false
  deriving DecidableEq, Repr

/-! ### Cores -/

/-- Slot states (01 Table 1-8). -/
inductive SlotState where
  | empty | attached | transit | armed | absent
  deriving DecidableEq, Repr

/-- An attach-table entry (01 R25). `wasOpen` is the OPEN flag before a hand-over (06 R119). -/
structure Slot where
  bank : Nat := 0x3FF
  state : SlotState := .empty
  opened : Bool := false
  tag : BitVec 16 := 0
  wasOpen : Bool := false
  deriving DecidableEq, Repr

/-- The other half of a twin pair (23 R360): partner core, and whether this core is the primary. -/
structure Twin where
  partner : Nat
  primary : Bool
  deriving DecidableEq, Repr

/-- A task held on a core (01 R12, 10 R194, 18 R262). -/
structure Task where
  vdev : Nat
  part : Nat
  launch : Nat
  index : Nat := 0
  /-- Start values of a spawned task: entry, data address and argument. -/
  spawn : Option (Addr × Addr × Word) := none
  done : Addr := 0
  twin : Option Twin := none
  /-- Which task of the module this is: a source of reductions is one task on one core (09 R181). -/
  uid : Nat := 0
  /-- Twin mismatches of this task so far, the cores to avoid, and whether it is queued again, so that its end on
  this core is not counted (23 R362). -/
  mismatches : Nat := 0
  avoid : List Nat := []
  again : Bool := false
  deriving DecidableEq, Repr

/-- Why a core issues nothing (11 R209, R222, R223, 23 R353). -/
inductive StopState where
  | running | halted | gstopped | double | thermal
  deriving DecidableEq, Repr

/-- A flow phase on one core (10 R198 to R204). -/
structure Flow where
  group : Nat
  n : Nat
  /-- The first locked address and the 256 locked words; a word whose fetch failed is marked by its cause. -/
  base : Addr
  words : List (W32 ⊕ Byte)
  /-- The phase is open: released and not ended on this core. -/
  opened : Bool := false
  /-- An instruction has issued in the running c-cycle. -/
  issued : Bool := false
  nrxe : BitVec 16 := 0
  /-- `FLOWCYC` values of the `RECV`s that found nothing. -/
  misses : List Nat := []
  /-- The bank and granule latched by a `RECV` in the running c-cycle. -/
  latched : Option (Nat × Nat) := none
  deriving DecidableEq, Repr

/-- A translation entry (11 Table 11-4). -/
structure TlbEntry where
  vdev : Nat
  vpn : Nat
  /-- 0 for 32 KiB, 1 for 2 MiB, 2 for 256 MiB. -/
  size : Nat
  ppn : Nat
  tier1 : Bool
  wr : Bool
  ex : Bool
  deriving DecidableEq, Repr

/-- A 64-byte code line, tagged by virtual device and virtual address (19 R285). -/
structure CodeLine where
  vdev : Nat
  addr : Nat
  words : List W32
  /-- An uncorrectable error was found in it (23 Table 23-6). -/
  bad : Bool := false
  deriving DecidableEq, Repr

/-- What a `COLL` packet carries (09 R181, 21 R324). -/
inductive CollItem where
  | add (core task cmd : Nat) (paddr : Nat) (bf16 det : Bool) (count srcid : Nat) (value : W32)
  | flush (core cmd vdev paddr : Nat) (bf16 : Bool)
  deriving DecidableEq, Repr

/-- A write of a copy into one line of G memory: whether its command writes all of the line, and nothing of it later
(19 R297), and whether it is in W space. -/
structure LineWrite where
  pa : Nat
  whole : Bool
  last : Bool
  space : Bool := false
  bytes : List Byte
  deriving DecidableEq, Repr

/-- A G or W load or atomic on its way to its home slice: the core that sends it and the place of the context that waits,
its instruction, virtual device, space, address and physical address, and the values an atomic takes (05 R93, R103). -/
structure Request where
  home : Nat
  core : Nat
  ctx : Nat
  tag : Nat
  instr : Instr
  vdev : Nat
  space : Bool
  ea : Addr
  pa : Nat
  a : Word := 0
  cmp : Word := 0
  deriving DecidableEq, Repr

/-- What a packet carries. -/
inductive Payload where
  /-- A posted store of a core, context and log entry. -/
  | store (k c e : Nat)
  /-- A store that had left its tile when the tile was killed, with its device and what its log entry held (23 R366). -/
  | lone (k c e v : Nat) (x : LogEntry)
  /-- Its acknowledgement, or the report of its failure (05 R98). -/
  | ack (k c e : Nat)
  /-- A load or atomic, and its answer: the cause of a fault, or the value (05 R93, R105). -/
  | ask (r : Request)
  | answer (k c tag : Nat) (bad : Option Byte) (v : Word)
  /-- A contribution to a reduction, or a flush (09 R181). -/
  | coll (i : CollItem)
  /-- A copy command's read of a range of one line, its data, and its write (09 R175). -/
  | copyRead (k cmd v pa n : Nat) (space : Bool)
  | copyData (k cmd : Nat) (st : BitVec 4) (bs : List Byte)
  | copyWrite (k cmd v : Nat) (w : LineWrite)
  /-- `n` bytes or elements of a copy or reduction command acknowledged, with a status (09 R177). -/
  | done (k cmd n : Nat) (st : BitVec 4)
  /-- Event latches for a helper that is away (10 R193). -/
  | latch (k h : Nat) (bits : BitVec 4)
  /-- A packet without effect on the state of programs. -/
  | plain
  deriving DecidableEq, Repr

/-- Traffic classes (21 R309). -/
inductive PClass where
  | req | rsp | copy | coll | ctrl
  deriving DecidableEq, Repr

/-- An endpoint of the routed mesh: a core (or service core), a slice, a copy engine, a command processor, a Trarum port. -/
inductive Node where
  | core (k : Nat) | slice (s : Nat) | copyEngine (cl : Nat) | processor (p : Nat) | port (p : Nat)
  deriving DecidableEq, Repr

/-- Whether a packet is on its way, or back at its source after a refusal (21 R315, R319). -/
inductive PState where
  | flying | nacked | hinted
  deriving DecidableEq, Repr

/-- Where a packet is (21 R310, R314): with its source, in an input buffer of a router or of an elevator, or at its
destination. Router and elevator inputs are numbered as in `Mesh.lean`. -/
inductive Place where
  | source
  | router (r p : Nat)
  | elevator (cl p : Nat)
  | there
  deriving DecidableEq, Repr

/-- A packet of the mesh (21 R314). -/
structure Packet where
  src : Node
  dst : Node
  cls : PClass
  seq : Nat
  level : BitVec 2
  payload : Payload
  state : PState := .flying
  place : Place := .there
  /-- The order of its arrival in the buffer where it stands. -/
  stamp : Nat := 0
  /-- The elevators it is still to reach: ENTER while it is on its first leg of the routed mesh, then WAY and LEAVE
  (21 R317); and the elevator that a hint names (21 R319). -/
  enter : Option Nat := none
  legs : List Nat := []
  hint : Option Nat := none
  /-- Travels in the escape buffers (21 R316). -/
  esc : Bool := false
  /-- The `CYC` since which it has stood at the head of its buffer. -/
  since : Nat := 0
  poisoned : Bool := false
  /-- Secondary twins send a hash in place of a packet (23 R362). -/
  hash : Option (BitVec 64) := none
  /-- Forwarded by the primary's router after its comparison. -/
  checked : Bool := true
  deriving DecidableEq, Repr

/-- A request to stop a core (11 R222, R223, 23 R353). -/
inductive StopReq where
  | halt | gstop | heat | save (area : Nat)
  deriving DecidableEq, Repr

/-- One core site, or the service core of a cluster (01 R23, R32). -/
structure Core where
  ctxs : Sparse Ctx := []
  tvec : Word := 0
  flowcyc : BitVec 32 := 0
  slots : Sparse Slot := []
  /-- Reason records of the helpers (10 R190). -/
  reasons : Sparse (BitVec 2) := []
  inbox : List Packet := []
  mx : Mx := {}
  vx : Vx := {}
  cx : Cx := {}
  /-- Commands enqueued so far: the name of the next one. -/
  cmdSeq : Nat := 0
  /-- Values on their way to RV: context, command and value (01 R20). -/
  returns : List (Nat × Nat × Word) := []
  task : Option Task := none
  stop : StopState := .running
  /-- A stop under way. -/
  stopReq : Option StopReq := none
  /-- The save area of a saved context that is held on this core (18 R264). -/
  savedAt : Option Nat := none
  /-- The save area from which absent pieces are still fetched (23 R356). -/
  restoreFrom : Option Nat := none
  /-- The abort of this core's task has begun (06 R123). -/
  revoking : Bool := false
  gscyc : Word := 0
  gstx : Word := 0
  gsrx : Word := 0
  tx : Word := 0
  rx : Word := 0
  flow : Option Flow := none
  sel : Option Link := none
  /-- Its work was saved by a `DROWSE` of its cluster, and what is absent is restored on first use (22 R344). -/
  drowsed : Bool := false
  /-- Outputs that carry a granule in the running c-cycle, by link; `true` marks a poisoned one. -/
  outs : List (Link × Granule × Bool) := []
  /-- Outputs written in the running c-cycle, carried in the next (10 R201). -/
  outsNext : List (Link × Granule × Bool) := []
  tlb : List TlbEntry := []
  icache : List CodeLine := []
  psel : BitVec 10 := 0
  /-- The context that issued last (18 R268), and the time of the last migration (18 R271). -/
  lastCtx : Nat := 10
  lastMig : Option Nat := none
  quarantined : Bool := false
  outOfService : Bool := false
  /-- Marked by firmware: quarantined when its task ends (23 R363). -/
  suspect : Bool := false
  testing : Bool := false
  /-- `CYC` of the last twin mismatch, and whether another lay within 2^40 c-cycles before it (23 R363). -/
  lastMismatch : Option Nat := none
  mismatchedAgain : Bool := false
  /-- `CYC` of a `DOUBLE` stop (23 R349), and its release through `DREL`. -/
  doubleAt : Nat := 0
  doubleReleased : Bool := false
  deriving DecidableEq, Repr

/-- A quad's arbiters: the core served last on the matrix engine's stream path and load path, and on the vector unit
(07 R127, 20 R304). -/
structure Quad where
  lastMx : Nat := 3
  lastSt : Nat := 3
  lastLd : Nat := 3
  lastVx : Nat := 3
  deriving DecidableEq, Repr

/-! ### Clusters -/

/-- Who holds a bank (06 R109): the pool, as clean or kept by a virtual device, or a slot of a core. -/
inductive BankState where
  | clean | kept (vdev : Nat) | held (core slot : Nat) | leaving | gone
  deriving DecidableEq, Repr

/-- A bank: 256 granules with data, full bits and poison (01 R29, 19 R296). -/
structure Bank where
  data : Sparse Granule := []
  full : BitVec 256 := 0
  poison : BitVec 256 := 0
  state : BankState := .clean
  /-- Marked for retirement (19 R283), and the times of its corrected errors. -/
  marked : Bool := false
  corrected : List Nat := []
  deriving DecidableEq, Repr

/-- The copy of a launch's resident image in a cluster (19 R284). -/
structure Resident where
  launch : Nat
  base : Nat
  lines : Nat
  words : Sparse W32 := []
  deriving DecidableEq, Repr

/-- A helper on its way to another core of the cluster (18 R271). -/
structure Migration where
  src : Nat
  dst : Nat
  home : Nat
  helper : Nat
  ctx : Ctx
  /-- The number of its message among the `CTRL` packets between the two cores (21 R314). -/
  seq : Nat := 0
  /-- Called back to its home. -/
  recalled : Bool := false
  deriving DecidableEq, Repr

/-- Cluster power states (22 Table 22-9). -/
inductive Power where
  | run | nap | drowse | dark
  deriving DecidableEq, Repr

/-- States of an elevator (21 R319). -/
inductive Elevator where
  | good | closing | retired
  deriving DecidableEq, Repr

/-- One cluster (01 R32). -/
structure Cluster where
  banks : Sparse Bank := []
  retired : BitVec 10 := 0
  resident : List Resident := []
  codeCache : List CodeLine := []
  tlb : List TlbEntry := []
  cload : Word := 0
  migctl : Word := 0x1000000 + 0x4D
  moving : List Migration := []
  power : Power := .run
  /-- A state requested whose entry condition is still awaited, and a boot after `DARK` under way. -/
  request : Option Power := none
  booting : Bool := false
  gen : Nat := 0
  elevator : Elevator := .good
  /-- Route-table entries that differ from their boot value (21 Table 21-2). -/
  routes : Sparse Word := []
  /-- The CLOC granted last within each copy class, 64 for the service core, and grants since each class that waits
  was served (09 R171). -/
  copyLast : Vector Nat 3 := Vector.replicate 3 64
  copySkip : Vector Nat 3 := Vector.replicate 3 0
  /-- Escapes counted and shadow events received by the service core (21 R316, 19 R291). -/
  escapes : Nat := 0
  shadows : List (Nat × Nat × List Nat) := []
  /-- Cores whose pairs' mismatches the service core has recorded as `TWINMISMATCH` (23 R362). -/
  mismatches : List Nat := []
  /-- Cores stopped by a halting `DBRK`, as the service core was told (11 R213). -/
  breaks : List Nat := []
  /-- Fenced, with the tile that an error in cluster `tile` has killed (23 R366). -/
  fenced : Bool := false
  tile : Nat := 0
  deriving DecidableEq, Repr

/-! ### Partitions -/

/-- An arrival at a group (10 R197). -/
inductive Arrival where
  | bar | flow (n : Nat)
  deriving DecidableEq, Repr

/-- The record of an open flow phase of a group: its members and those that have not ended it, and the faults
met as (FLOWCYC, cluster, CLOC, cause) (10 R203, R204). -/
structure PhaseRec where
  members : List Nat
  going : List Nat
  faults : List (Nat × Nat × Nat × Byte) := []
  n : Nat
  deriving DecidableEq, Repr

/-- A group of a partition (10 R195). -/
structure Group where
  members : List Nat := []
  arrived : List (Nat × Arrival) := []
  phase : Option PhaseRec := none
  /-- An ended `FLOW` episode whose release waits for a member that is not running (10 R200). -/
  pending : Option Nat := none
  deriving DecidableEq, Repr

/-- A partition slot (22 R328), with its groups and spawned tasks that wait (18 R266). -/
structure Part where
  valid : Bool := false
  base : Nat := 0
  len : Nat := 0
  vdev : Nat := 0
  flowmax : BitVec 14 := 1024
  groups : Sparse Group := []
  spawned : List Task := []
  /-- A `PREEMPT` save is in force (23 R351). -/
  held : Bool := false
  deriving DecidableEq, Repr

/-! ### Virtual devices -/

/-- States of a stream command or of a graph node (18 R275, R277). -/
inductive JobState where
  | waiting | running | done | failed | cancelled
  deriving DecidableEq, Repr

/-- A stream command, or a node of a running graph: its record, state, progress and predecessors. -/
structure Job where
  rc : BitVec 512
  state : JobState := .waiting
  detail : Byte := 0
  pos : Nat := 0
  since : Nat := 0
  preds : List Nat := []
  /-- The launch it runs, and whether it was killed (18 R280). -/
  launch : Option Nat := none
  kill : Bool := false
  /-- A node of the graph it launched has failed (18 R277). -/
  failed : Bool := false
  /-- The frames of a `TIER` under way (19 R294). -/
  frames : List Nat := []
  deriving DecidableEq, Repr

/-- A defined graph (18 R277): node records with their predecessors, and whether it is live. -/
structure Graph where
  nodes : List (BitVec 512 × List Nat)
  live : Nat := 0
  deriving DecidableEq, Repr

/-- A stream (18 Table 18-6, 24 Table 24-4). -/
structure Stream where
  base : Word := 0
  size : BitVec 4 := 6
  head : BitVec 32 := 0
  tail : BitVec 32 := 0
  err : Bool := false
  detail : Byte := 0
  /-- ERR is set for a ring overrun (18 R272). -/
  overran : Bool := false
  live : Bool := false
  part : Nat := 0
  proc : Nat := 0
  /-- The partition slot that `SQCTL` was last written with (24 Table 24-4). -/
  slot : BitVec 10 := 0
  dying : Bool := false
  /-- Destroyed with KILL on every command (22 R336). -/
  forced : Bool := false
  /-- Completion doublewords that wait for their page, with their addresses (18 R273, R275, 19 R295). -/
  owed : List (Addr × Word) := []
  /-- 0 is the stream's own command, j + 1 node j of its running graph. -/
  jobs : Sparse Job := []
  graph : Option Nat := none
  deriving DecidableEq, Repr

/-- Live migration of a device (22 R345 to R347). -/
structure Migrating where
  dest : Nat
  /-- The final round is stopping the device's work, and has stopped it. -/
  stopping : Bool := false
  held : Bool := false
  finalDone : Bool := false
  ovf : Bool := false
  deriving DecidableEq, Repr

/-- A virtual device (22 R329). -/
structure VDev where
  keys : Bool := false
  /-- How many key sets it has had: the name of the present one. -/
  keyGen : Nat := 0
  ptroot : Word := 0
  vtime : Word := 0
  vcnt : Vector Word 8 := Vector.replicate 8 0
  vcntsel : W32 := 0
  streams : Sparse Stream := []
  graphs : Sparse Graph := []
  measurement : List Byte := List.replicate 64 0
  copyLevel : BitVec 2 := 2
  collLevel : BitVec 2 := 2
  bounds : Sparse (BitVec 16) := []
  estimates : Sparse Word := []
  window : Nat := 0
  /-- Which measures have a sample in the running window (22 R333). -/
  samples : BitVec 4 := 0
  trbase : Word := 0
  trsize : BitVec 4 := 6
  trcnt : Word := 0
  trdrop : W32 := 0
  rgrant : Sparse Word := []
  migrating : Option Migrating := none
  deriving DecidableEq, Repr

/-- What a device holds of a window (22 R337). -/
inductive Holder where
  | grantedRead | grantedWrite | revoked
  deriving DecidableEq, Repr

/-- A cove window (22 R337): owner, frames in order, key, holders. -/
structure Window where
  owner : Nat
  va : Nat
  frames : List Nat
  keyGen : Nat := 0
  holders : Sparse Holder := []
  /-- New accesses wait while it is re-keyed (22 R338). -/
  rekeying : Bool := false
  deriving DecidableEq, Repr

/-- A 32 KiB frame (19 R293, R294, 22 R336). Tier-1 frame `p` is entry `2^33 + p`. `lost`: its slice has lost the root and
the keys that its lines need (22 R344). -/
structure Frame where
  pins : Nat := 0
  /-- How many of the pins are each device's, which `KEY` erase clears (22 R336). -/
  pinned : Sparse Nat := []
  owner : Option Nat := none
  promoted : Bool := false
  moving : Bool := false
  automatic : Bool := false
  cove : Option Nat := none
  lost : Bool := false
  deriving DecidableEq, Repr

/-- Counters of 4 KiB of a frame (22 R335). -/
structure Counter where
  major : Word := 0
  minor : Sparse (BitVec 7) := []
  deriving DecidableEq, Repr

/-- What a slice knows of a line: poisoned (19 R297). -/
structure Line where
  poison : Bool := false
  deriving DecidableEq, Repr

/-- A line that a slice has written back, as it stands in HBM4E: its ciphertext and its MAC (22 R334). -/
structure StoredLine where
  cipher : List Byte
  mac : BitVec 48
  deriving DecidableEq, Repr

/-- An open reduction accumulator (09 R181). -/
structure RAcc where
  bf16 : Bool
  det : Bool
  count : Nat
  got : Nat := 0
  sum : W32 := 0
  /-- An uncorrectable error was found in it (23 Table 23-6). -/
  bad : Bool := false
  /-- Contributions held in deterministic mode: source id, source (core, task), value. -/
  parts : List (Nat × (Nat × Nat) × W32) := []
  deriving DecidableEq, Repr

/-- A `REQ` packet that a slice has taken and not yet served (21 R324): the store of a core, context and log entry, the load
or atomic of a context, entry 8, or a store whose core a containment has reset, entry 16 and up, with its device. -/
structure Taken where
  core : Nat
  ctx : Nat
  entry : Nat
  poisoned : Bool := false
  ask : Option Request := none
  lone : Option (Nat × LogEntry) := none
  deriving DecidableEq, Repr

/-- Who wrote a tier-1 line: a context, or a copy or reduction command by its place in its engine's order. -/
inductive Maker where
  | ctx (c : Nat)
  | copy (nth : Nat)
  deriving DecidableEq, Repr

/-- A tier-1 line that is not yet written through: the line, the core and what wrote it, or waited for the command that
did, and whether an `.ar` access at SYS did (05 R96, 12 R233). -/
structure Through where
  line : Nat
  core : Nat
  who : Maker
  fence : Bool := false
  deriving DecidableEq, Repr

/-- The arbiter of one output link (21 R312): the input served last, and its grants since each level that waits was
served. -/
structure LinkArb where
  last : Nat := 0
  skip : Vector Nat 4 := Vector.replicate 4 0
  deriving DecidableEq, Repr

/-- One shore slice: open accumulators by address, the `COLL` queue, the `REQ` packets taken in order, dirty logs; the counter
trees of the devices, with the MACs of counter lines and nodes, and the root table (22 R335). -/
structure Slice where
  accs : Sparse RAcc := []
  coll : List CollItem := []
  taken : List Taken := []
  dirty : Sparse (List Nat) := []
  ovf : List Nat := []
  tree : Sparse Word := []
  macs : Sparse (BitVec 48) := []
  roots : Sparse Word := []
  /-- Counter lines and tree nodes with an uncorrectable error (19 R297, 23 R364). -/
  badNodes : List Nat := []
  deriving DecidableEq, Repr

/-! ### Launches, saves, links, host -/

/-- A launch in progress (18 R260 to R267): its LPB, where it runs, its next run and its tasks. -/
structure Launch where
  lpb : BitVec 512
  vdev : Nat
  part : Nat
  stream : Nat
  job : Nat
  /-- Next run of tasks to place, tasks started and tasks ended. -/
  nextRun : Nat := 0
  started : Nat := 0
  ended : Nat := 0
  /-- Spawned tasks queued or running. -/
  spawned : Nat := 0
  requeued : List Task := []
  /-- Completion doublewords of spawned tasks that wait for their page, with their addresses (10 R194, 19 R295). -/
  dones : List (Addr × Nat) := []
  failed : Option Byte := none
  killed : Bool := false
  /-- A co-resident launch at the head of the order: the free cores of its partition are held for it (18 R267). -/
  holding : Bool := false
  deriving DecidableEq, Repr

/-- A save area in force (23 R353, R354), named by `vdev * 2^48 + address`: the saving core, whose record keeps the
registers and engine contexts until they are loaded, the slots written out, and what the area's bytes are:
the header's fields, and `seed`, from which the device's own form of the rest is taken (entry 8). -/
structure Saved where
  saver : Nat
  part : Nat
  vdev : Nat
  banks : Sparse Bank := []
  mask : BitVec 12 := 0
  cyc : Word := 0
  seed : Nat := 0
  deriving DecidableEq, Repr

/-- What a link packet carries: the fields of its header but SEQ and LEN, and its data (24 R367, Table 24-1). -/
structure LinkBody where
  kind : BitVec 4 := 0
  smod : BitVec 6 := 0
  dmod : BitVec 6 := 0
  vdev : BitVec 9 := 0
  cls : PClass := .copy
  shost : Bool := false
  dhost : Bool := false
  err : Bool := false
  addr : Addr := 0
  tag : W32 := 0
  data : List Byte := []
  deriving DecidableEq, Repr

/-- A packet in the replay buffer of a link direction (24 R368). What a packet of another sender than this module carries is
that sender's: `none` where the model does not need it. -/
structure LinkPacket where
  seq : BitVec 12
  sentAt : Nat := 0
  body : Option LinkBody := none
  /-- The copy command that it belongs to: core, command and bytes (09 R177). -/
  copy : Option (Nat × Nat × Nat) := none
  deriving DecidableEq, Repr

/-- One direction of a port (24 R367 to R369). -/
structure LinkDir where
  next : BitVec 12 := 0
  expected : BitVec 12 := 0
  replay : List LinkPacket := []
  /-- Packets that wait at the sender: it holds at most 2,048 unacknowledged. -/
  waiting : List LinkPacket := []
  nak : Bool := false
  unacked : Nat := 0
  lastAck : Nat := 0
  lanes : BitVec 16 := 0xFFFF
  /-- Lanes of the trained group; 0 when the port is down. -/
  width : Nat := 16
  retraining : Bool := false
  requested : Bool := false
  /-- A replay under way: the number of the packet that it sends next (24 R368). -/
  again : Option (BitVec 12) := none
  /-- The CRC failures seen within 2^20 c-cycles: the lane that shows each, and its time (24 R369). -/
  failures : List (Nat × Nat) := []
  deriving DecidableEq, Repr

/-- A Trarum port, and the module that it leads to, 64 for the host, known once it is trained, and the key that the two modules
agree, once each has verified the other's report (24 R371, R375). -/
structure Port where
  out : LinkDir := {}
  inn : LinkDir := {}
  peer : Option Nat := none
  key : Option (BitVec 256) := none
  deriving DecidableEq, Repr

/-- What the module sends to the host (22 R333, 23 R366, 24 R375, R385). -/
inductive HostMsg where
  | qosBreach (vdev meas pct : Nat) (estimate : Word) (window : Nat)
  | containment (tile : Nat) (site : ErrSite) (cluster : Nat)
  | double (core : Nat)
  | bootFailure (step : Nat)
  | thermal
  | response (vdev : Nat) (tag : W32) (data : List Byte)
  | failure (vdev : Nat) (tag : W32) (cause : Byte)
  | badEntry (vdev : Nat) (va : Addr)
  | escapes (cluster : Nat)
  | admin (tag : W32) (value : Word)
  deriving DecidableEq, Repr

/-- Debug states (22 R342). -/
inductive Debug where
  | none | trace | halt
  deriving DecidableEq, Repr

/-- The module. -/
structure State where
  /-- The model's own: the turns to come, the counter of free values, the context whose turn it is. -/
  script : List Turn
  fresh : Nat
  cur : Nat × Nat
  cyc : Word
  cores : Sparse Core
  quads : Sparse Quad
  clusters : Sparse Cluster
  parts : Sparse Part
  vdevs : Sparse VDev
  windows : Sparse Window
  /-- G memory, by physical address; tier 1 lies `2^48` higher. -/
  mem : List Host.Cell
  frames : Sparse Frame
  lines : Sparse Line
  /-- Lines written back and not changed since, as HBM4E holds them (22 R334). -/
  stored : Sparse StoredLine
  counters : Sparse Counter
  slices : Sparse Slice
  /-- Tier-1 lines not yet written through (05 R96). -/
  through : List Through
  launches : Sparse Launch
  launchSeq : Nat
  taskSeq : Nat
  saved : Sparse Saved
  packets : Sparse Packet
  packetSeq : Nat
  /-- The model's own: the turn sends its packets over the links, one by one (entry 32). -/
  travel : Bool
  /-- Arrivals in buffers so far, and the arbiters of the links, by `16 * node + output`: the nodes are the routers and, from
  163,840 on, the elevators (21 R312). -/
  arrivals : Nat
  links : Sparse LinkArb
  /-- Sources that hold what passes an elevator: the source, the elevator, and its cluster's GEN at the hint
  (21 R319). -/
  hints : List (Node × Nat × Nat)
  /-- `ESCT`, set at boot (21 R316). -/
  esct : Nat
  /-- Sequence numbers injected and delivered, by source, destination and class (21 R314). -/
  seqOut : List ((Node × Node × PClass) × Nat)
  seqIn : List ((Node × Node × PClass) × Nat)
  ports : Sparse Port
  /-- What the module sends to the host, and how many of these a port has sent. -/
  host : List HostMsg
  hostSent : Nat
  bootPhase : Nat
  recovery : Bool
  failStep : Byte
  /-- Whether `INTADDR` has been written, and the host told of a boot failure (24 R375). -/
  intWritten : Bool
  failTold : Bool
  /-- The image that failed its verification, and the images that recovery mode has written to the boot flash. -/
  badImage : Nat
  flash : Sparse (List Byte)
  /-- Banks that the next boot maps out, as (cluster, bank) (19 R283). -/
  mapOut : List (Nat × Nat)
  fw : List Byte
  /-- The security state blown into the fuses since the module was made, and the one in force since the last reset
  (22 R342): `none` is the state it was made in. -/
  fuse : Option Config.Security
  inForce : Option Config.Security
  debug : Debug
  ctile : Word
  /-- `T1FRAMES`: tier-1 frames attached, known once the ports are trained (24 R375). -/
  t1frames : Nat
  promo : Word
  pwrcap : Word
  intaddr : Word
  lnkctl : Word
  drel : Word
  attreq : Word
  nonce : List Byte
  attrep : List Byte
  attReady : Bool
  throttled : Bool
  thermal : Bool
  deriving DecidableEq, Repr

/-- The module at power-on reset, before the first boot phase (24 R375): nothing placed, no device, no key. The
registers whose reset value the spec does not give are 0 (log entry 2); `script`, `fresh` and `cur` are the
model's own (log entry 3). -/
def State.reset : State where
  script := []
  fresh := 0
  cur := (0, 0)
  cyc := 0
  cores := []
  quads := []
  clusters := []
  parts := []
  vdevs := []
  windows := []
  mem := []
  frames := []
  lines := []
  stored := []
  counters := []
  slices := []
  through := []
  launches := []
  launchSeq := 0
  taskSeq := 0
  saved := []
  packets := []
  packetSeq := 0
  travel := false
  arrivals := 0
  links := []
  hints := []
  esct := 4096
  seqOut := []
  seqIn := []
  ports := []
  host := []
  hostSent := 0
  bootPhase := 0
  recovery := false
  failStep := 0
  intWritten := false
  failTold := false
  badImage := 0
  flash := []
  mapOut := []
  fw := List.replicate 64 0
  fuse := none
  inForce := none
  debug := .none
  ctile := 0x81
  t1frames := 0
  promo := 0
  pwrcap := 0
  intaddr := 0
  lnkctl := 0
  drel := 0
  attreq := 0
  nonce := List.replicate 32 0
  attrep := List.replicate 1648 0
  attReady := false
  throttled := false
  thermal := false

end Sys2Proof.Machine
end

