-- ==== Sys2Proof/Machine/Ops.lean ====
section
/-! DEFINITION. The named operations over registers and memory: accessors, L, C and G memory, translation, the
operand log, event latches, taking an exception and returning from one, and the outcome of an instruction. -/

namespace Sys2Proof.Machine

/-! ### Cause codes (11 Table 11-2) -/

def causeIllins : Byte := 0x01
def causePriv : Byte := 0x02
def causeMisalign : Byte := 0x03
def causeDetached : Byte := 0x04
def causeCspace : Byte := 0x06
def causeMigspace : Byte := 0x07
def causeDivz : Byte := 0x08
def causeIllctx : Byte := 0x09
def causeSlot : Byte := 0x0A
def causeFlowAbort : Byte := 0x0B
def causeIllop : Byte := 0x0C
def causeMxscale : Byte := 0x0D
def causeMxcheck : Byte := 0x0E
def causePagefatal : Byte := 0x0F
def causeIntegrity : Byte := 0x10
def causeEccunc : Byte := 0x11
def causeCoveRevoked : Byte := 0x12
def causeTwinMismatch : Byte := 0x13
def causeSwtrap : Byte := 0x14
def causeBreak : Byte := 0x15
def causeDouble : Byte := 0x16
def causeTimeout : Byte := 0x17

/-! ### Accessors -/

/-- A context as it stands when nothing has used it: ST.SUP is 1 in a service core (01 Table 1-3). -/
def ctxInit (k : Nat) : Ctx := if k < sites then {} else { st := 0x1000 }

def State.core (s : State) (k : Nat) : Core := s.cores.get {} k
def State.setCore (s : State) (k : Nat) (x : Core) : State := { s with cores := s.cores.put k x }
def Core.ctx (x : Core) (k c : Nat) : Ctx := x.ctxs.get (ctxInit k) c
def Core.setCtx (x : Core) (c : Nat) (y : Ctx) : Core := { x with ctxs := x.ctxs.put c y }
def State.ctx (s : State) (k c : Nat) : Ctx := (s.core k).ctx k c
def State.setCtx (s : State) (k c : Nat) (y : Ctx) : State := s.setCore k ((s.core k).setCtx c y)

/-- The core and context whose instruction executes, and its registers. -/
def State.k (s : State) : Nat := s.cur.1
def State.c (s : State) : Nat := s.cur.2
def State.me (s : State) : Ctx := s.ctx s.k s.c
def State.setMe (s : State) (y : Ctx) : State := s.setCtx s.k s.c y

def State.cluster (s : State) (cl : Nat) : Cluster := s.clusters.get {} cl
def State.setCluster (s : State) (cl : Nat) (x : Cluster) : State := { s with clusters := s.clusters.put cl x }
def Cluster.bank (x : Cluster) (b : Nat) : Bank := x.banks.get {} b
def Cluster.setBank (x : Cluster) (b : Nat) (y : Bank) : Cluster := { x with banks := x.banks.put b y }
def State.bank (s : State) (cl b : Nat) : Bank := (s.cluster cl).bank b
def State.setBank (s : State) (cl b : Nat) (y : Bank) : State := s.setCluster cl ((s.cluster cl).setBank b y)
def State.part (s : State) (p : Nat) : Part := s.parts.get {} p
def State.setPart (s : State) (p : Nat) (x : Part) : State := { s with parts := s.parts.put p x }
def Part.group (x : Part) (g : Nat) : Group := x.groups.get {} g
def Part.setGroup (x : Part) (g : Nat) (y : Group) : Part := { x with groups := x.groups.put g y }
def State.vdev (s : State) (v : Nat) : VDev := s.vdevs.get {} v
def State.setVdev (s : State) (v : Nat) (x : VDev) : State := { s with vdevs := s.vdevs.put v x }
def State.quad (s : State) (q : Nat) : Quad := s.quads.get {} q
def State.setQuad (s : State) (q : Nat) (x : Quad) : State := { s with quads := s.quads.put q x }
def State.slice (s : State) (sl : Nat) : Slice := s.slices.get {} sl
def State.setSlice (s : State) (sl : Nat) (x : Slice) : State := { s with slices := s.slices.put sl x }
def State.frame (s : State) (f : Nat) : Frame := s.frames.get {} f
def State.setFrame (s : State) (f : Nat) (x : Frame) : State := { s with frames := s.frames.put f x }
def State.line (s : State) (l : Nat) : Line := s.lines.get {} l
def State.setLine (s : State) (l : Nat) (x : Line) : State := { s with lines := s.lines.put l x }
def Core.slot (x : Core) (n : Nat) : Slot := x.slots.get {} n
def Core.setSlot (x : Core) (n : Nat) (y : Slot) : Core := { x with slots := x.slots.put n y }
def State.slot (s : State) (k n : Nat) : Slot := (s.core k).slot n
def State.setSlot (s : State) (k n : Nat) (y : Slot) : State := s.setCore k ((s.core k).setSlot n y)

/-! ### Pointers and ST -/

/-- A pointer register. -/
def Ctx.ptr (y : Ctx) (n : PReg) : Word := y.p.get n.toFin
/-- A whole pointer register written (01 R17). -/
def Ctx.setPtr (y : Ctx) (n : PReg) (v : Word) : Ctx := { y with p := y.p.set n.toNat v n.isLt }
/-- The address field of a pointer image (01 Table 1-2). -/
def addrOf (v : Word) : Addr := v.setWidth 48
/-- The stride field of a pointer image, sign-extended to an address (01 Table 1-2). -/
def strideOf (v : Word) : Addr := (bits v 48 16).signExtend 48
/-- A pointer image with another address (01 R17). -/
def withAddr (v : Word) (a : Addr) : Word := (bits v 48 16 ++ a : BitVec 64)
/-- The address field of a pointer register written, its stride kept (01 R17). -/
def Ctx.setPtrAddr (y : Ctx) (n : PReg) (a : Addr) : Ctx := y.setPtr n (withAddr (y.ptr n) a)

/-- Fields of ST (01 Table 1-3). -/
def stZ : Nat := 0
def stN : Nat := 1
def stC : Nat := 2
def stV : Nat := 3
def stQ : Nat := 4
def stHLP : Nat := 8
def stMIG : Nat := 9
def stTRP : Nat := 10
def stFLW : Nat := 11
def stSUP : Nat := 12
def stRVF : Nat := 13

/-- A bit of a word. -/
def getBit {n : Nat} (w : BitVec n) (i : Nat) : Bool := w.getLsbD i
/-- A word with one bit set to a value. -/
def putBit {n : Nat} (w : BitVec n) (i : Nat) (b : Bool) : BitVec n :=
  if b then w ||| BitVec.twoPow n i else w &&& ~~~(BitVec.twoPow n i)

def Ctx.flag (y : Ctx) (i : Nat) : Bool := getBit y.st i
def Ctx.setFlag (y : Ctx) (i : Nat) (b : Bool) : Ctx := { y with st := putBit y.st i b }
/-- The scalar rounding mode ST.RM (01 Table 1-3). -/
def Ctx.rm (y : Ctx) : Rm :=
  match (bits y.st 5 2).toNat with
  | 0 => .rne
  | 1 => .rtz
  | 2 => .rup
  | _ => .rdn
/-- ST.BTO in c-cycles (01 Table 1-3). -/
def Ctx.bound (y : Ctx) : Nat := (bits y.st 16 16).toNat * 64

/-- The next instruction: PC + 4, nothing held (02 R34). -/
def Ctx.advance (y : Ctx) : Ctx := { y with pc := y.pc + 4, hold := none }
/-- A transfer of control (01 R18): the sentinel is met when the context next issues. -/
def Ctx.goto (y : Ctx) (t : Addr) : Ctx := { y with pc := t, hold := none }
def Ctx.setA (y : Ctx) (v : Word) : Ctx := { y with a := v }

/-- The security state in force, and the one that the next reset puts in force (22 R342). -/
def State.security (s : State) : Config.Security := s.inForce.getD Config.security
def State.fused (s : State) : Config.Security := s.fuse.getD Config.security

/-- The return sentinel (01 R18). -/
def sentinel : Addr := 0xFFFFFFFFFFFC

/-- A device whose work the final round of a migration stops, or has stopped (22 R346). -/
def State.deviceStopping (s : State) (v : Nat) : Bool := (s.vdev v).migrating.any fun m => m.stopping || m.held
def State.deviceHeld (s : State) (v : Nat) : Bool := (s.vdev v).migrating.any Migrating.held

/-! ### Who a context works for -/

/-- The core whose task a context belongs to: a guest helper belongs to its home (10 R193). -/
def State.homeOf (s : State) (k c : Nat) : Nat :=
  match (s.ctx k c).guest with
  | some (h, _) => h
  | none => k

/-- The task of a context. -/
def State.taskOf (s : State) (k c : Nat) : Option Task := (s.core (s.homeOf k c)).task

/-- The virtual device of a context; a service core works for the management device (entry 10). -/
def State.vdevOf (s : State) (k c : Nat) : Nat := ((s.taskOf k c).map Task.vdev).getD 0

/-- Whether a partition slot holds a core site (22 R328). -/
def Part.holds (x : Part) (k : Nat) : Bool :=
  x.valid && decide (k < sites) && decide (x.base ≤ partIndex k) && decide (partIndex k < x.base + x.len)

/-- The partition slot that holds a core site. -/
def State.partOfSite (s : State) (k : Nat) : Option Nat := (s.parts.find? fun e => e.2.holds k).map (·.1)

/-- The partition of a core: its task's, else the one that holds its site. -/
def State.partOf (s : State) (k : Nat) : Option Nat :=
  match (s.core k).task with
  | some t => some t.part
  | none => s.partOfSite k

/-- Whether a core is in service in its partition and its cluster (19 R282, 22 R344). -/
def State.inService (s : State) (k : Nat) : Bool :=
  decide (k < sites) && !(s.core k).outOfService && !(s.cluster (clusOf k)).fenced

/-! ### Outcomes of an instruction -/

/-- The outcome of a step of this machine. -/
abbrev Out := Host.Outcome State Fault Refusal

/-- A trap record (11 R208, Table 11-2). -/
structure Rec where
  tpc : Addr
  cause : Byte
  addr : Word
  val : Word
  late : Bool := false
  deriving DecidableEq, Repr

/-- What became of an instruction: it has executed, it traps, or it holds its context. -/
inductive Act where
  | done (s : State)
  | trap (r : Rec) (s : State)
  | wait (p : Phase) (s : State)

/-- The result of an access: a value, a fault with its cause and address, or a wait. -/
inductive Got (α : Type) where
  | ok (x : α)
  | bad (cause : Byte) (addr : Addr)
  | wait (p : Phase)

/-- The word of an instruction. -/
def wordOf (i : Instr) : Word := ((encode i).getD 0).setWidth 64

/-! ### L memory -/

/-- The bytes `o` to `o + z - 1` of a granule, zero-extended (01 R29). -/
def granuleRead (g : Granule) (o z : Nat) : Word := (g >>> (8 * o)).setWidth 64 &&& BitVec.ofNat 64 (2 ^ (8 * z) - 1)

/-- A granule with `z` bytes at `o` replaced. -/
def granuleWrite (g : Granule) (o z : Nat) (v : Word) : Granule :=
  let m : Granule := BitVec.ofNat 128 (2 ^ (8 * z) - 1) <<< (8 * o)
  (g &&& ~~~m) ||| ((v.setWidth 128 <<< (8 * o)) &&& m)

def Bank.granule (b : Bank) (g : Nat) : Granule := b.data.get 0 g
def Bank.setGranule (b : Bank) (g : Nat) (v : Granule) : Bank := { b with data := Sparse.putD 0 b.data g v }
def Bank.isFull (b : Bank) (g : Nat) : Bool := b.full.getLsbD g
def Bank.setFull (b : Bank) (g : Nat) (f : Bool) : Bank := { b with full := putBit b.full g f }
def Bank.isPoison (b : Bank) (g : Nat) : Bool := b.poison.getLsbD g
def Bank.setPoison (b : Bank) (g : Nat) (f : Bool) : Bank := { b with poison := putBit b.poison g f }
/-- All bytes zero, all granules empty, no poison (06 R110, 19 R296). -/
def Bank.zeroed (b : Bank) : Bank := { b with data := [], full := 0, poison := 0 }

/-- Whether an L address lies outside the window (01 R28). -/
def outOfRange (ea : Addr) : Bool := decide (0xC000 ≤ ea.toNat)
def slotOfAddr (ea : Addr) : Nat := (bits ea 12 4).toNat
def offsetOf (ea : Addr) : Nat := (bits ea 0 12).toNat
def granuleOf (ea : Addr) : Nat := (bits ea 4 8).toNat
def byteInGranule (ea : Addr) : Nat := (bits ea 0 4).toNat

/-- The out-of-range record after an L access (01 R21). -/
def Ctx.noteRange (y : Ctx) (ea : Addr) : Ctx :=
  if outOfRange ea && !y.oorf then { y with oorf := true, oora := ea } else y

/-- A context whose core flows with it (10 R199). -/
def Ctx.flowing (y : Ctx) : Bool := y.flag stFLW

/-- Which bank an in-range L address reaches, by the state of its slot (01 R28); nothing blocks in a flow
phase (05 R89). -/
def State.lBank (s : State) (k : Nat) (flw : Bool) (ea : Addr) : Got Nat :=
  let sl := s.slot k (slotOfAddr ea)
  match sl.state with
  | .attached => .ok sl.bank
  | .empty => .bad causeDetached ea
  | .transit => .bad causeDetached ea
  | .armed => if flw then .bad causeDetached ea else .wait (.poll 0)
  | .absent => if flw then .bad causeDetached ea else .wait (.bankMiss (slotOfAddr ea))

/-- A read of `z` bytes of L space (01 R28, 05 R87): 0 out of range. -/
def State.lRead (s : State) (k : Nat) (flw : Bool) (ea : Addr) (z : Nat) : Got Word :=
  if outOfRange ea then .ok 0
  else
    match s.lBank k flw ea with
    | .ok b =>
      let bk := s.bank (clusOf k) b
      if bk.isPoison (granuleOf ea) then .bad causeEccunc ea
      else .ok (granuleRead (bk.granule (granuleOf ea)) (byteInGranule ea) z)
    | .bad c a => .bad c a
    | .wait p => .wait p

/-- A write of `z` bytes of L space: dropped out of range; a store into a poisoned granule faults
(01 R28, 05 R87, 19 R296). -/
def State.lWrite (s : State) (k : Nat) (flw : Bool) (ea : Addr) (z : Nat) (v : Word) : Got State :=
  if outOfRange ea then .ok s
  else
    match s.lBank k flw ea with
    | .ok b =>
      let bk := s.bank (clusOf k) b
      if bk.isPoison (granuleOf ea) then .bad causeEccunc ea
      else .ok (s.setBank (clusOf k) b (bk.setGranule (granuleOf ea)
        (granuleWrite (bk.granule (granuleOf ea)) (byteInGranule ea) z v)))
    | .bad c a => .bad c a
    | .wait p => .wait p

/-! ### C memory -/

/-- Whether a bank is held ATTACHED with OPEN set by a core that no task of another virtual device than `v` holds
(05 R91). -/
def State.openFor (s : State) (cl b v : Nat) : Bool :=
  match (s.bank cl b).state with
  | .held h n =>
    let sl := s.slot h n
    decide (sl.state = .attached) && decide (sl.bank = b) && sl.opened && ((s.core h).task.all fun t => decide (t.vdev = v))
  | _ => false

/-- A core that flows with its control context: C accesses to its banks are held (10 R199). -/
def State.coreFlows (s : State) (k : Nat) : Bool :=
  match (s.core k).flow with
  | some f => f.opened
  | none => false

/-- Which bank a C address reaches (05 R91). -/
def State.cBank (s : State) (k : Nat) (v : Nat) (ea : Addr) : Got Nat :=
  let b := ea.toNat / 4096
  if 0x300000 ≤ ea.toNat then .bad causeCspace ea
  else if s.openFor (clusOf k) b v then
    match (s.bank (clusOf k) b).state with
    | .held h _ => if s.coreFlows h then .wait .held else .ok b
    | _ => .bad causeCspace ea
  else .bad causeCspace ea

def State.cRead (s : State) (k v : Nat) (ea : Addr) (z : Nat) : Got Word :=
  match s.cBank k v ea with
  | .ok b =>
    let bk := s.bank (clusOf k) b
    if bk.isPoison (granuleOf ea) then .bad causeEccunc ea
    else .ok (granuleRead (bk.granule (granuleOf ea)) (byteInGranule ea) z)
  | .bad c a => .bad c a
  | .wait p => .wait p

def State.cWrite (s : State) (k v : Nat) (ea : Addr) (z : Nat) (x : Word) : Got State :=
  match s.cBank k v ea with
  | .ok b =>
    let bk := s.bank (clusOf k) b
    if bk.isPoison (granuleOf ea) then .bad causeEccunc ea
    else .ok (s.setBank (clusOf k) b (bk.setGranule (granuleOf ea)
      (granuleWrite (bk.granule (granuleOf ea)) (byteInGranule ea) z x)))
  | .bad c a => .bad c a
  | .wait p => .wait p

/-! ### G memory -/

/-- The canonical form of G memory: addresses strictly rising, and no listed 0, which is what an unlisted address
reads as (22 R336). -/
def Memory.wf (m : List Host.Cell) : Bool := Sparse.rising m && m.all fun e => e.2 != 0

/-- A byte of G memory: a line that was never written reads 0 (22 R336). -/
def Memory.read (m : List Host.Cell) (a : Nat) : Byte := Sparse.get m 0 a
def Memory.write (m : List Host.Cell) (a : Nat) (x : Byte) : List Host.Cell := Sparse.putD 0 m a x

/-- Little-endian bytes from an address up (00 R2). -/
def Memory.readN (m : List Host.Cell) (a : Nat) : Nat → Nat
  | 0 => 0
  | n + 1 => (Memory.read m a).toNat + 256 * Memory.readN m (a + 1) n

/-- Little-endian bytes of a number written from an address up. -/
def Memory.writeN (m : List Host.Cell) (a : Nat) (v : Nat) : Nat → List Host.Cell
  | 0 => m
  | n + 1 => Memory.writeN (Memory.write m a (BitVec.ofNat 8 v)) (a + 1) (v / 256) n

/-- Tier-1 physical addresses lie `2^48` above their tier's. -/
def tier1Base : Nat := 2 ^ 48
/-- The frame of a physical address: its page number, tier 1 from `2^33` up. -/
def frameOf (pa : Nat) : Nat := pa / 32768
/-- The home slice of a physical address (19 R287). -/
def sliceOf (pa : Nat) : Nat := channelOf (frameOf pa % 2 ^ 33)
def lineOf (pa : Nat) : Nat := pa / 64
def isTier1 (pa : Nat) : Bool := decide (tier1Base ≤ pa)

/-! ### Lines as HBM4E holds them (22 R334, R335) -/

/-- The key of a line: its window's, else its owner's; a name, since no key is ever readable (22 R336, R337). -/
def State.lineKey (s : State) (l : Nat) : Nat :=
  let f := s.frame (l / 512)
  match f.cove.bind fun w => (s.windows.find w).map fun x => (512 + w) * 2 ^ 32 + x.keyGen, f.owner with
  | some k, _ => k
  | none, some v => v * 2 ^ 32 + (s.vdev v).keyGen
  | none, none => 0

/-- The device whose tree holds a line's counters. -/
def State.lineOwner (s : State) (l : Nat) : Nat := ((s.frame (l / 512)).owner).getD 0

def State.counter (s : State) (l : Nat) : Counter := s.counters.get {} (l / 64)

/-- The bytes of a line under the keystream of its counters: the ciphertext of a plain line, and the plain line of a
ciphertext (22 R334). -/
def State.cipher (s : State) (l : Nat) (bs : List Byte) : List Byte :=
  let c := s.counter l
  (List.range 64).map fun i =>
    bs.getD i 0 ^^^ (Config.linePad (s.lineKey l) l c.major (c.minor.get 0 (l % 64)) (i / 16) >>> (8 * (i % 16))).setWidth 8

def State.macOf (s : State) (l : Nat) (bs : List Byte) : BitVec 48 :=
  let c := s.counter l
  Config.lineMac (s.lineKey l) bs l c.major (c.minor.get 0 (l % 64))

/-- The levels of a device's tree in a slice, above its counter lines: eight to a node, enough for every counter line of a
tier-0 or tier-1 frame (DESIGN CHOICE, entry 60). -/
def treeLevels : Nat := 13

/-- The place of a counter line or node: device, level, number. Level 0 is the counter lines. -/
def treeNode (v lev i : Nat) : Nat := (v * 16 + lev) * 2 ^ 40 + i

/-- The counter that a parent holds for a child; the root table's for the topmost node (22 R335). -/
def Slice.parent (x : Slice) (v lev i : Nat) : Word :=
  if lev = treeLevels then x.roots.get 0 v else x.tree.get 0 (treeNode v lev i)

/-- What a counter line or a node holds. -/
def State.treeContent (s : State) (sl v lev i : Nat) : List Word :=
  if lev = 0 then
    let c := s.counters.get {} i
    c.major :: (List.range 64).map fun j => (c.minor.get 0 j).setWidth 64
  else (List.range 8).map fun j => (s.slice sl).parent v (lev - 1) (8 * i + j)

def State.treeMacOf (s : State) (sl v lev i : Nat) : BitVec 48 :=
  Config.treeMac (v * 2 ^ 32 + (s.vdev v).keyGen) (s.treeContent sl v lev i) (treeNode v lev i) ((s.slice sl).parent v lev i)

/-- The counter line and the nodes above a line, by level and number. -/
def treePath (l : Nat) : List (Nat × Nat) := (List.range (treeLevels + 1)).map fun lev => (lev, l / 64 / 8 ^ lev)

/-- Whether no MAC is wrong among those of a line's counter line and of the nodes above it, up to the root (22 R335). -/
def State.pathIntact (s : State) (l : Nat) : Bool :=
  let sl := channelOf (l / 512 % 2 ^ 33)
  let v := s.lineOwner l
  (treePath l).all fun e => ((s.slice sl).macs.find (treeNode v e.1 e.2)).all fun m => decide (m = s.treeMacOf sl v e.1 e.2)

/-- Whether an uncorrectable error lies on a line's counter line or on a node above it (19 R297, 23 R364). -/
def State.pathBad (s : State) (l : Nat) : Bool :=
  let bad := (s.slice (channelOf (l / 512 % 2 ^ 33))).badNodes
  (treePath l).any fun e => bad.contains (treeNode (s.lineOwner l) e.1 e.2)

/-- Whether a line that a slice fills is as it was written back (22 R334, R335). A line that has not been written back is the
slice's own. -/
def State.intact (s : State) (l : Nat) : Bool :=
  match s.stored.find l with
  | none => true
  | some x => decide (x.mac = s.macOf l x.cipher) && s.pathIntact l

/-- The bytes of a line. -/
def State.lineBytes (s : State) (l : Nat) : List Byte := (List.range 64).map fun i => Memory.read s.mem (64 * l + i)

/-- The MACs of the counter line and of the nodes above a line recomputed (22 R334, R335). -/
def State.sealPath (s : State) (l : Nat) : State :=
  let sl := channelOf (l / 512 % 2 ^ 33)
  let v := s.lineOwner l
  (treePath l).foldl (fun s e => s.setSlice sl { s.slice sl with
    macs := (s.slice sl).macs.put (treeNode v e.1 e.2) (s.treeMacOf sl v e.1 e.2) }) s

/-- A line encrypted and MACed under its key and counters. -/
def State.storeLine (s : State) (l : Nat) : State :=
  let c := s.cipher l (s.lineBytes l)
  { s with stored := s.stored.put l { cipher := c, mac := s.macOf l c } }
def State.sealLine (s : State) (l : Nat) : State := (s.storeLine l).sealPath l

/-- The counters of 4 KiB when one of its lines is written back. -/
def Counter.advance (x : Counter) (i : Nat) : Counter :=
  if x.minor.get 0 i = 127 then { major := x.major + 1, minor := [] } else { x with minor := x.minor.put i (x.minor.get 0 i + 1) }

/-- The counter that each parent holds on the way from a line's counter line to the root, one higher. -/
def State.climb (s : State) (l : Nat) : State :=
  let sl := channelOf (l / 512 % 2 ^ 33)
  let v := s.lineOwner l
  let up (x : Slice) (e : Nat × Nat) : Slice :=
    let w := x.parent v e.1 e.2 + 1
    if e.1 = treeLevels then { x with roots := x.roots.put v w } else { x with tree := x.tree.put (treeNode v e.1 e.2) w }
  s.setSlice sl ((treePath l).foldl up (s.slice sl))

/-- A line that a slice has changed is written back: its counters and those of the tree advance, and it is encrypted and MACed
anew; where its minor counter overflows, so are the other lines of its 4 KiB (22 R334, R335). A path that a failure has been
found on is not made good, and the line cannot be read again under a counter that an uncorrectable error has taken. A frame
without an owner has no key and no line that was ever written (22 R336). -/
def State.writeBack (s : State) (line : Nat) : State :=
  let f := s.frame (line / 512)
  if (s.stored.find line).isSome || (f.owner.isNone && f.cove.isNone) then s
  else
    let c := s.counter line
    let again := if c.minor.get 0 (line % 64) = 127 then
      (s.stored.filter fun e => decide (e.1 / 64 = line / 64) && s.intact e.1).map Prod.fst else []
    let s1 := State.climb { s with counters := s.counters.put (line / 64) (c.advance (line % 64)) } line
    let s2 := (line :: again).foldl State.storeLine s1
    let s3 := if s.pathIntact line then s2.sealPath line else s2
    if s.pathBad line then s3.setLine line { s.line line with poison := true } else s3

/-- The counters of the frames of a list start again. -/
def State.freshCounters (s : State) (fs : List Nat) : State :=
  let mine (n : Nat) : Bool := decide (n / 2 ^ 40 % 16 = 0) && fs.contains (n % 2 ^ 40 / 8)
  { s with
    counters := s.counters.filter fun e => !fs.contains (e.1 / 8)
    slices := s.slices.map fun e => (e.1, { e.2 with macs := e.2.macs.filter (fun m => !mine m.1), badNodes := e.2.badNodes.filter fun n => !mine n }) }

/-- The frames of a list re-encrypted, with fresh counters, where a change gives them another key (22 R337, R338). A line that
is not intact stays so. -/
def State.reseal (s : State) (fs : List Nat) (change : State → State) : State :=
  let ls := (s.stored.filter fun e => fs.contains (e.1 / 512) && s.intact e.1).map Prod.fst
  ls.foldl State.sealLine (change (s.freshCounters fs))

/-- What a slice finds on an access of a line, whoever makes it (05 R93, 19 R297, 22 R334, R335, R344). What it must fill it
verifies, and an uncorrectable error on the way up comes before a MAC that does not agree (23 Table 23-6; entry 60). -/
def State.lineCheck (s : State) (pa : Nat) : Option Byte :=
  if (s.stored.find (lineOf pa)).isSome && s.pathBad (lineOf pa) then some causeEccunc
  else if (s.frame (frameOf pa)).lost || !s.intact (lineOf pa) then some causeIntegrity
  else if (s.line (lineOf pa)).poison then some causeEccunc
  else none

/-- What a slice finds on a G access by a virtual device, before it performs it: another device's frame too (22 R336). -/
def State.sliceCheck (s : State) (v : Nat) (pa : Nat) : Option Byte :=
  let f := s.frame (frameOf pa)
  if f.owner.isSome && f.owner != some v then some causeIntegrity else s.lineCheck pa

/-- Why a W access fails where it reaches its slice: no grant, a store under a read grant, or a grant that was revoked on its
way (22 R337, R338). -/
def State.grantFails (s : State) (v pa : Nat) (wr : Bool) : Option Byte :=
  match (((s.frame (frameOf pa)).cove.bind fun w => s.windows.find w).bind fun w => w.holders.find v) with
  | none => some causePagefatal
  | some .revoked => some causeCoveRevoked
  | some .grantedRead => if wr then some causePagefatal else none
  | some .grantedWrite => none

/-- Why an access of G or W space fails at its slice. -/
def State.accessFails (s : State) (w : Bool) (v pa : Nat) (wr : Bool) : Option Byte :=
  if w then (s.grantFails v pa wr).or (s.lineCheck pa) else s.sliceCheck v pa

/-- A frame recorded in the dirty log of its slice, if its device is being migrated (22 R346). -/
def State.noteDirty (s : State) (v : Nat) (pa : Nat) : State :=
  if (s.vdev v).migrating.isSome then
    let sl := s.slice (sliceOf pa)
    let d := sl.dirty.get [] v
    let p := frameOf pa
    if d.contains p then s
    else if d.length < 1024 then s.setSlice (sliceOf pa) { sl with dirty := sl.dirty.put v (d ++ [p]) }
    else s.setSlice (sliceOf pa) { sl with ovf := if sl.ovf.contains v then sl.ovf else v :: sl.ovf }
  else s

/-- A write performed at the home slice: the bytes, the owner of a frame without one (22 R336), the dirty log.
All bytes lie in one line. -/
def State.gStore (s : State) (v : Nat) (pa n x : Nat) : State :=
  let f := s.frame (frameOf pa)
  let s1 := { s with mem := Memory.writeN s.mem pa x n, stored := s.stored.drop (lineOf pa) }
  let s2 := if f.owner.isNone && f.cove.isNone then s1.setFrame (frameOf pa) { f with owner := some v } else s1
  s2.noteDirty v pa

/-! ### Translation -/

/-- 2^15, 2^21 or 2^28 bytes (11 Table 11-4). -/
def pageBytes (size : Nat) : Nat := if size = 0 then 2 ^ 15 else if size = 1 then 2 ^ 21 else 2 ^ 28

/-- Whether an entry covers an address of a virtual device (19 R290). -/
def TlbEntry.covers (e : TlbEntry) (v : Nat) (va : Addr) : Bool :=
  decide (e.vdev = v) && decide (e.vpn * 32768 / pageBytes e.size = va.toNat / pageBytes e.size)

/-- The smallest page's entry for an address (19 R291). -/
def tlbFind (t : List TlbEntry) (v : Nat) (va : Addr) : Option TlbEntry :=
  match t.find? fun e => e.covers v va && decide (e.size = 0) with
  | some e => some e
  | none =>
    match t.find? fun e => e.covers v va && decide (e.size = 1) with
    | some e => some e
    | none => t.find? fun e => e.covers v va

/-- The sizes that match a lookup (19 R291). -/
def tlbSizes (t : List TlbEntry) (v : Nat) (va : Addr) : List Nat :=
  (t.filter fun e => e.covers v va).map TlbEntry.size

/-- An entry written into a TLB: it replaces one of equal device, page and size, else the least recently used goes
(11 R218, 19 R290). A TLB lists what was used last first. -/
def tlbInsert (n : Nat) (t : List TlbEntry) (e : TlbEntry) : List TlbEntry :=
  (e :: t.filter fun x => !(decide (x.vdev = e.vdev) && decide (x.vpn = e.vpn) && decide (x.size = e.size))).take n

/-- The physical address an entry gives (19 R286, 11 Table 11-4). -/
def TlbEntry.paddr (e : TlbEntry) (va : Addr) : Nat :=
  e.ppn * 32768 + va.toNat % pageBytes e.size + (if e.tier1 then tier1Base else 0)

/-- The lookup of a context: its core's TLB, then the cluster's (19 R290). -/
def State.lookup (s : State) (k v : Nat) (va : Addr) : Option TlbEntry :=
  match tlbFind (s.core k).tlb v va with
  | some e => some e
  | none => tlbFind (s.cluster (clusOf k)).tlb v va

/-- The service core told of a lookup that entries of several sizes match (19 R291). -/
def State.shadow (s : State) (cl : Nat) (t : List TlbEntry) (v : Nat) (va : Addr) : State :=
  if 1 < (tlbSizes t v va).length then
    let x := s.cluster cl
    s.setCluster cl { x with shadows := x.shadows ++ [(v, va.toNat, tlbSizes t v va)] }
  else s

/-- A lookup of a cluster TLB: the entry it finds is now the one used last (19 R290, R291). -/
def State.useTlbOf (s : State) (cl v : Nat) (va : Addr) : State :=
  let x := s.cluster cl
  match tlbFind x.tlb v va with
  | some e => (s.setCluster cl { x with tlb := tlbInsert 2048 x.tlb e }).shadow cl x.tlb v va
  | none => s

/-- A lookup of a core's TLB and then of its cluster's, whose entry a hit copies into the core's (19 R290, R291). -/
def State.useTlb (s : State) (k v : Nat) (va : Addr) : State :=
  let x := s.core k
  match tlbFind x.tlb v va with
  | some e => (s.setCore k { x with tlb := tlbInsert 32 x.tlb e }).shadow (clusOf k) x.tlb v va
  | none =>
    match tlbFind (s.cluster (clusOf k)).tlb v va with
    | some e =>
      let s1 := s.useTlbOf (clusOf k) v va
      s1.setCore k { s1.core k with tlb := tlbInsert 32 x.tlb e }
    | none => s

/-- The translation of a data access of a context (19 R290): a physical address, PAGEFATAL for a right the
entry does not give or an unpinned frame (19 R293), or a miss. -/
def State.xlate (s : State) (k c : Nat) (va : Addr) (wr : Bool) : Got Nat :=
  let v := s.vdevOf k c
  if (s.ctx k c).tlbBad then .bad causePagefatal va
  else
    match s.lookup k v va with
    | some e =>
      if wr && !e.wr then .bad causePagefatal va
      else if (s.frame (frameOf (e.paddr va))).pins = 0 then .bad causePagefatal va
      else .ok (e.paddr va)
    | none => .wait (.miss v va wr false)

/-- Results of a page walk (19 R289). -/
inductive Walk where
  | leaf (e : TlbEntry)
  | none
  /-- A malformed entry, reported to the host. -/
  | malformed

/-- Whether every frame of a page is pinned, exists and is no promotion frame or part of a cove window
(19 R286, R289, R293, 22 R337); `need` asks for the pin. -/
def State.framesOk (s : State) (need : Bool) (ppn size : Nat) (tier1 : Bool) : Bool :=
  (List.range (pageBytes size / 32768)).all fun i =>
    let p := ppn + i
    let f := if tier1 then 2 ^ 33 + p else p
    (!need || decide (0 < (s.frame f).pins)) && (s.frame f).cove.isNone &&
      (if tier1 then decide (p < s.t1frames)
       else decide (p < Config.tier0Frames) && decide (p / 1024 < 43008 - (bits s.promo 0 14).toNat))

/-- The field of a table entry. -/
def pteAddr (w : Nat) : Nat := natBits w 0 48

/-- The index of a table entry, and the size of its table, by the levels that remain below it (19 Table 19-4). -/
def walkIndex (levels va : Nat) : Nat :=
  match levels with
  | 3 => natBits va 37 11
  | 2 => natBits va 28 9
  | 1 => natBits va 21 7
  | _ => natBits va 15 6
def walkSize (levels : Nat) : Nat :=
  match levels with
  | 3 => 16384
  | 2 => 4096
  | 1 => 1024
  | _ => 512

/-- The walk from one level down: `levels` remaining, the table's address, and the address to translate
(19 R289, Tables 19-3 and 19-4). A table line that an `LDG` of the device could not read gives no mapping (DESIGN CHOICE,
entry 61). -/
def State.walkGo (s : State) (need : Bool) (v : Nat) (va : Nat) : Nat → Nat → Walk
  | 0, _ => .none
  | levels + 1, table =>
    let idx := walkIndex levels va
    let size := walkSize levels
    let w := Memory.readN s.mem (table + 8 * idx) 8
    let leaf := natBits w 52 1 = 1
    let tier1 := natBits w 48 1 = 1
    if table % size != 0 then .malformed
    else if (s.sliceCheck v (table + 8 * idx)).isSome then .none
    else if natBits w 51 1 = 0 then .none
    else if natBits w 0 6 != 0 || natBits w 53 11 != 0 then .malformed
    else if (levels = 3 && leaf) || (levels = 0 && !leaf) then .malformed
    else if leaf then
      let ppn := pteAddr w / 32768
      let pz := levels
      let e : TlbEntry :=
        { vdev := v, vpn := va / pageBytes pz * (pageBytes pz / 32768), size := pz, ppn := ppn, tier1 := tier1,
          wr := natBits w 49 1 = 1, ex := natBits w 50 1 = 1 }
      if natBits w 6 9 != 0 || (ppn * 32768) % pageBytes pz != 0 then .malformed
      else if s.framesOk need ppn pz tier1 then .leaf e else .none
    else if tier1 then .malformed
    else s.walkGo need v va levels (pteAddr w)

/-- The walk of a virtual device's tables (19 R289). -/
def State.walk (s : State) (v : Nat) (va : Addr) : Walk := s.walkGo true v va.toNat 4 (addrOf (s.vdev v).ptroot).toNat

/-- The mapping of an address, pinned or not, as `PIN` and `UNPIN` find it (19 R293). -/
def State.mapping (s : State) (v : Nat) (va : Addr) : Option TlbEntry :=
  match s.walkGo false v va.toNat 4 (addrOf (s.vdev v).ptroot).toNat with
  | .leaf e => some e
  | _ => none

/-- A translation by the cluster TLB and the walk, as copies, reductions, `SPAWN`, streams and the host use it
(19 R290, 24 R385). -/
def State.xlateWalk (s : State) (v : Nat) (va : Addr) (wr : Bool) : Option Nat :=
  match s.walk v va with
  | .leaf e => if wr && !e.wr then none else some (e.paddr va)
  | _ => none

/-- A translation by a cluster's TLB, else by the walk. -/
def State.xlateCluster (s : State) (cl v : Nat) (va : Addr) (wr : Bool) : Option Nat :=
  match tlbFind (s.cluster cl).tlb v va with
  | some e =>
    if (wr && !e.wr) || (s.frame (frameOf (e.paddr va))).pins = 0 then none else some (e.paddr va)
  | none => s.xlateWalk v va wr

/-- A counter of a virtual device's event advances (22 R331, Table 22-4). -/
def State.count (s : State) (v : Nat) (event n : Nat) : State :=
  let x := s.vdev v
  let hit := fun (j : Fin 8) => decide ((bits x.vcntsel (4 * j.val) 4).toNat = event)
  if (List.finRange 8).any hit then
    s.setVdev v { x with vcnt := Vector.ofFn fun j => if hit j then x.vcnt.get j + BitVec.ofNat 64 n else x.vcnt.get j }
  else s

/-- A sample of a latency monitor (22 R333). -/
def State.sample (s : State) (v : Nat) (measure : Nat) : State :=
  s.setVdev v { s.vdev v with samples := (s.vdev v).samples ||| BitVec.twoPow 4 measure }

/-! ### Traps -/

/-- A helper's state as the migration message carries it (01 R14), with the operand log it has used where it ran,
put back into the record its home kept (10 R193). -/
def Ctx.mergeMessage (home guest : Ctx) : Ctx :=
  { home with
    pc := guest.pc, a := guest.a, p := guest.p, lc0 := guest.lc0, lc1 := guest.lc1, st := guest.st,
    latches := home.latches ||| guest.latches, log := guest.log, rv := guest.rv, owed := guest.owed, oorf := guest.oorf,
    oora := guest.oora, away := none, hold := none, tlbBad := false, live := true }

/-- The stores under way of one context named as another's: its context has moved. -/
def State.renameStores (s : State) (k c h n : Nat) : State :=
  { s with
    packets := s.packets.map fun e =>
      match e.2.payload with
      | .store k1 c1 i => if k1 = k ∧ c1 = c then (e.1, { e.2 with payload := .store h n i }) else e
      | .ack k1 c1 i => if k1 = k ∧ c1 = c then (e.1, { e.2 with payload := .ack h n i }) else e
      | _ => e
    cores := s.cores.map fun e => (e.1, { e.2 with inbox := e.2.inbox.map fun p =>
      match p.payload with
      | .ack k1 c1 i => if k1 = k ∧ c1 = c then { p with payload := .ack h n i } else p
      | _ => p })
    slices := s.slices.map fun e =>
      (e.1, { e.2 with taken := e.2.taken.map fun t =>
        if t.core = k ∧ t.ctx = c ∧ t.lone.isNone then { t with core := h, ctx := n } else t })
    through := s.through.map fun t => if t.core = k ∧ t.who = .ctx c then { t with core := h, who := .ctx n } else t }

/-- A guest returned to its task's core (10 R193): where it then stands. -/
def State.bringHome (s : State) (k c : Nat) : State × Nat × Nat :=
  match (s.ctx k c).guest with
  | some (h, n) =>
    let g := s.ctx k c
    let s1 := (s.renameStores k c h n).setCtx k c (ctxInit k)
    (s1.setCtx h n ((s1.ctx h n).mergeMessage g), h, n)
  | none => (s, k, c)

/-- A granule that a member latched in the c-cycle of a fault is undefined (10 R203). -/
def State.spoilLatched (s : State) (k : Nat) : State :=
  match (s.core k).flow.bind Flow.latched with
  | some (b, g) =>
    let s1 := s.setBank (clusOf k) b ((s.bank (clusOf k) b).setGranule g (Config.freeGranule s.fresh))
    { s1 with fresh := s.fresh + 1 }
  | none => s

/-- The end of a flow phase on a core by a fault (10 R203): ST.FLW clears, the fault is reported to the group, and
what the other members latched in the same c-cycle is undefined. -/
def State.flowFault (s : State) (k : Nat) (cause : Byte) : State :=
  let x := s.core k
  match x.flow, s.partOf k with
  | some f, some p =>
    let y := x.ctx k 0
    let g := (s.part p).group f.group
    let others := match g.phase with
      | some r => r.going.filter (· != k)
      | none => []
    let ph := g.phase.map fun r =>
      { r with going := others, faults := r.faults ++ [(x.flowcyc.toNat, clusOf k, clocOf k, cause)] }
    let s1 := s.setCore k ({ x with flow := none, sel := none }.setCtx 0 (y.setFlag stFLW false))
    let s2 := s1.setPart p ((s1.part p).setGroup f.group { g with phase := ph })
    others.foldl (fun s m => s.spoilLatched m) s2
  | _, _ => s

/-- The address of the trap frame (11 R208): the context's own region, or P6 when a handler runs. -/
def frameAddr (c : Nat) (y : Ctx) : Nat := if y.flag stTRP then (addrOf (y.ptr 6)).toNat else c * 0x170

/-- The stop of a core by `DOUBLE` (11 R209). -/
def State.double (s : State) (k c : Nat) (first : Byte) (tpc : Addr) (addr val : Word) : State :=
  let y := s.ctx k c
  let s1 := s.setCtx k c
    { y with tpc := tpc.setWidth 64, tcause := (causeDouble.setWidth 64) ||| (first.setWidth 64 <<< 8),
             taddr := addr, tval := val, hold := none }
  let s2 := s1.setCore k { s1.core k with stop := .double, doubleAt := s.cyc.toNat, doubleReleased := false }
  { s2 with host := s2.host ++ [.double k] }

/-- The four frame writes (11 R208), in order, up to the first that faults: its address and cause. -/
def State.frameWrites (s : State) (k : Nat) : List (Nat × Word) → State × Option (Addr × Byte)
  | [] => (s, none)
  | (ea, v) :: t =>
    match s.lWrite k false (BitVec.ofNat 48 ea) 8 v with
    | .ok s1 => s1.frameWrites k t
    | .bad c a => (s, some (a, c))
    | .wait _ => (s, some (BitVec.ofNat 48 ea, causeDetached))

/-- The trap record written (11 R208, R210). -/
def Ctx.record (y : Ctx) (r : Rec) : Ctx :=
  { y with
    tpc := r.tpc.setWidth 64, tcause := (r.cause.setWidth 64) ||| (if r.late then 0x10000 else 0),
    taddr := r.addr, tval := r.val, hold := none, causeRead := false, tlbBad := false, codeBad := none }

/-- The handler entered (11 R208): P6 is the stack pointer, ST.TRP is set, the PC is `TVEC`. -/
def Ctx.enter (y : Ctx) (f : Nat) (tvec : Word) : Ctx :=
  { (y.setPtr 6 (BitVec.ofNat 64 (0x0008000000000000 + (f + 32)))).setFlag stTRP true with pc := addrOf tvec }

/-- A context takes a trap (11 R208, R209). A guest helper first returns to its task's core (10 R193); a trap in
a flow phase ends the phase (10 R203). -/
def State.takeTrap (s : State) (k0 c0 : Nat) (r : Rec) : State :=
  let h := s.bringHome k0 c0
  let k := h.2.1
  let c := h.2.2
  let s0 := if (h.1.ctx k c).flag stFLW then h.1.flowFault k r.cause else h.1
  let y := s0.ctx k c
  if y.flag stTRP && !y.causeRead then
    s0.double k c (bits y.tcause 0 8) r.tpc r.addr r.val
  else
    let f := frameAddr c y
    let s1 := s0.setCtx k c (y.record r)
    if f % 8 != 0 || 0x1000 < f + 32 then
      s1.double k c r.cause r.tpc (BitVec.ofNat 64 f) 0
    else
      match s1.frameWrites k [(f, y.a), (f + 8, y.st), (f + 16, y.ptr 6), (f + 24, y.ptr 7)] with
      | (s2, none) => s2.setCtx k c ((s2.ctx k c).enter f (s2.core k).tvec)
      | (s2, some (a, cause)) => s2.double k c r.cause r.tpc (a.setWidth 64) (cause.setWidth 64)

/-- The outcome of an instruction: the next state, the trap taken, or the context held. The bound of a wait
counts from the first issue (05 R100). -/
def finish (i : Instr) (a : Act) : Out :=
  match a with
  | .done s => .next s
  | .trap r s => .next (s.takeTrap s.k s.c r)
  | .wait p s =>
    let y := s.me
    let since := match y.hold with
      | some h => if h.instr = i then h.since else s.cyc.toNat
      | none => s.cyc.toNat
    .next (s.setMe { y with hold := some { instr := i, since := since, phase := p } })

/-- A precise trap of the current instruction with the word in `TVAL` (11 Table 11-2). -/
def State.fault (s : State) (i : Instr) (cause : Byte) (addr : Word) : Act :=
  .trap { tpc := s.me.pc, cause := cause, addr := addr, val := wordOf i } s

/-- Where an instruction may execute (02 R48, items 3 and 4). -/
structure Adm where
  priv : Bool := false
  /-- In a flow phase; in a helper; in a migratable helper; in a redundant task. -/
  flow : Bool := false
  helper : Bool := true
  mig : Bool := true
  twin : Bool := true
  /-- Only in a flow phase. -/
  flowOnly : Bool := false

/-- The fault of an instruction that may not execute where it stands (02 R48, 01 R14, 10 R187, 23 R361). -/
def State.bars (s : State) (m : Adm) : Option Byte :=
  let y := s.me
  if m.priv && !y.flag stSUP then some causePriv
  else if y.flag stFLW && !m.flow then some causeIllctx
  else if y.flag stMIG && !m.mig then some causeMigspace
  else if y.flag stHLP && !m.helper then some causeIllctx
  else if m.flowOnly && !y.flag stFLW then some causeIllctx
  else if !m.twin && ((s.taskOf s.k s.c).bind Task.twin).isSome then some causeIllctx
  else none

/-- The instruction's own address, as `TADDR` of most faults (11 Table 11-2). -/
def State.here (s : State) : Word := s.me.pc.setWidth 64

/-- An instruction: its admission, with `addr` as `TADDR` of the fault, then its effect. An access abandoned by
the release of its bank faults instead (06 R112). -/
def run (i : Instr) (m : Adm) (addr : Word) (s : State) (body : State → Act) : Out :=
  match s.bars m with
  | some c => finish i (s.fault i c addr)
  | none =>
    match s.me.hold with
    | some { phase := .abandoned c a, .. } => finish i (s.fault i c (a.setWidth 64))
    | _ => finish i (body s)

/-- An instruction that only changes its context's registers and goes on to the next one. -/
def State.retire (s : State) (y : Ctx) : Act := .done (s.setMe y.advance)

/-- The phase of a context that holds. -/
def Ctx.phase (y : Ctx) : Option Phase := y.hold.map Hold.phase
def Ctx.setPhase (y : Ctx) (p : Phase) : Ctx := { y with hold := y.hold.map fun h => { h with phase := p } }

/-- Whether the bound of a wait that began at `since` has run out at `cyc` (05 R100). -/
def Ctx.late (y : Ctx) (since cyc : Nat) : Bool := decide (0 < y.bound) && decide (since + y.bound ≤ cyc)

/-- Whether a wait has ended by its bound (05 R100, 10 R199). What a wait is for ends it where it takes place, so a wait
that still polls has not had its event. -/
def State.timedOut (s : State) : Bool :=
  let y := s.me
  match y.hold with
  | some { since := t, phase := .poll _, .. } => y.late t s.cyc.toNat
  | some { phase := .expired, .. } => true
  | _ => false

/-- A wait bounded by ST.BTO, which faults with TIMEOUT on expiry (05 R100, 06 R115). -/
def State.block (s : State) (i : Instr) (addr : Word) : Act :=
  if s.timedOut then s.fault i causeTimeout addr else .wait (.poll addr) s

/-- The access result of an instruction: go on with the value, fault, or hold. Only an ARMED slot and an empty
granule are bounded (05 R100, 19 R386); `ea` is then the address of the TIMEOUT. -/
def Got.elim {α : Type} (g : Got α) (s : State) (i : Instr) (ea : Word) (body : α → Act) : Act :=
  match g with
  | .ok x => body x
  | .bad c a => s.fault i c (a.setWidth 64)
  | .wait (.poll _) => s.block i ea
  | .wait p => .wait p s

/-! ### Event latches and RV -/

/-- Latches set in a context. A `WAITE` that waits for one of them has its event, unless its bound ran out before
(11 R215, 10 R199). -/
def Ctx.latch (y : Ctx) (b : BitVec 4) (cyc : Nat) : Ctx :=
  let y1 := { y with latches := y.latches ||| b }
  match y.hold with
  | some { instr := .waite m, since := t, phase := .poll _ } =>
    if b &&& m = 0 then y1 else if y.late t cyc then y1.setPhase .expired else y1.setPhase .woken
  | _ => y1

/-- Latches set in every context of a core: its own, and its helpers that are away by message (11 R215). -/
def Core.latch (x : Core) (b : BitVec 4) (cyc : Nat) : Core :=
  { x with ctxs := x.ctxs.map fun e => if e.2.guest.isSome then e else (e.1, e.2.latch b cyc) }

def State.latchCore (s : State) (k : Nat) (b : BitVec 4) : State := s.setCore k ((s.core k).latch b s.cyc.toNat)

/-- A granule of a held bank was set full by a write that counts: the latch of the holder's core (11 R215). -/
def State.latchBank (s : State) (cl b : Nat) : State :=
  match (s.bank cl b).state with
  | .held h _ => s.latchCore h 2
  | _ => s

/-! ### The operand log -/

/-- The lowest free entry (01 R22). -/
def freeEntry (y : Ctx) : Option (Fin 8) := (List.finRange 8).find? fun e => decide ((y.log.get e).state = .free)

/-- The lowest failed entry (05 R98). -/
def failedEntry (y : Ctx) : Option (Fin 8) := (List.finRange 8).find? fun e => decide ((y.log.get e).state = .failed)

/-- Whether an entry's store is still under way: it reads as posted (01 Table 1-5). -/
def LogEntry.busy (e : LogEntry) : Bool := decide (e.state ≠ .free) && decide (e.state ≠ .failed)

/-- A store of the context under way to a 64-byte line of a space (05 R93, R94). -/
def Ctx.postedTo (y : Ctx) (space : Bool) (a : Addr) : Bool :=
  y.log.toList.any fun e => e.busy && (e.space == space) && decide (e.addr.toNat / 64 = a.toNat / 64)

/-- Any store of the context under way. -/
def Ctx.anyPosted (y : Ctx) : Bool := y.log.toList.any LogEntry.busy

/-- An `.ar` store or a W store not yet complete at its scope: no later G or W access issues (05 R95, R97). -/
def State.fenced (s : State) (k c : Nat) : Bool :=
  ((s.ctx k c).log.toList.any fun e => e.busy && e.ar) ||
    s.through.any fun t => decide (t.core = k) && decide (t.who = .ctx c) && t.fence

/-- Tier-1 lines that a context's accesses, or those it has waited for, have written and that are not yet written
through (05 R96, 12 R233). -/
def State.behind (s : State) (k c : Nat) : Bool := s.through.any fun t => decide (t.core = k) && decide (t.who = .ctx c)

/-- Whether what a release waits for is complete at a scope: the context's stores, and at SYS its tier-1 lines
written through (05 R95, R96). A failed store is no store under way: in a handler, which takes no report, an `LDG.ar`, an
`AMOG` or a W load goes on past it, while a store that is a release stays held behind it (DESIGN CHOICE, entry 54). -/
def State.releasable (s : State) (k c : Nat) (sc : Scope) : Bool :=
  !(s.ctx k c).anyPosted && (decide (sc ≠ .sys) || !s.behind k c)

def Ctx.setLog (y : Ctx) (e : Fin 8) (x : LogEntry) : Ctx := { y with log := y.log.set e.val x e.isLt }

/-- A tier-1 line written and not yet written through (05 R96). -/
def State.noteThrough (s : State) (k : Nat) (who : Maker) (pa : Nat) (fence : Bool) : State :=
  if isTier1 pa then { s with through := s.through ++ [{ line := lineOf pa, core := k, who := who, fence := fence }] } else s

/-- The lines of the commands that a context has waited for count as its own (12 R233). -/
def State.takeThrough (s : State) (k c target : Nat) : State :=
  { s with through := s.through ++ s.through.filterMap fun t =>
      match t.who with
      | .copy n => if t.core = k ∧ n < target then some { t with who := .ctx c } else none
      | .ctx _ => none }

/-- A tier-1 line that is not yet written through: an acquire at SYS waits for it (05 R96). -/
def State.lineBehind (s : State) (pa : Nat) : Bool := isTier1 pa && s.through.any fun t => decide (t.line = lineOf pa)

/-! ### The late-fault trap (05 R98) -/

/-- Whether a context may take a late fault where it stands: an access or command already sent completes first, and so does
the fault of an access that was abandoned before the report came (DESIGN CHOICE, entry 64). -/
def Ctx.mayLate (y : Ctx) : Bool :=
  match y.hold with
  | none => true
  | some h =>
    match h.phase with
    | .poll _ => true
    | .held => true
    | .miss _ _ _ _ => true
    | .bankMiss _ => true
    | .engineMiss => true
    | .expired => true
    | .woken => true
    | .slotCame _ => true
    | .until _ => true
    | .hovDrain => true
    | .draining => (match h.instr with
      | .hkill _ => false
      | _ => true)
    | .abandoned _ _ => false
    | .verdict _ => false
    | .hovSent => false
    | .hovBack _ => false
    | .release _ => false
    | .zeroing _ => false
    | .arrived _ _ => false
    | .closing => false
    | .stopping => false
    | .revoking _ => false
    | .twin _ _ => false
    | .twinGo _ => false
    | .asked _ => false
    | .answered _ _ => false

/-- The failed entry that a context reports before it issues: none in a handler or a flow phase. -/
def Ctx.lateEntry (y : Ctx) : Option (Fin 8) :=
  if y.live && !y.flag stTRP && !y.flag stFLW && y.mayLate then failedEntry y else none

/-- The record of the late fault of an entry (05 R98). -/
def Ctx.lateRec (y : Ctx) (e : Fin 8) : Rec :=
  let x := y.log.get e
  { tpc := y.pc, cause := x.cause, addr := x.addr.setWidth 64, val := BitVec.ofNat 64 e.val, late := true }

/-! ### Packets -/

def seqGet (m : List ((Node × Node × PClass) × Nat)) (x : Node × Node × PClass) : Nat :=
  ((m.find? fun e => decide (e.1 = x)).map (·.2)).getD 0
def seqPut (m : List ((Node × Node × PClass) × Nat)) (x : Node × Node × PClass) (n : Nat) :
    List ((Node × Node × PClass) × Nat) := (x, n) :: m.filter fun e => !decide (e.1 = x)

/-- A packet counted by the core that sends it first, and by the core that accepts it (21 R315). -/
def State.countTx (s : State) : Node → State
  | .core k => s.setCore k { s.core k with tx := (s.core k).tx + 1 }
  | _ => s
def State.countRx (s : State) : Node → State
  | .core k => s.setCore k { s.core k with rx := (s.core k).rx + 1 }
  | _ => s

/-- A route-table entry of a cluster for a destination cluster: its boot value where firmware has not written it
(21 Table 21-2). -/
def Cluster.route (x : Cluster) (own dst : Nat) : Word := x.routes.get (BitVec.ofNat 64 (own + dst * 2 ^ 14)) dst

/-- The clusters from `a` to `b` along one coordinate, both ends among them. -/
def stretch (a b : Nat) : List Nat := (List.range (absDiff a b + 1)).map fun i => if a ≤ b then a + i else a - i

/-- The distance of two clusters (21 R317). -/
def clusDist (a b : Nat) : Nat := absDiff (a % 128) (b % 128) + absDiff (a / 128) (b / 128)

/-- The elevators on a dimension-order leg, row first (21 R317). -/
def legPath (a b : Nat) : List Nat :=
  ((stretch (a % 128) (b % 128)).map fun c => a / 128 * 128 + c) ++ (stretch (a / 128) (b / 128)).map fun r => r * 128 + b % 128

/-- The elevator that an entry's path enters, and those that it goes on to: none for `LOCAL` (21 R317, Table 21-2). -/
def routeEnter (w : Word) : Option Nat := if getBit w 43 then none else some (bits w 0 14).toNat
def routeLegs (w : Word) : List Nat :=
  if getBit w 43 then [] else if getBit w 42 then [(bits w 28 14).toNat, (bits w 14 14).toNat] else [(bits w 14 14).toNat]

/-- The elevators of a path from one on. -/
def legsPath (a : Nat) : List Nat → List Nat
  | [] => [a]
  | b :: t => legPath a b ++ legsPath b t

/-- The elevators that an entry's path passes. -/
def routePath (w : Word) : List Nat :=
  match routeEnter w with
  | some e => legsPath e (routeLegs w)
  | none => []

/-- The router of a quad's column and row, of a cluster's elevator and service core, and the cluster of a router
(21 R310). -/
def routerAt (qc qr : Nat) : Nat := qr * 512 + qc
def clusterRouter (cl : Nat) : Nat := routerAt (4 * (cl % 128) + 1) (4 * (cl / 128) + 1)
def routerCluster (r : Nat) : Nat := r / 512 / 4 * 128 + r % 512 / 4

/-- The router to which an endpoint attaches (21 R310). A copy engine attaches where its cluster's service core does; the 16
Trarum ports of an edge, and its 32 command processors, are spread evenly over its column (DESIGN CHOICE, entry 59). -/
def nodeRouter : Node → Nat
  | .core k => if k < sites then routerAt (colOf k / 2) (rowOf k / 2) else clusterRouter (clusOf k)
  | .slice sl => routerAt (sl % 512) (if sl < 512 then 0 else 319)
  | .copyEngine cl => clusterRouter cl
  | .processor p => routerAt (if p < 32 then 0 else 511) (10 * (p % 32) + 5)
  | .port p => routerAt (if p < 16 then 0 else 511) (20 * (p % 16) + 10)

/-- The cluster of an endpoint (21 R317). -/
def nodeCluster (n : Node) : Nat := routerCluster (nodeRouter n)

/-- The route-table entry that a packet uses, where it is not to stay on the routed mesh (21 R317). -/
def State.entryOf (s : State) (src dst : Node) : Option Word :=
  let a := nodeCluster src
  let b := nodeCluster dst
  if clusDist a b ≤ 4 then none else some ((s.cluster a).route a b)

/-- The elevators that a packet's way passes (21 R317). -/
def State.wayPath (s : State) (src dst : Node) : List Nat := ((s.entryOf src dst).map routePath).getD []

/-- Whether an elevator takes packets (21 R319). -/
def State.lifts (s : State) (cl : Nat) : Bool := decide ((s.cluster cl).elevator = .good)

/-- Whether a way meets no elevator that is closing or retired (21 R319). -/
def State.wayOpen (s : State) (src dst : Node) : Bool :=
  (s.clusters.all fun e => decide (e.2.elevator = .good)) || (s.wayPath src dst).all s.lifts

/-- Whether a packet can cross the mesh in the step that sends it: the turn does not send packets over the links one by
one, and none stands in a buffer of the mesh (entry 32). -/
def State.meshIdle (s : State) : Bool :=
  !s.travel && s.packets.all fun e => match e.2.place with
    | .router _ _ => false
    | .elevator _ _ => false
    | _ => true

/-- Whether no packet of a source, destination and class is on its way. -/
def State.settled (s : State) (src dst : Node) (c : PClass) : Bool :=
  decide (seqGet s.seqOut (src, dst, c) = seqGet s.seqIn (src, dst, c))

/-- A source has at most 64 packets undelivered to one destination in one class (21 R314). -/
def State.windowOpen (s : State) (src dst : Node) (c : PClass) : Bool :=
  decide (seqGet s.seqOut (src, dst, c) < seqGet s.seqIn (src, dst, c) + 64)

/-- Whether packets cross at once from a source to a destination and back, in one class each. -/
def State.bothWays (s : State) (src dst : Node) (c back : PClass) : Bool :=
  s.meshIdle && s.wayOpen src dst && s.wayOpen dst src && s.settled src dst c && s.settled dst src back

/-- Whether a source holds no packet of a destination and class: it sends those first (21 R315). -/
def State.sourceEmpty (s : State) (src dst : Node) (c : PClass) : Bool :=
  s.packets.all fun e => !(decide (e.2.place = .source) && decide (e.2.src = src) && decide (e.2.dst = dst) && decide (e.2.cls = c))

/-- Where a packet stands that a source sends now: at its destination, across an idle mesh, or still with its source. -/
def State.sentTo (s : State) (src dst : Node) (c : PClass) : Place :=
  if s.meshIdle && s.windowOpen src dst c && s.wayOpen src dst && s.sourceEmpty src dst c then .there else .source

/-- A packet injected with its sequence number (21 R314); a core counts it (21 R315). -/
def State.inject (s : State) (x : Packet) : State :=
  let key := (x.src, x.dst, x.cls)
  let n := seqGet s.seqOut key
  State.countTx { s with
    packets := s.packets.put s.packetSeq { x with seq := n, since := s.cyc.toNat, place := s.sentTo x.src x.dst x.cls }
    packetSeq := s.packetSeq + 1
    seqOut := seqPut s.seqOut key (n + 1) } x.src

/-- Packets of a class that cross an idle mesh in the step that sends them are numbered, counted and gone; else one travels, while
what it brings is done (21 R309, R314, R315; entry 32). -/
def State.pass (s : State) (src dst : Node) (c : PClass) : State :=
  let key := (src, dst, c)
  if s.meshIdle && s.wayOpen src dst && s.settled src dst c then
    State.countRx (State.countTx { s with
      seqOut := seqPut s.seqOut key (seqGet s.seqOut key + 1), seqIn := seqPut s.seqIn key (seqGet s.seqIn key + 1) } src) dst
  else s.inject { src := src, dst := dst, cls := c, seq := 0, level := 2, payload := .plain }

/-- A request that crosses an idle mesh, and its response, of a core and of its twin (23 R362). -/
def State.exchange (s : State) (ks : List Nat) (n : Node) (c back : PClass) : State :=
  ks.foldl (fun s k => (s.pass (.core k) n c).pass n (.core k) back) s

/-- A request of an endpoint that is no core, and its response. -/
def State.asks (s : State) (n m : Node) (c back : PClass) : State := (s.pass n m c).pass m n back

/-- Whether what two endpoints send each other in a class comes before nothing that is on its way (21 R314). -/
def State.quiet (s : State) (a b : Node) (c back : PClass) : Bool := s.settled a b c && s.settled b a back

/-- The table entries that a walk reads, in order (19 R289). -/
def State.walkReads (s : State) (v va : Nat) : Nat → Nat → List Nat
  | 0, _ => []
  | levels + 1, table =>
    let a := table + 8 * walkIndex levels va
    let w := Memory.readN s.mem a 8
    if table % walkSize levels != 0 then []
    else if (s.sliceCheck v a).isSome || natBits w 51 2 != 1 then [a]
    else a :: s.walkReads v va levels (pteAddr w)

/-- A walk by a service core or a command processor: it is counted, its table reads travel, and a malformed table is told to the
host (19 R289, 21 R309, 22 R331). -/
def State.walked (s : State) (by_ : Node) (v : Nat) (va : Addr) : State :=
  let s1 := (s.walkReads v va.toNat 4 (addrOf (s.vdev v).ptroot).toNat).foldl
    (fun s a => s.asks by_ (.slice (sliceOf a)) .req .rsp) (s.count v 8 1)
  match s.walk v va with
  | .malformed => { s1 with host := s1.host ++ [.badEntry v va] }
  | _ => s1

/-- What a translation of `xlateCluster` leaves: the lookup, and after a walk, for which the engine asks the service core, the
entry in the cluster's TLB (19 R290, 21 R309). -/
def State.useCluster (s : State) (cl v : Nat) (va : Addr) : State :=
  if (tlbFind (s.cluster cl).tlb v va).isSome then s.useTlbOf cl v va
  else
    let sv : Node := .core (serviceOf cl)
    let s1 := (s.asks (.copyEngine cl) sv .ctrl .ctrl).walked sv v va
    match s.walk v va with
    | .leaf e => s1.setCluster cl { s1.cluster cl with tlb := tlbInsert 2048 (s1.cluster cl).tlb e }
    | _ => s1

/-- The command processor of a device: that of its first stream (18 R387). -/
def State.deviceNode (s : State) (v : Nat) : Node := .processor (((s.vdev v).streams.map fun t => t.2.proc).headD 0)

/-- Whether a packet at its destination is the next of its source and class (21 R314). -/
def State.due (s : State) (p : Packet) : Bool :=
  p.checked && decide (p.state = .flying) && decide (p.place = .there) && decide (seqGet s.seqIn (p.src, p.dst, p.cls) = p.seq)

/-- A packet leaves the network at its destination (21 R314). -/
def State.arrived (s : State) (id : Nat) (p : Packet) : State :=
  { s with packets := s.packets.drop id, seqIn := seqPut s.seqIn (p.src, p.dst, p.cls) (p.seq + 1) }

/-- The 64-bit hash a secondary twin sends for a packet (23 R362). -/
def twinHash (bs : List Byte) : BitVec 64 := BitVec.ofNat 64 (leNat ((shake256 bs).take 8))

/-- A log entry of a context, by its number. -/
def State.logEntry (s : State) (k c e : Nat) : LogEntry := (s.ctx k c).log.toList.getD e {}

/-- The physical address that a taken packet reaches. -/
def State.takenPa (s : State) (t : Taken) : Nat :=
  match t.ask, t.lone with
  | some r, _ => r.pa
  | none, some x => x.2.pa
  | none, none => (s.logEntry t.core t.ctx t.entry).pa

/-- Whether a slice has taken a packet for a line and not served it: what comes to the line later waits (21 R324). -/
def State.lineTaken (s : State) (pa : Nat) : Bool :=
  (s.slice (sliceOf pa)).taken.any fun t => decide (lineOf (s.takenPa t) = lineOf pa)

/-- Whether an access may be performed now at the home slice of an address: the page does not move (19 R295), and nothing that
the slice has taken for the line comes before it (21 R324). -/
def State.sliceFree (s : State) (pa : Nat) : Bool := !(s.frame (frameOf pa)).moving && !s.lineTaken pa

/-- The owner of the tier-1 lines that no context and no copy has written. -/
def nobody : Nat := sites + clusterCount

/-- A piece of one line written at its slice by a command processor, a service core, the end of a task, or the host. -/
def State.linePut (s : State) (v pa : Nat) (bs : List Byte) : Got State :=
  match s.sliceCheck v pa with
  | some c => .bad c (BitVec.ofNat 48 pa)
  | none => .ok ((s.gStore v pa bs.length (leNat bs)).noteThrough nobody (.ctx 0) pa false)

/-- The bytes of a store's packet that the hash covers: destination, class, operation, address, payload. -/
def storeBytes (e : LogEntry) : List Byte :=
  leBytes 2 (sliceOf e.pa) ++ leBytes 4 e.word.toNat ++ leBytes 8 e.pa ++ leBytes e.size.bytes e.data.toNat

/-- The packet of a posted store sent to its home slice; twins send theirs for comparison (23 R362). -/
def State.sendStore (s : State) (k c : Nat) (e : Fin 8) : State :=
  let x := (s.ctx k c).log.get e
  let tw := (s.taskOf k c).bind Task.twin
  s.inject
    { src := .core (s.homeOf k c), dst := .slice (sliceOf x.pa), cls := .req, seq := 0, level := 2,
      payload := .store k c e.val, checked := tw.isNone,
      hash := match tw with
        | some _ => some (twinHash (storeBytes x))
        | none => none }

/-- Whether a held release may go: no earlier store of its context remains, and at SYS its tier-1 lines are
written through (05 R95, R96, R98). A failed store of a context that has stopped is discarded, and holds nothing back
(10 R191, 23 R350). -/
def State.mayRelease (s : State) (k c : Nat) (x : LogEntry) : Bool :=
  ((s.ctx k c).log.toList.all fun o => decide (o.state = .free) || decide (x.order ≤ o.order) ||
      (!(s.ctx k c).live && decide (o.state = .failed))) &&
    (decide (x.scope ≠ .sys) || !s.behind k c)

/-- Held releases of a context that may now go are sent (05 R95). -/
def State.sendHeld (s : State) (k c : Nat) : State :=
  (List.finRange 8).foldl (fun s e =>
    let x := (s.ctx k c).log.get e
    if x.state = .held ∧ s.mayRelease k c x then
      (s.setCtx k c ((s.ctx k c).setLog e { x with state := .posted })).sendStore k c e
    else s) s

/-- A store entered into the operand log (05 R94, R95): it travels at once, or is held as a release. -/
def State.post (s : State) (k c : Nat) (e : Fin 8) (x : LogEntry) : State :=
  let y := s.ctx k c
  let x1 := { x with order := 1 + (y.log.toList.map LogEntry.order).foldl max 0 }
  let s1 := s.setCtx k c (y.setLog e { x1 with state := .held })
  if !x1.rel || s1.mayRelease k c x1 then
    (s.setCtx k c (y.setLog e { x1 with state := .posted })).sendStore k c e
  else s1

/-! ### Return from a trap -/

/-- ST with only its RW fields taken from a value (01 R19, Table 1-3). -/
def stWrite (old v : Word) : Word := (v &&& 0xFFFF007F) ||| (old &&& ~~~(0xFFFF007F : Word))

/-- ST restored by `ERET`: HLP, MIG, SUP, FLW and RVF keep their values (11 R212); a reserved field stays 0 (00 R8). -/
def stReturn (old v : Word) : Word := (v &&& 0xFFFF047F) ||| (old &&& 0x3B00)

/-- The return from a trap once its frame has been read (11 R212, R209). -/
def Ctx.leave (y : Ctx) (a st p6 p7 : Word) : Ctx :=
  let y1 := { ((y.setPtr 6 p6).setPtr 7 p7) with a := a, st := stReturn y.st st, pc := addrOf y.tpc, hold := none }
  { y1 with causeRead := y1.flag stTRP }

end Sys2Proof.Machine
end

