-- ==== Sys2Proof/Machine/Flags.lean ====
section
/-! DEFINITION. Every flag computation of the scalar instructions (04 R71 to R78), over the exact integers. -/

namespace Sys2Proof.Machine

/-- A result with the flags it sets: `none` leaves a flag as it is; `sat` sets Q (04 "Flags"). -/
structure Res where
  val : Word
  c : Option Bool := none
  v : Option Bool := none
  sat : Bool := false
  deriving DecidableEq, Repr

/-- Z and N of a 64-bit value (04 "Flags"). -/
def Ctx.setZN (y : Ctx) (v : Word) : Ctx := (y.setFlag stZ (v == 0)).setFlag stN v.msb

/-- A flag set, or left where the rule names none. -/
def Ctx.setFlag? (y : Ctx) (i : Nat) (b : Option Bool) : Ctx :=
  match b with
  | some b => y.setFlag i b
  | none => y

/-- C, V and Q of a result (04 Table 4-2). -/
def Ctx.setCVQ (y : Ctx) (r : Res) : Ctx :=
  let y1 := (y.setFlag? stC r.c).setFlag? stV r.v
  if r.sat then y1.setFlag stQ true else y1

/-- A result written to A with its flags (04 R71). -/
def Ctx.setRes (y : Ctx) (r : Res) : Ctx := ((y.setZN r.val).setCVQ r).setA r.val

/-- The flags of a comparison, A unchanged (04 Table 4-2, `CMP` and `TST`). -/
def Ctx.setCmp (y : Ctx) (r : Res) : Ctx := (y.setZN r.val).setCVQ r

/-- Whether an exact value lies outside INT64 (04 "Signed overflow"). -/
def outside64 (x : Int) : Bool := decide (x < -2 ^ 63) || decide (2 ^ 63 ≤ x)

def bitNat (b : Bool) : Nat := if b then 1 else 0

/-- Addition with a carry in (04 Table 4-2 `ADD`, `ADC`). -/
def addRes (a m : Word) (cin : Bool) : Res where
  val := BitVec.ofNat 64 (a.toNat + m.toNat + bitNat cin)
  c := some (decide (2 ^ 64 ≤ a.toNat + m.toNat + bitNat cin))
  v := some (outside64 (a.toInt + m.toInt + bitNat cin))

/-- Subtraction with a borrow in (04 Table 4-2 `SUB`, `SBC`, `RSB`, `CMP`). -/
def subRes (a m : Word) (bin : Bool) : Res where
  val := a - m - BitVec.ofNat 64 (bitNat bin)
  c := some (decide (m.toNat + bitNat bin ≤ a.toNat))
  v := some (outside64 (a.toInt - m.toInt - bitNat bin))

/-- A clamped result with V and Q (04 R72). -/
def satRes (lo hi x : Int) : Res where
  val := BitVec.ofInt 64 (clampInt lo hi x)
  v := some (decide (x < lo) || decide (hi < x))
  sat := decide (x < lo) || decide (hi < x)

/-- The low `n` bits of A as a signed and as an unsigned number (04 R72). -/
def lowInt (a : Word) (n : Nat) : Int := (a.setWidth n).toInt
def lowNat (a : Word) (n : Nat) : Nat := (a.setWidth n).toNat

def addsRes (n : Nat) (a m : Word) : Res := satRes (-2 ^ (n - 1)) (2 ^ (n - 1) - 1) (lowInt a n + m.toInt)
def addsuRes (n : Nat) (a m : Word) : Res := satRes 0 (2 ^ n - 1) ((lowNat a n : Int) + m.toNat)
def subsRes (n : Nat) (a m : Word) : Res := satRes (-2 ^ (n - 1)) (2 ^ (n - 1) - 1) (lowInt a n - m.toInt)
def subsuRes (n : Nat) (a m : Word) : Res := satRes 0 (2 ^ n - 1) ((lowNat a n : Int) - m.toNat)

/-- `MUL` (04 Table 4-2). -/
def mulRes (a m : Word) : Res where
  val := a * m
  v := some (outside64 (a.toInt * m.toInt))
def mulhRes (a m : Word) : Res where
  val := BitVec.ofInt 64 (a.toInt * m.toInt / 2 ^ 64)
def mulhuRes (a m : Word) : Res where
  val := BitVec.ofNat 64 (a.toNat * m.toNat / 2 ^ 64)

/-- The one signed quotient outside INT64 (04 Table 4-2 `DIV`, `REM`). -/
def divOverflow (a m : Word) : Bool := a == BitVec.intMin 64 && m == BitVec.allOnes 64

def divRes (a m : Word) : Res where
  val := BitVec.ofInt 64 (a.toInt.tdiv m.toInt)
  v := some (divOverflow a m)
def divuRes (a m : Word) : Res where
  val := BitVec.ofNat 64 (a.toNat / m.toNat)
  v := some false
def remRes (a m : Word) : Res where
  val := BitVec.ofInt 64 (a.toInt.tmod m.toInt)
  v := some (divOverflow a m)
def remuRes (a m : Word) : Res where
  val := BitVec.ofNat 64 (a.toNat % m.toNat)
  v := some false

/-- A result that changes neither C nor V. -/
def plainRes (v : Word) : Res where
  val := v

/-- Shifts and rotates by `k` of 0 to 63 (04 R73): with 0, C is unchanged. -/
def shlRes (a : Word) (k : Nat) : Res where
  val := a <<< k
  c := if k = 0 then none else some (a.getLsbD (64 - k))
def shrRes (a : Word) (k : Nat) : Res where
  val := a >>> k
  c := if k = 0 then none else some (a.getLsbD (k - 1))
def sarRes (a : Word) (k : Nat) : Res where
  val := a.sshiftRight k
  c := if k = 0 then none else some (a.getLsbD (k - 1))
def rolRes (a : Word) (k : Nat) : Res where
  val := a.rotateLeft k
  c := if k = 0 then none else some ((a.rotateLeft k).getLsbD 0)
def rorRes (a : Word) (k : Nat) : Res where
  val := a.rotateRight k
  c := if k = 0 then none else some ((a.rotateRight k).getLsbD 63)

/-- Unary results (04 Table 4-4). -/
def negRes (a : Word) : Res where
  val := -a
  c := some (a == 0)
  v := some (a == BitVec.intMin 64)
def absRes (a : Word) : Res where
  val := if a.msb then -a else a
  v := some (a == BitVec.intMin 64)
def negsRes (a : Word) : Res := satRes (-2 ^ 63) (2 ^ 63 - 1) (-a.toInt)
def abssRes (a : Word) : Res := satRes (-2 ^ 63) (2 ^ 63 - 1) a.toInt.natAbs

/-- Leading zero, trailing zero and one bits among the low `n` (04 Table 4-4). -/
def clzGo (a : Word) : Nat → Nat
  | 0 => 0
  | n + 1 => if a.getLsbD n then 0 else 1 + clzGo a n
def ctzGo (a : Word) : Nat → Nat
  | 0 => 0
  | n + 1 => if a.getLsbD (63 - n) then 0 else 1 + ctzGo a n
def popGo (a : Word) : Nat → Nat
  | 0 => 0
  | n + 1 => bitNat (a.getLsbD n) + popGo a n

/-- The eight bytes in reverse order (04 Table 4-4 `BSWAP`). -/
def swapBytes (a : Word) : Word :=
  (bits a 0 8 ++ bits a 8 8 ++ bits a 16 8 ++ bits a 24 8 ++ bits a 32 8 ++ bits a 40 8 ++ bits a 48 8 ++
    bits a 56 8 : BitVec 64)

/-- The flags of `FCMP` as Z, N, C, V (04 Table 4-6). -/
def fcmpFlags : Option Ordering → Bool × Bool × Bool × Bool
  | some .eq => (true, false, true, false)
  | some .lt => (false, true, false, false)
  | some .gt => (false, false, true, false)
  | none => (false, false, true, true)

/-- The conditions of a branch (02 Table 2-6b). -/
def condHolds (k : Cond) (st : Word) : Bool :=
  let z := getBit st stZ
  let n := getBit st stN
  let cf := getBit st stC
  let v := getBit st stV
  match k with
  | .eq => z
  | .ne => !z
  | .lt => n != v
  | .ge => n == v
  | .le => z || n != v
  | .gt => !z && n == v
  | .ult => !cf
  | .uge => cf
  | .ule => !cf || z
  | .ugt => cf && !z
  | .neg => n
  | .pos => !n
  | .ov => v
  | .nov => !v
  | .sat => getBit st stQ
  | .always => true

end Sys2Proof.Machine
end

