-- ==== Sys2Proof/Machine/Operands.lean ====
section
/-! DEFINITION. Every operand form: effective addresses and pointer updates (02 Table 2-5), extension of loaded
values (02 R39), the operands of the ALU and FPU majors (04 R71, R77), floats in A (01 R16). -/

namespace Sys2Proof.Machine

/-- The effective address of an access of `z` bytes (02 R42, Table 2-5). -/
def eaOf {n : Nat} (m : MemOp n) (y : Ctx) : Addr :=
  let w := y.ptr m.p
  match m.mode with
  | .disp => addrOf w + m.d.signExtend 48
  | .postStride => addrOf w
  | .preStride => addrOf w + strideOf w
  | .postSize => addrOf w
  | .dispWrite => addrOf w + m.d.signExtend 48
  | .indexA => addrOf w + addrOf y.a
  | .postNeg => addrOf w

/-- Pn[47:0] after the access (02 R42, Table 2-5). -/
def npOf {n : Nat} (m : MemOp n) (y : Ctx) (z : Nat) : Addr :=
  let w := y.ptr m.p
  match m.mode with
  | .disp => addrOf w
  | .postStride => addrOf w + strideOf w
  | .preStride => addrOf w + strideOf w
  | .postSize => addrOf w + BitVec.ofNat 48 z
  | .dispWrite => addrOf w + m.d.signExtend 48
  | .indexA => addrOf w
  | .postNeg => addrOf w - strideOf w

/-- The pointer of a memory operand after its access. -/
def ptrAfter {n : Nat} (m : MemOp n) (y : Ctx) (z : Nat) : Ctx := y.setPtrAddr m.p (npOf m y z)

/-- Whether an address is a multiple of an access size (05 R88). -/
def aligned (ea : Addr) (z : Nat) : Bool := decide (ea.toNat % z = 0)

/-- A value of `z` bytes sign-extended (02 R39). -/
def extend (sx : Bool) (z : Size) (v : Word) : Word :=
  match sx, z with
  | true, .b => (bits v 0 8).signExtend 64
  | true, .h => (bits v 0 16).signExtend 64
  | true, .w => (bits v 0 32).signExtend 64
  | _, _ => v

/-- The low `z` bytes of a value. -/
def lowBytes (v : Word) (z : Nat) : Word := v &&& BitVec.ofNat 64 (2 ^ (8 * z) - 1)

/-- An L-space opcode that is admitted in a flow phase, or not (05 Table 5-3, 04 Table 4-2, 01 R14). -/
def admL (flow : Bool) : Adm := { flow := flow, mig := false }

/-- The memory operand of the ALU and FPU majors (04 R71): alignment, the read, the out-of-range record, then the
function on its value and the context with its pointer updated. -/
def operand (i : Instr) (adm : Adm) (z : Size) (m : MemOp 12) (s : State)
    (f : Word → Addr → Ctx → Act) : Out :=
  run i adm s.here s fun s =>
    let y := s.me
    let ea := eaOf m y
    if aligned ea z.bytes then
      (s.lRead s.k y.flowing ea z.bytes).elim s i (ea.setWidth 64) fun v =>
        f v ea ((ptrAfter m y z.bytes).noteRange ea)
    else s.fault i causeMisalign (ea.setWidth 64)

/-- An ALU function with a memory operand (04 R71): its result goes to A. -/
def aluMem (i : Instr) (flow sx : Bool) (z : Size) (m : MemOp 12) (s : State) (f : Word → Word → Word → Res) : Out :=
  operand i (admL flow) z m s fun v _ y => s.retire (y.setRes (f y.a (extend sx z v) y.st))

/-- `CMP` and `TST`: flags only (04 Table 4-2). -/
def aluMemCmp (i : Instr) (sx : Bool) (z : Size) (m : MemOp 12) (s : State) (f : Word → Word → Res) : Out :=
  operand i (admL true) z m s fun v _ y => s.retire (y.setCmp (f y.a (extend sx z v)))

/-- The division functions: a zero operand is `DIVZ`, with A in `TVAL`; A, ST and Pn unchanged (04 R71, R74). The read has
taken place: out of range it is recorded (01 R21, R28). -/
def aluMemDiv (i : Instr) (sx : Bool) (z : Size) (m : MemOp 12) (s : State) (f : Word → Word → Res) : Out :=
  operand i (admL false) z m s fun v ea y =>
    if v == 0 then
      .trap { tpc := s.me.pc, cause := causeDivz, addr := ea.setWidth 64, val := y.a } (s.setMe (s.me.noteRange ea))
    else s.retire (y.setRes (f y.a (extend sx z v)))

/-- An instruction on registers alone (04 R75, R76, R80). -/
def regOp (i : Instr) (adm : Adm) (s : State) (f : Ctx → Ctx) : Out :=
  run i adm s.here s fun s => s.retire (f s.me)

/-- A[31:0] read as FP32 (01 R16). -/
def fpA (y : Ctx) : FVal := FFmt.unpack .f32 (bits y.a 0 32).toNat

/-- A float image placed in A, the upper bits 0 (01 R16). -/
def fpOut (v : Nat) : Word := BitVec.ofNat 64 v

/-- An FPU function whose result goes to A (04 R77, R79). -/
def fpu (i : Instr) (z : Size) (m : MemOp 12) (s : State) (f : Rm → FVal → Word → Word) : Out :=
  operand i (admL false) z m s fun v _ y => s.retire (y.setA (f y.rm (fpA y) v))

/-- An FP32 operand image. -/
def f32 (v : Word) : FVal := FFmt.unpack .f32 v.toNat

end Sys2Proof.Machine
end

