-- ==== Sys2Proof/Machine/FullEmpty.lean ====
section
/-! DEFINITION. The waiters of a full/empty granule, and what its becoming full does to them (05 R100, R101). -/

namespace Sys2Proof.Machine

/-- A waiting load: C space or L, a `.c` form or not, its size and operand (05 Table 5-7). -/
structure FeForm where
  cspace : Bool
  take : Bool
  size : Size
  operand : MemOp 12
  deriving DecidableEq, Repr

def feForm (i : Instr) : Option FeForm :=
  match i with
  | .ldlf z m => some ⟨false, false, z, m⟩
  | .ldlfC z m => some ⟨false, true, z, m⟩
  | .ldcf z m => some ⟨true, false, z, m⟩
  | .ldcfC z m => some ⟨true, true, z, m⟩
  | _ => none

/-- A context that waits on a granule: its core, its number, the `CYC` of its issue and its load. -/
structure FeWaiter where
  core : Nat
  ctx : Nat
  since : Nat
  form : FeForm
  deriving DecidableEq, Repr

/-- The bank that a waiting load reaches (01 R28, 05 R91). -/
def State.feReach (s : State) (k c : Nat) (y : Ctx) (f : FeForm) : Got Nat :=
  let ea := eaOf f.operand y
  if f.cspace then s.cBank k (s.vdevOf k c) ea
  else if outOfRange ea then .bad causeDetached ea
  else s.lBank k y.flowing ea

/-- Whether a waiting load stands at a granule of a bank. -/
def State.feStands (s : State) (k c : Nat) (y : Ctx) (f : FeForm) (b g : Nat) : Bool :=
  match s.feReach k c y f with
  | .ok n => decide (n = b) && decide (granuleOf (eaOf f.operand y) = g)
  | _ => false

/-- A context as a waiter of a granule, if it is one: not where it abandons its load for a late fault (05 R98). -/
def State.feWaiter (s : State) (k c b g : Nat) (y : Ctx) : Option FeWaiter :=
  let of (h : Hold) : Option FeWaiter :=
    match feForm h.instr with
    | some f => if y.away.isNone && y.lateEntry.isNone && s.feStands k c y f b g then some ⟨k, c, h.since, f⟩ else none
    | none => none
  match y.hold with
  | some h =>
    match h.phase with
    | .poll _ => of h
    | .held => of h
    | _ => none
  | none => none

/-- The waiters of a granule, of every core of the cluster (05 R101). -/
def State.feWaiters (s : State) (cl b g : Nat) : List FeWaiter :=
  (s.cores.filter fun e => decide (clusOf e.1 = cl)).flatMap fun e =>
    e.2.ctxs.filterMap fun x => s.feWaiter e.1 x.1 b g x.2

/-- An access abandoned, with the trap its context takes when it next issues (06 R112, 05 R100). -/
def Ctx.abandon (y : Ctx) (cause : Byte) (a : Addr) : Ctx :=
  { y with hold := y.hold.map fun h => { h with phase := .abandoned cause a } }

/-- Whether the bound of a waiter had run out before its granule became full (05 R100). -/
def State.feLate (s : State) (w : FeWaiter) : Bool := (s.ctx w.core w.ctx).late w.since s.cyc.toNat

/-- A waiter completes with the bytes of its granule; one whose bound had run out takes its `TIMEOUT` instead. -/
def State.feComplete (s : State) (v : Granule) (w : FeWaiter) : State :=
  let y := s.ctx w.core w.ctx
  let f := w.form
  let ea := eaOf f.operand y
  if s.feLate w then s.setCtx w.core w.ctx (y.abandon causeTimeout ea)
  else
    s.setCtx w.core w.ctx
      ((ptrAfter f.operand y f.size.bytes).setA (granuleRead v (byteInGranule ea) f.size.bytes)).advance

/-- The `.c` waiters of which one may complete: the one of each core that issued first (05 R101). -/
def feFirst (l : List FeWaiter) : List FeWaiter :=
  l.filter fun w => l.all fun u => decide (u.core ≠ w.core) || decide (w.since < u.since) ||
    (decide (w.since = u.since) && decide (w.ctx ≤ u.ctx))

/-- Every waiting `LDLF` and `LDCF` of a granule completes with its bytes (05 R101). -/
def State.feReaders (s : State) (cl b g : Nat) : State :=
  ((s.feWaiters cl b g).filter fun w => !w.form.take).foldl (fun t w => t.feComplete ((s.bank cl b).granule g) w) s

/-- One waiting `.c` form completes and empties the granule; among cores a free value says which (05 R101, entry 4). -/
def State.feTaker (s : State) (cl b g : Nat) : State :=
  let go (w : FeWaiter) (t : State) : State :=
    (t.feComplete ((t.bank cl b).granule g) w).setBank cl b ((t.bank cl b).setFull g false)
  match feFirst ((s.feWaiters cl b g).filter fun w => w.form.take && !s.feLate w) with
  | [] => s
  | [w] => go w s
  | w :: l => go ((w :: l).getD ((Config.freeWord s.fresh).toNat % (l.length + 1)) w) { s with fresh := s.fresh + 1 }

/-- A waiter of a poisoned granule finds the error when it goes on, unless its bound had run out (19 R296). -/
def State.feFound (s : State) (w : FeWaiter) : State :=
  let y := s.ctx w.core w.ctx
  s.setCtx w.core w.ctx (if s.feLate w then y.abandon causeTimeout (eaOf w.form.operand y) else y.setPhase .held)

/-- A granule has been set full; `was` says whether it was full before. The waiters of a granule that becomes full are
released; one that is poisoned lets each go on to its fault (05 R101, 19 R296). -/
def State.feFilled (s : State) (cl b g : Nat) (was : Bool) : State :=
  if was then s
  else if (s.bank cl b).isPoison g then (s.feWaiters cl b g).foldl State.feFound s
  else (s.feReaders cl b g).feTaker cl b g

end Sys2Proof.Machine
end

