-- ==== Sys2Proof/Machine/Banks.lean ====
section
/-! DEFINITION. The bank instructions (06): taking, claiming, returning, arming, waiting, opening and handing over
banks, with the drain sets, and the events that let them go on. -/

namespace Sys2Proof.Machine

/-! ### The pool (06 R109 to R111) -/

/-- Where a slot number stands in L space, the `TADDR` of every fault of a bank instruction (06 R108). -/
def slotAddr (n : BitVec 4) : Word := n.setWidth 64 <<< 12

def Bank.free (b : Bank) : Bool :=
  match b.state with
  | .clean => true
  | .kept _ => true
  | _ => false

def Bank.isClean (b : Bank) : Bool := decide (b.state = .clean)

/-- Quads of the cluster, nearest to `q` first, the lower number on a tie (06 R110). -/
def quadOrder (q : Nat) : List Nat :=
  (List.range 7).flatMap fun d =>
    (List.range 16).filter fun r => absDiff (q / 4) (r / 4) + absDiff (q % 4) (r % 4) = d

def quadBanks (q : Nat) : List Nat := (List.range 48).map (48 * q + ·)

/-- The bank `BALLOC` takes (06 R110). -/
def Cluster.pick (x : Cluster) (q : Nat) : Option Nat :=
  (quadOrder q).findSome? fun r =>
    match (quadBanks r).find? fun b => (x.bank b).isClean with
    | some b => some b
    | none => (quadBanks r).find? fun b => (x.bank b).free

/-- A bank attached to a slot of a core (06 R110, R111). -/
def State.attach (s : State) (k n b : Nat) (bk : Bank) (tag : BitVec 16) : State :=
  (s.setBank (clusOf k) b { bk with state := .held k n }).setSlot k n
    { bank := b, state := .attached, opened := false, tag := tag }

/-- A released bank returns to the pool; one marked for retirement leaves it (06 R113, 19 R283). -/
def State.returnBank (s : State) (cl b : Nat) (st : BankState) (zero : Bool) : State :=
  let bk := s.bank cl b
  let bk1 := if zero then bk.zeroed else bk
  if bk.marked then
    let x := s.cluster cl
    s.setCluster cl { x.setBank b { bk1 with state := .gone } with retired := x.retired + 1 }
  else s.setBank cl b { bk1 with state := st }

/-- A status in A with the flags of `BALLOC`, `ATT` and `HOV` (06 R108). -/
def Ctx.bankStatus (y : Ctx) (v : Word) : Ctx := (y.setZN v).setA v

/-- A bank instruction: admission and slot 0 (06 R108). -/
def bankOp (i : Instr) (n : BitVec 4) (s : State) (body : State → Act) : Out :=
  run i { mig := false } (slotAddr n) s fun s => if n = 0 then s.fault i causeIllop (slotAddr n) else body s

def execBalloc (n : BitVec 4) (s : State) : Out :=
  bankOp (.balloc n) n s fun s =>
    if (s.slot s.k n.toNat).state = .empty then
      match (s.cluster (clusOf s.k)).pick (quadIn s.k) with
      | some b =>
        (s.attach s.k n.toNat b (s.bank (clusOf s.k) b).zeroed 0).retire (s.me.bankStatus (BitVec.ofNat 64 b))
      | none => s.retire (s.me.bankStatus 0x8000000000000000)
    else s.fault (.balloc n) causeIllop (slotAddr n)

def execAtt (n : BitVec 4) (s : State) : Out :=
  bankOp (.att n) n s fun s =>
    let b := (bits s.me.a 0 10).toNat
    if (s.slot s.k n.toNat).state ≠ .empty || 767 < b then s.fault (.att n) causeIllop (slotAddr n)
    else
      let bk := s.bank (clusOf s.k) b
      if bk.free then
        let keep := decide (bk.state = .kept (s.vdevOf s.k s.c))
        (s.attach s.k n.toNat b (if keep then bk else bk.zeroed) 0).retire (s.me.bankStatus 0)
      else s.retire (s.me.bankStatus 1)

/-! ### Drain sets (06 R112) -/

/-- Whether an access of a core has reached the bank of a slot and is still to be performed (06 R112). -/
def Core.cameTo (x : Core) (n : Nat) : Bool := x.ctxs.any fun e => decide (e.2.phase = some (.slotCame n))

/-- Commands of a core that have a bank in their footprint and have still to read or write it (06 R112). -/
def Core.uses (x : Core) (b : Nat) : Bool :=
  (x.mx.queue ++ x.vx.queue ++ x.cx.queue).any fun q => !q.moved && q.banks.any fun e => decide (e.2 = b)

/-- Whether a transfer unit under way has reached a bank from C space (06 R112, 09 R175). -/
def State.unitsIn (s : State) (cl b : Nat) : Bool :=
  s.cores.any fun e => decide (clusOf e.1 = cl) && e.2.cx.queue.any fun q => q.reach.contains b

/-- Whether something of the drain set of a bank that a core releases is still to be performed (06 R112). -/
def State.drains (s : State) (k b : Nat) : Bool := (s.core k).uses b || s.unitsIn (clusOf k) b

/-- The L address a blocked full/empty wait of a context stands at; none where a late fault abandons it (05 R98). -/
def Ctx.feWaitL (y : Ctx) : Option Addr :=
  if y.lateEntry.isSome then none
  else
    match y.hold with
    | some { instr := .ldlf _ m, phase := .poll _, .. } => some (eaOf m y)
    | some { instr := .ldlfC _ m, phase := .poll _, .. } => some (eaOf m y)
    | _ => none

/-- The C address a blocked full/empty wait of a context stands at. -/
def Ctx.feWaitC (y : Ctx) : Option Addr :=
  if y.lateEntry.isSome then none
  else
    match y.hold with
    | some { instr := .ldcf _ m, phase := .poll _, .. } => some (eaOf m y)
    | some { instr := .ldcfC _ m, phase := .poll _, .. } => some (eaOf m y)
    | _ => none

/-- Blocked accesses of the core's contexts to a slot are abandoned (06 R112). -/
def State.abandonL (s : State) (k n : Nat) : State :=
  let x := s.core k
  s.setCore k { x with ctxs := x.ctxs.map fun e =>
    match e.2.feWaitL with
    | some a => if slotOfAddr a = n ∧ outOfRange a = false then (e.1, e.2.abandon causeDetached a) else e
    | none => e }

/-- Blocked C accesses of the cluster's cores to a bank are abandoned (06 R112). -/
def State.abandonC (s : State) (cl b : Nat) : State :=
  { s with cores := s.cores.map fun e =>
      if clusOf e.1 = cl then
        (e.1, { e.2 with ctxs := e.2.ctxs.map fun f =>
          match f.2.feWaitC with
          | some a => if a.toNat / 4096 = b then (f.1, f.2.abandon causeCspace a) else f
          | none => f })
      else e }

/-- Whether a wait of an instruction at an address is for a slot to be attached (01 R28, 06 R115). -/
def waitsFor (i : Instr) (a : Word) (n : Nat) : Bool :=
  match i with
  | .waite _ => false
  | .ldcf _ _ => false
  | .ldcfC _ _ => false
  | _ => decide (slotOfAddr (addrOf a) = n) && !outOfRange (addrOf a)

/-- A context when a slot leaves ARMED: its wait for the slot is over, by `TIMEOUT` where the bound had run out; a `BWAIT`
on an attached slot completes, a full/empty load goes on to wait for its granule, and another access has reached its bank
(05 R100, 06 R112, R115). Where the slot was disarmed they try again, and find it EMPTY: a `BWAIT` so faults with ILLOP
(DESIGN CHOICE, entry 64). A context that has a late fault to take has abandoned its wait (05 R98). -/
def Ctx.slotSettled (y : Ctx) (n cyc : Nat) (attached : Bool) : Ctx :=
  match y.hold with
  | some { instr := i, since := t, phase := .poll a } =>
    if !waitsFor i a n || y.lateEntry.isSome then y
    else if y.late t cyc then y.abandon causeTimeout (addrOf a)
    else
      match i, attached with
      | .bwait _, true => y.advance
      | .ldlf _ _, true => y
      | .ldlfC _ _, true => y
      | _, true => y.setPhase (.slotCame n)
      | _, false => y.setPhase .held
  | _ => y

/-- What waits for a slot of a core when it leaves ARMED; a delivered bank may bring full granules that are waited for
(05 R101). -/
def State.slotSettled (s : State) (k n : Nat) (attached : Bool) : State :=
  let x := s.core k
  let at1 := (x.ctxs.filterMap fun e => e.2.feWaitL).filter fun a => decide (slotOfAddr a = n) && !outOfRange a
  let s1 := s.setCore k { x with ctxs := x.ctxs.map fun e => (e.1, e.2.slotSettled n s.cyc.toNat attached) }
  if attached then
    (at1.map granuleOf).foldl (fun s g =>
      let b := (s.slot k n).bank
      if (s.bank (clusOf k) b).isFull g then s.feFilled (clusOf k) b g false else s) s1
  else s1

/-- The end of a release by `DET` or `DET.z` once the drain set is performed (06 R113). -/
def State.detDone (s : State) (k c b : Nat) (zero : Bool) : State :=
  let y := s.ctx k c
  let v := s.vdevOf k c
  (s.returnBank (clusOf k) b (if zero then .clean else .kept v) zero).setCtx k c y.advance

/-- `DET` and `DET.z` on an attached slot: it is EMPTY at issue, and the drain set is waited for (06 R113). -/
def State.detStart (s : State) (k n : Nat) (b : Nat) : State :=
  ((s.abandonL k n).abandonC (clusOf k) b).setSlot k n {} |>.setBank (clusOf k) b
    { s.bank (clusOf k) b with state := .leaving }

/-- `DET` and `DET.z` (06 R113). An ABSENT slot loses its image too; a command that was saved in a queue with that slot in its
footprint then waits for a bank that does not come (DESIGN CHOICE, entry 54). -/
def detOp (i : Instr) (zero : Bool) (n : BitVec 4) (s : State) : Out :=
  bankOp i n s fun s =>
    let x := s.core s.k
    let sl := x.slot n.toNat
    match s.me.hold with
    | some { phase := .release b, .. } =>
      if s.drains s.k b then .wait (.release b) s else .done (s.detDone s.k s.c b zero)
    | some { phase := .zeroing b, .. } => .done (s.detDone s.k s.c b zero)
    | _ =>
      match sl.state with
      | .attached =>
        if x.cameTo n.toNat then .wait .held s else
        let s1 := s.detStart s.k n.toNat sl.bank
        if s.drains s.k sl.bank then .wait (.release sl.bank) s1 else .done (s1.detDone s.k s.c sl.bank zero)
      | .armed =>
        let s1 := (s.setSlot s.k n.toNat {}).slotSettled s.k n.toNat false
        s1.retire s1.me
      | .absent =>
        let s1 := match x.restoreFrom with
          | some a => { s with saved := match s.saved.find a with
              | some v => s.saved.put a { v with banks := v.banks.drop n.toNat }
              | none => s.saved }
          | none => s
        (s1.setSlot s.k n.toNat {}).retire s.me
      | _ => s.fault i causeIllop (slotAddr n)

def execDet (n : BitVec 4) (s : State) : Out := detOp (.det n) false n s
def execDetZ (n : BitVec 4) (s : State) : Out := detOp (.detZ n) true n s

def execArm (n : BitVec 4) (t : BitVec 16) (s : State) : Out :=
  bankOp (.arm n t) n s fun s =>
    if (s.slot s.k n.toNat).state = .empty then
      (s.setSlot s.k n.toNat { state := .armed, tag := t }).retire s.me
    else s.fault (.arm n t) causeIllop (slotAddr n)

def execBwait (n : BitVec 4) (s : State) : Out :=
  bankOp (.bwait n) n s fun s =>
    match (s.slot s.k n.toNat).state with
    | .attached => if s.timedOut then s.fault (.bwait n) causeTimeout (slotAddr n) else s.retire s.me
    | .absent => .wait (.bankMiss n.toNat) s
    | .armed => s.block (.bwait n) (slotAddr n)
    | _ => s.fault (.bwait n) causeIllop (slotAddr n)

def execOpenSlot (n : BitVec 4) (s : State) : Out :=
  bankOp (.openSlot n) n s fun s =>
    let sl := s.slot s.k n.toNat
    match sl.state with
    | .attached => (s.setSlot s.k n.toNat { sl with opened := true }).retire s.me
    | .absent => .wait (.bankMiss n.toNat) s
    | _ => s.fault (.openSlot n) causeIllop (slotAddr n)

/-- A slot closed: blocked C accesses to its bank are abandoned (06 R112, R116). -/
def State.closeSlot (s : State) (k n : Nat) : State :=
  let sl := s.slot k n
  (s.abandonC (clusOf k) sl.bank).setSlot k n { sl with opened := false }

/-- `CLOSE`: of its drain set, which holds C accesses only, copies alone have accesses that have reached the bank and are still
to be performed (06 R112, R116, 09 R175). -/
def execCloseSlot (n : BitVec 4) (s : State) : Out :=
  bankOp (.closeSlot n) n s fun s =>
    let sl := s.slot s.k n.toNat
    let drain (b : Nat) (s1 : State) : Act := if s1.unitsIn (clusOf s.k) b then .wait (.release b) s1 else s1.retire s1.me
    match s.me.hold with
    | some { phase := .release b, .. } => drain b s
    | _ =>
      match sl.state with
      | .attached => if sl.opened then drain sl.bank (s.closeSlot s.k n.toNat) else s.retire s.me
      | .absent => .wait (.bankMiss n.toNat) s
      | _ => s.fault (.closeSlot n) causeIllop (slotAddr n)

/-- Codes of the slot states (01 Table 1-8). -/
def SlotState.code : SlotState → BitVec 3
  | .empty => 0
  | .attached => 1
  | .transit => 2
  | .armed => 3
  | .absent => 4

/-- An attach-table entry as it reads (01 R25, Table 1-8). -/
def Slot.image (sl : Slot) : BitVec 32 :=
  let held := decide (sl.state = .attached) || decide (sl.state = .transit)
  let b : BitVec 10 := if held then BitVec.ofNat 10 sl.bank else 0x3FF
  let t : BitVec 16 := if sl.state = .empty then 0 else sl.tag
  let o : BitVec 1 := if sl.opened && decide (sl.state = .attached) then 1 else 0
  (t ++ (0 : BitVec 2) ++ o ++ sl.state.code ++ b : BitVec 32)

def execBqry (n : BitVec 4) (s : State) : Out :=
  run (.bqry n) { mig := false } (slotAddr n) s fun s =>
    s.retire (s.me.setA ((s.slot s.k n.toNat).image.setWidth 64))

/-! ### Handing over (06 R118 to R120) -/

/-- Fields of a target word (06 Table 6-2). -/
def hovSlot (a : Word) : Nat := (bits a 8 4).toNat
def hovTag (a : Word) : BitVec 16 := bits a 16 16
def hovClus (a : Word) : Nat := (bits a 32 14).toNat
def hovLocal (a : Word) : Bool := getBit a 46

/-- The core a target word names, where it lies in the sender's cluster. -/
def hovTarget (k : Nat) (a : Word) : Option Nat :=
  if hovLocal a || decide (hovClus a = clusOf k) then some (coreAt (clusOf k) (bits a 0 6).toNat) else none

/-- A target word that faults with ILLOP (06 R118). -/
def hovBad (a : Word) : Bool :=
  bits a 6 2 != 0 || bits a 12 4 != 0 || bits a 47 17 != 0 || decide (11 < hovSlot a) ||
    (!hovLocal a && decide (10239 < hovClus a))

/-- The core that a context's target word names. A twin names its own core by what `CORE` reads, which is the primary's
value in both, and no other core (23 R361; entry 50). -/
def State.hovTo (s : State) (k c : Nat) (a : Word) : Option Nat :=
  match (s.taskOf k c).bind Task.twin with
  | some w => if hovTarget k a = some (if w.primary then k else w.partner) then some k else none
  | none => hovTarget k a

/-- The arrival at the target: its status, and the bank attached with status 0 (06 R119, Table 6-3). -/
def State.hovArrive (s : State) (k c n : Nat) (a : Word) : State × BitVec 2 :=
  match s.hovTo k c a with
  | none => (s, 2)
  | some t =>
    if !s.inService t || s.partOf t ≠ s.partOf k || (s.partOf k).isNone then (s, 2)
    else if (s.core t).task.isNone || (s.core t).revoking then (s, 3)
    else
      let sl := s.slot t (hovSlot a)
      if sl.state = .armed ∧ sl.tag = hovTag a then
        let b := (s.slot k n).bank
        (((s.attach t (hovSlot a) b (s.bank (clusOf k) b) (hovTag a)).slotSettled t (hovSlot a) true).latchCore t 1, 0)
      else (s, 1)

/-- The sender's slot when the status returns (06 R119). -/
def State.hovSlotBack (s : State) (k n : Nat) (st : BitVec 2) : State :=
  let sl := s.slot k n
  if st = 0 then s.setSlot k n {} else s.setSlot k n { sl with state := .attached, opened := sl.wasOpen }

/-- The status written to A, with the flags, and the context goes on (06 R119). -/
def State.hovReturn (s : State) (k c n : Nat) (st : BitVec 2) : State :=
  let s1 := s.hovSlotBack k n st
  let y := s1.ctx k c
  s1.setCtx k c (((y.setFlag stZ (st == 0)).setFlag stN false).setA (st.setWidth 64)).advance

/-- Whether a hand-over may be delivered: its drain set is performed and its release complete (06 R112, R120). It does
not move its bank past a store of its context that has failed (06 R119); in a handler, which takes no report, a failed
entry counts as complete (DESIGN CHOICE, entry 54). -/
def State.hovReady (s : State) (k c n : Nat) : Bool :=
  !s.drains k (s.slot k n).bank && s.releasable k c .part && ((s.ctx k c).flag stTRP || (failedEntry (s.ctx k c)).isNone)

/-- The change of state of the sender's slot at issue, and the blocked accesses abandoned (06 R119). -/
def State.hovStart (s : State) (k n : Nat) : State :=
  let sl := s.slot k n
  let s1 := s.setSlot k n { sl with state := .transit, opened := false, wasOpen := sl.opened }
  (s1.abandonL k n).abandonC (clusOf k) sl.bank

/-- A hand-over goes on from its phase as far as it can. -/
def State.hovGo (s : State) (k c n : Nat) (a : Word) (ph : Phase) : State ⊕ Phase :=
  match ph with
  | .hovBack st => .inl (s.hovReturn k c n st)
  | .hovSent =>
    let r := s.hovArrive k c n a
    .inl (r.1.hovReturn k c n r.2)
  | _ =>
    if s.hovReady k c n then
      let r := s.hovArrive k c n a
      .inl (r.1.hovReturn k c n r.2)
    else .inr .hovDrain

def execHov (n : BitVec 4) (s : State) : Out :=
  run (.hov n) { mig := false } (slotAddr n) s fun s =>
    let a := s.me.a
    let tw := (s.taskOf s.k s.c).bind Task.twin
    if tw.isSome && s.hovTo s.k s.c a ≠ some s.k then s.fault (.hov n) causeIllctx (slotAddr n)
    else
      let go (s1 : State) (ph : Phase) : Act :=
        match s1.hovGo s.k s.c n.toNat a ph with
        | .inl s2 => .done s2
        | .inr p => .wait p s1
      match s.me.hold with
      | some { phase := .hovDrain, .. } => go s .hovDrain
      | some { phase := .hovSent, .. } => go s .hovSent
      | some { phase := .hovBack st, .. } => go s (.hovBack st)
      | _ =>
        if n = 0 || hovBad a then s.fault (.hov n) causeIllop (slotAddr n)
        else
          match (s.slot s.k n.toNat).state with
          | .absent => .wait (.bankMiss n.toNat) s
          | .attached => if (s.core s.k).cameTo n.toNat then .wait .held s else go (s.hovStart s.k n.toNat) .hovDrain
          | _ => s.fault (.hov n) causeIllop (slotAddr n)

/-! ### Events of hand-overs and releases -/

/-- The slot of a held `HOV`. -/
def Ctx.hovOf (y : Ctx) : Option Nat :=
  match y.hold with
  | some { instr := .hov n, .. } => some n.toNat
  | _ => none

def execHovDrainDone (k c : Nat) (s : State) : Out :=
  let y := s.ctx k c
  match y.hovOf, y.phase with
  | some n, some .hovDrain => .next (if s.hovReady k c n then s.setCtx k c (y.setPhase .hovSent) else s)
  | _, _ => .next s

def execHovArrival (k c : Nat) (s : State) : Out :=
  let y := s.ctx k c
  match y.hovOf, y.phase with
  | some n, some .hovSent =>
    let r := s.hovArrive k c n y.a
    .next (r.1.setCtx k c ((r.1.ctx k c).setPhase (.hovBack r.2)))
  | _, _ => .next s

/-- The status returns; that of a hand-over whose task is aborted is not seen (06 R124). -/
def execHovStatusReturn (k c : Nat) (s : State) : Out :=
  let y := s.ctx k c
  match y.hovOf, y.phase with
  | some n, some (.hovBack st) => .next (if y.live then s.hovReturn k c n st else s)
  | _, _ => .next s

def execBankReleaseDrainDone (k c : Nat) (s : State) : Out :=
  let y := s.ctx k c
  if !y.live then .next s
  else match y.hold with
  | some { instr := .det _, phase := .release b, .. } =>
    .next (if s.drains k b then s else s.detDone k c b false)
  | some { instr := .detZ _, phase := .release b, .. } =>
    .next (if s.drains k b then s else s.setCtx k c (y.setPhase (.zeroing b)))
  | some { instr := .closeSlot _, phase := .release b, .. } =>
    .next (if s.unitsIn (clusOf k) b then s else s.setCtx k c y.advance)
  | _ => .next s

def execDetZZeroingDone (k c : Nat) (s : State) : Out :=
  match (s.ctx k c).hold with
  | some { instr := .detZ _, phase := .zeroing b, .. } => .next (if (s.ctx k c).live then s.detDone k c b true else s)
  | _ => .next s

end Sys2Proof.Machine
end

