-- ==== Sys2Proof/Machine/Csr.lean ====
section
/-! DEFINITION. The CSRs of Table 11-3: what each reads as, and what a write changes (11 R214, 19 R281, R282,
22 R328, R331, 24 Table 24-5). -/

namespace Sys2Proof.Machine

/-! ### Partitions (22 R328) -/

/-- The core sites of a partition, in ascending index. -/
def Part.cores (x : Part) : List Nat := (List.range x.len).map fun i => siteOfIndex (x.base + i)

/-- Whether an interval of indices is legal for a partition slot: within the index range, and overlapping no other
partition (22 R328). -/
def State.intervalFree (s : State) (p base len : Nat) : Bool :=
  decide (1 ≤ len) && decide (base + len ≤ 655360) &&
    s.parts.all fun e => decide (e.1 = p) || !e.2.valid || decide (base + len ≤ e.2.base) || decide (e.2.base + e.2.len ≤ base)

/-- A stream command running on a partition. -/
def State.partStreams (s : State) (p : Nat) : Bool :=
  s.vdevs.any fun v => v.2.streams.any fun t => t.2.live && decide (t.2.part = p) && !t.2.jobs.isEmpty

/-- Whether a partition is idle: no live task, no saved context, no running stream command (22 R328). -/
def State.partIdle (s : State) (p : Nat) : Bool :=
  !(s.cores.any fun e => (e.2.task.map Task.part) == some p) && !(s.saved.any fun e => decide (e.2.part = p)) && !s.partStreams p

/-- A resize request (22 R328): ignored unless it may take effect. -/
def State.resize (s : State) (p base len : Nat) : State :=
  if s.partIdle p && s.intervalFree p base len then s.setPart p { s.part p with base := base, len := len } else s

/-- The partition slot that `PBASE`, `PLEN` and `PFLOWMAX` name on a core (22 R328). -/
def State.pslot (s : State) (k : Nat) : Option Nat :=
  if sites ≤ k then
    if (s.part (s.core k).psel.toNat).valid then some (s.core k).psel.toNat else none
  else s.partOf k

/-! ### Capabilities -/

/-- Good banks: not mapped out and not retired (19 R281). -/
def Cluster.goodIn (x : Cluster) (ids : List Nat) : Nat := (ids.filter fun b => decide ((x.bank b).state ≠ .gone)).length

/-- The quad with the fewest good banks: its count and number (19 Table 19-1). -/
def Cluster.minQuad (x : Cluster) : Nat × Nat :=
  (List.range 16).foldl (fun b q => let n := x.goodIn (quadBanks q); if n < b.1 then (n, q) else b) (49, 0)

/-- `CAPB` (19 Table 19-1). -/
def Cluster.capb (x : Cluster) : Word :=
  BitVec.ofNat 64 (x.goodIn (List.range 768) + x.minQuad.1 * 2 ^ 10 + x.minQuad.2 * 2 ^ 16 + x.retired.toNat * 2 ^ 20)

/-- `CAPC` (19 Table 19-2). -/
def State.capc (s : State) (cl : Nat) : Word :=
  let cs := clusterCores cl
  let insv := (cs.filter fun k => !(s.core k).outOfService).length
  let quar := (cs.filter fun k => (s.core k).quarantined && !(s.core k).outOfService).length
  let svc := if (s.core (serviceOf cl)).outOfService then 0 else 2 ^ 14
  BitVec.ofNat 64 (insv + quar * 2 ^ 7 + svc + 512 * 2 ^ 16 + 2048 * 2 ^ 32 + 32 * 2 ^ 48)

/-- `CAPID` (24 Table 24-5). Boot phase 7 sets MOD and NMOD, which read as 0 before (24 R375; entry 5). -/
def State.capid (s : State) : Word :=
  BitVec.ofNat 64 (0x0650 + 0x4C * 2 ^ 24 +
    if 7 ≤ s.bootPhase then Config.moduleNumber.toNat * 2 ^ 32 + Config.modulesMinus1.toNat * 2 ^ 38 else 0)

/-! ### The CSR map (11 Table 11-3) -/

/-- An operand-log entry as it reads (01 Table 1-5). -/
def LogEntry.image (e : LogEntry) : Word :=
  let st : BitVec 2 := match e.state with
    | .free => 0
    | .failed => 2
    | _ => 1
  let cause : Byte := if e.state = .failed then e.cause else 0
  (e.addr ++ cause ++ (0 : BitVec 5) ++ BitVec.ofBool e.space ++ st : BitVec 64)

/-- `CORE` reads the primary's value in a secondary twin (23 R361). -/
def State.coreCsr (s : State) (k : Nat) : Word :=
  match (s.core k).task.bind Task.twin with
  | some t => if t.primary then coreWord k else coreWord t.partner
  | none => coreWord k

/-- Where the trap CSRs of a context are: those of a guest helper stay on its task's core (01 R14). -/
def State.trapHome (s : State) (k c : Nat) : Nat × Nat := (s.ctx k c).guest.getD (k, c)
def State.trapCtx (s : State) (k c : Nat) : Ctx := s.ctx (s.trapHome k c).1 (s.trapHome k c).2
def State.setTrapCtx (s : State) (k c : Nat) (y : Ctx) : State := s.setCtx (s.trapHome k c).1 (s.trapHome k c).2 y

/-- The value a CSR reads as, for context `c` of core `k` (11 R214). -/
def State.csrGet (s : State) (k c : Nat) : Csr → Word
  | .st => (s.ctx k c).st
  | .lc0 => (s.ctx k c).lc0.setWidth 64
  | .lc1 => (s.ctx k c).lc1.setWidth 64
  | .tvec => (s.core k).tvec
  | .tpc => (s.trapCtx k c).tpc
  | .tcause => (s.trapCtx k c).tcause
  | .taddr => (s.trapCtx k c).taddr
  | .tval => (s.trapCtx k c).tval
  | .oorf => BitVec.ofNat 64 (bitNat (s.ctx k c).oorf)
  | .oora => (s.ctx k c).oora.setWidth 64
  | .log e => ((s.ctx k c).log.get e.toFin).image
  | .cyc => s.cyc
  | .core => s.coreCsr k
  | .flowcyc => (s.core k).flowcyc.setWidth 64
  | .att n => ((s.slot k n.toNat).image).setWidth 64
  | .vtime => (s.vdev (s.vdevOf k c)).vtime
  | .vcnt j => (s.vdev (s.vdevOf k c)).vcnt.get j.toFin
  | .capid => s.capid
  | .capb => (s.cluster (clusOf k)).capb
  | .capc => s.capc (clusOf k)
  | .cload => (s.cluster (clusOf k)).cload
  | .migctl => (s.cluster (clusOf k)).migctl
  | .pbase => match s.pslot k with
    | some p => BitVec.ofNat 64 (s.part p).base
    | none => 0
  | .plen => match s.pslot k with
    | some p => BitVec.ofNat 64 (s.part p).len
    | none => 0
  | .pflowmax => match s.pslot k with
    | some p => (s.part p).flowmax.setWidth 64
    | none => 0
  | .psel => if sites ≤ k then (s.core k).psel.setWidth 64 else match s.partOf k with
    | some p => BitVec.ofNat 64 p
    | none => 0
  | .gscyc => (s.core k).gscyc
  | .gstx => (s.core k).gstx
  | .gsrx => (s.core k).gsrx

/-- A CSR that only a service core may write (11 R214). -/
def csrPriv : Csr → Bool
  | .migctl => true
  | .pbase => true
  | .plen => true
  | .pflowmax => true
  | .psel => true
  | _ => false

/-- Writing 0b00 to a failed entry discards it; any other write is ignored (01 Table 1-5). -/
def Ctx.writeLog (y : Ctx) (e : Fin 8) (v : Word) : Ctx :=
  let x := y.log.get e
  if x.state = .failed ∧ bits v 0 2 = 0 then y.setLog e { x with state := .free, cause := 0 } else y

/-- The effect of writing a value to a CSR (11 R214): RO CSRs and RO fields ignore it. -/
def State.csrPut (s : State) (k c : Nat) (v : Word) : Csr → State
  | .st => let y := s.ctx k c; s.setCtx k c { y with st := stWrite y.st v }
  | .lc0 => s.setCtx k c { s.ctx k c with lc0 := bits v 0 16 }
  | .lc1 => s.setCtx k c { s.ctx k c with lc1 := bits v 0 16 }
  | .tvec => if (s.ctx k c).flag stHLP then s else s.setCore k { s.core k with tvec := (bits v 0 48).setWidth 64 }
  | .tpc => s.setTrapCtx k c { s.trapCtx k c with tpc := (bits v 0 48).setWidth 64 }
  | .tcause => s.setTrapCtx k c { s.trapCtx k c with tcause := (bits v 0 17).setWidth 64 }
  | .taddr => s.setTrapCtx k c { s.trapCtx k c with taddr := v }
  | .tval => s.setTrapCtx k c { s.trapCtx k c with tval := v }
  | .log e => let s1 := s.setCtx k c ((s.ctx k c).writeLog e.toFin v); s1.sendHeld k c
  | .vcnt j =>
    let x := s.vdev (s.vdevOf k c)
    s.setVdev (s.vdevOf k c) { x with vcnt := x.vcnt.set j.toNat v j.isLt }
  | .migctl =>
    let x := s.cluster (clusOf k)
    s.setCluster (clusOf k) { x with migctl := v &&& 0xFFFF01FF }
  | .pbase => match s.pslot k with
    | some p => s.resize p (bits v 0 20).toNat (s.part p).len
    | none => s
  | .plen => match s.pslot k with
    | some p => s.resize p (s.part p).base (bits v 0 20).toNat
    | none => s
  | .pflowmax => match s.pslot k with
    | some p => s.setPart p { s.part p with flowmax := if bits v 0 14 = 0 then 1 else bits v 0 14 }
    | none => s
  | .psel => s.setCore k { s.core k with psel := bits v 0 10 }
  | .oorf => s
  | .oora => s
  | .cyc => s
  | .core => s
  | .flowcyc => s
  | .att _ => s
  | .vtime => s
  | .capid => s
  | .capb => s
  | .capc => s
  | .cload => s
  | .gscyc => s
  | .gstx => s
  | .gsrx => s

/-- A CSR instruction that names `TCAUSE` counts as reading it (11 R209). -/
def Ctx.noteCsr (y : Ctx) (r : Csr) : Ctx := if r = .tcause then { y with causeRead := true } else y

/-- A writing form: the CSR becomes `f old A`, then A the old value (11 R214). A CSR marked S counts as a function marked S: in a
flow phase a user's write of it faults with PRIV before ILLCTX (02 R48; DESIGN CHOICE, entry 64). -/
def csrWriteOp (i : Instr) (r : Csr) (f : Word → Word → Word) (s : State) : Out :=
  run i { priv := csrPriv r } s.here s fun s =>
    let old := s.csrGet s.k s.c r
    let s1 := s.csrPut s.k s.c (f old s.me.a) r
    s1.retire (((s1.ctx s.k s.c).noteCsr r).setA old)

def execCsrr (r : Csr) (s : State) : Out :=
  run (.csrr r) {} s.here s fun s => s.retire ((s.me.noteCsr r).setA (s.csrGet s.k s.c r))
def execCsrw (r : Csr) (s : State) : Out := csrWriteOp (.csrw r) r (fun _ a => a) s
def execCsrs (r : Csr) (s : State) : Out := csrWriteOp (.csrs r) r (fun old a => old ||| a) s
def execCsrc (r : Csr) (s : State) : Out := csrWriteOp (.csrc r) r (fun old a => old &&& ~~~a) s

end Sys2Proof.Machine
end

