-- ==== Sys2Proof/Machine/Fetch.lean ====
section
/-! DEFINITION. Fetching an instruction word (02 R34 to R37, 19 R284, R285): the resident region, the I-cache, and
refills from the code cache and G space. -/

namespace Sys2Proof.Machine

/-- The resident copy that serves a context's launch in its cluster (19 R284). -/
def State.residentOf (s : State) (k c : Nat) : Option Resident :=
  match s.taskOf k c with
  | some t => (s.cluster (clusOf k)).resident.find? fun r => decide (r.launch = t.launch)
  | none => none

/-- Whether a resident region holds an address. -/
def Resident.holds (r : Resident) (a : Addr) : Bool :=
  decide (r.base ≤ a.toNat) && decide (a.toNat < r.base + 64 * r.lines)

/-- The word at an address of a resident region, found as in `CodeLine.word` (entry 55). -/
def Resident.word (r : Resident) (a : Addr) : W32 := r.words.get 0 ((a.toNat - r.base) / 4)

def codeFind (l : List CodeLine) (v : Nat) (a : Addr) : Option CodeLine :=
  l.find? fun x => decide (x.vdev = v) && decide (x.addr = a.toNat / 64)

/-- The word at an address of a line. Bits [1:0] of a PC are not zero only where `TVEC` or a pointer was written so, and
no rule names a fault for it: the word that contains the byte is fetched (DESIGN CHOICE, entry 55). -/
def CodeLine.word (x : CodeLine) (a : Addr) : W32 := x.words.getD (a.toNat % 64 / 4) 0

/-- A fetch from the I-cache: a line with an uncorrectable error faults (02 R35, 23 R364), a miss waits for a refill. -/
def State.cachedWord (s : State) (k c : Nat) (a : Addr) : Got W32 :=
  match codeFind (s.core k).icache (s.vdevOf k c) a with
  | some x => if x.bad then .bad causeEccunc a else .ok (x.word a)
  | none => .wait (.miss (s.vdevOf k c) a false true)

/-- A context's fetch (02 R35, R37): the resident region, and it alone between a trap and the reading of `TCAUSE`;
else the I-cache. -/
def State.fetchWord (s : State) (k c : Nat) (a : Addr) : Got W32 :=
  let y := s.ctx k c
  match (s.residentOf k c).filter fun r => r.holds a with
  | some r => .ok (r.word a)
  | none => if y.flag stTRP && !y.causeRead then .bad causePagefatal a else s.cachedWord k c a

/-- A translation entry with its rights and its frame, for a fetch (19 R285, R290): from the TLBs, else walked. -/
def State.fetchEntry (s : State) (k v : Nat) (a : Addr) : Option TlbEntry :=
  match s.lookup k v a with
  | some e => if e.ex && decide (0 < (s.frame (frameOf (e.paddr a))).pins) then some e else none
  | none =>
    match s.walk v a with
    | .leaf e => if e.ex then some e else none
    | _ => none

/-- Entries written into the cluster's and the core's TLB by the service core (19 R290). -/
def State.fillTlb (s : State) (k : Nat) (e : TlbEntry) : State :=
  let x := s.cluster (clusOf k)
  let s1 := s.setCluster (clusOf k) { x with tlb := tlbInsert 2048 x.tlb e }
  s1.setCore k { s1.core k with tlb := tlbInsert 32 (s1.core k).tlb e }

/-- The sixteen words of a line at a physical address. -/
def State.lineWords (s : State) (pa : Nat) : List W32 :=
  (List.range 16).map fun i => BitVec.ofNat 32 (Memory.readN s.mem (pa / 64 * 64 + 4 * i) 4)

/-- What the translation of a fetch leaves in the TLBs (19 R290, R291). -/
def State.useFetch (s : State) (k v : Nat) (a : Addr) : State :=
  if (s.lookup k v a).isSome then s.useTlb k v a
  else
    let sv : Node := .core (serviceOf (clusOf k))
    let s1 := (s.asks (.core k) sv .ctrl .ctrl).walked sv v a
    match s.walk v a with
    | .leaf e => s1.fillTlb k e
    | _ => s1

/-- A line for the I-cache: from the code cache, else from G space (02 R35, 19 R285), with whether it came from there. -/
def State.readLine (s : State) (k v : Nat) (a : Addr) : Byte ⊕ (CodeLine × Bool) :=
  match codeFind (s.cluster (clusOf k)).codeCache v a with
  | some x => if x.bad then .inl causeEccunc else .inr (x, false)
  | none =>
    match s.fetchEntry k v a with
    | none => .inl causePagefatal
    | some e =>
      match s.sliceCheck v (e.paddr a) with
      | some c => .inl c
      | none => .inr ({ vdev := v, addr := a.toNat / 64, words := s.lineWords (e.paddr a) }, true)

/-- Whether a line would be read from a page that moves, so that the fetch waits (19 R295). -/
def State.lineMoves (s : State) (k v : Nat) (a : Addr) : Bool :=
  (codeFind (s.cluster (clusOf k)).codeCache v a).isNone && (s.fetchEntry k v a).any fun e => !s.sliceFree (e.paddr a)

/-- What reading a line leaves: nothing where the code cache has it, else the translation. -/
def State.useLine (s : State) (k v : Nat) (a : Addr) : State :=
  if (codeFind (s.cluster (clusOf k)).codeCache v a).isSome then s else s.useFetch k v a

/-- A line entered into the I-cache (64 lines) and, where it was read from G space, into the code cache (8,192 lines); which
line leaves affects only time (19 R285). A fetch of it that was found to have no mapping has one now. -/
def State.fillLine (s : State) (k : Nat) (x : CodeLine) (fresh : Bool) : State :=
  let cl := s.cluster (clusOf k)
  let s1 := if fresh then s.setCluster (clusOf k) { cl with codeCache := (x :: cl.codeCache).take 8192 } else s
  let y := s1.core k
  s1.setCore k { y with
    icache := (x :: y.icache).take 64
    ctxs := y.ctxs.map fun e =>
      if s.vdevOf k e.1 = x.vdev ∧ e.2.codeBad.any fun a => decide (a.toNat / 64 = x.addr) then (e.1, { e.2 with codeBad := none }) else e }

/-- Whether the next word of a context is there, or known to fault (02 R35). -/
def State.fetchable (s : State) (k c : Nat) : Bool :=
  decide ((s.ctx k c).pc = sentinel) ||
    match s.fetchWord k c (s.ctx k c).pc with
    | .wait _ => false
    | _ => true

/-- A word for a flow phase, fetched and locked when the `FLOW` prepares (10 R198): its cause where it fails. The return
sentinel is an `END`, and is not fetched (02 R34). -/
def State.lockWord (s : State) (k c : Nat) (a : Addr) : W32 ⊕ Byte :=
  if a = sentinel then .inl 0
  else
  match s.fetchWord k c a with
  | .ok w => .inl w
  | .bad cause _ => .inr cause
  | .wait _ =>
    match s.readLine k (s.vdevOf k c) a with
    | .inr (x, _) => .inl (x.word a)
    | .inl cause => .inr cause

/-- The 256 words that follow an address, locked (10 R198). -/
def State.lockFrom (s : State) (k c : Nat) (a : Addr) : List (W32 ⊕ Byte) :=
  (List.range 256).map fun i => s.lockWord k c (a + BitVec.ofNat 48 (4 * i))

/-- Where the lines of the 256 words begin that follow an address: what of them must be fetched. -/
def lockedLines (a : Addr) : List Addr :=
  ((List.range 17).map fun i => if i = 0 then a else a / 64 * 64 + BitVec.ofNat 48 (64 * i)).filter fun b =>
    decide (b ≠ sentinel) && decide ((b - a).toNat < 1024)

/-- What the fetch of the locked words leaves in the TLBs (19 R290, R291), and whether it waits for a page that moves. -/
def State.useLocked (s : State) (k c : Nat) (a : Addr) : State :=
  (lockedLines a).foldl (fun s b =>
    match s.fetchWord k c b with
    | .wait _ => s.useLine k (s.vdevOf k c) b
    | _ => s) s
def State.lockMoves (s : State) (k c : Nat) (a : Addr) : Bool :=
  (lockedLines a).any fun b =>
    match s.fetchWord k c b with
    | .wait _ => s.lineMoves k (s.vdevOf k c) b
    | _ => false

/-- A word the decoder rejects faults at its own address (02 R47). -/
def execIllins (w : W32) (s : State) : Out :=
  .next (s.takeTrap s.k s.c { tpc := s.me.pc, cause := causeIllins, addr := s.here, val := w.setWidth 64 })

end Sys2Proof.Machine
end

