-- ==== Sys2Proof/Machine/Tasks.lean ====
section
/-! DEFINITION. Groups and their episodes (10 R195 to R204), the stop of helpers, and the end and the abort of a task
(01 R12, 06 R122 to R124, 10 R189 to R194, 23 R349). -/

namespace Sys2Proof.Machine

/-! ### Groups -/

/-- Whether a core is running for a flow release (10 R200). -/
def State.coreRuns (s : State) (k : Nat) : Bool :=
  let x := s.core k
  decide (x.stop = .running) && x.savedAt.isNone && x.stopReq.isNone && !(x.ctx k 0).absent &&
    ((List.range 12).all fun n => decide ((x.slot n).state ≠ .absent)) && decide ((s.cluster (clusOf k)).power ≠ .drowse) &&
    decide ((s.cluster (clusOf k)).request ≠ some .drowse)

/-- A granted command stops before its next transfer and leaves its path: it keeps what it has done, but a load starts anew
(07 R149, 20 R307). One that has moved everything leaves its path too, and completes when it is granted again. -/
def Cmd.yields (q : Cmd) : Cmd :=
  match q.instr with
  | .mxls _ _ => if q.ran && !q.moved then { q with ran := false, row := 0, got := [], hdrs := [] } else { q with ran := false }
  | _ => { q with ran := false }

/-- The matrix and vector commands of a core stop at their checkpoints (20 R306, R307). -/
def Core.yields (x : Core) : Core :=
  { x with mx := { x.mx with queue := x.mx.queue.map Cmd.yields }, vx := { x.vx with queue := x.vx.queue.map Cmd.yields } }

/-- A member's `FLOW` opens its phase: `FLOWCYC` 0, ST.FLW, no input selected, the next instruction due (10 R198). -/
def State.openFlow (s : State) (k : Nat) : State :=
  let x := s.core k
  let y := x.ctx k 0
  let fl := x.flow.map fun f => { f with opened := true, issued := false, nrxe := 0, misses := [] }
  (s.setCore k ({ x.yields with flow := fl, flowcyc := 0, sel := none, outsNext := [] }.setCtx 0
    ((y.setFlag stFLW true).advance))).count (((x.task.map Task.vdev)).getD 0) 7 1

/-- Whether every member of a group has arrived (10 R196). -/
def Group.allArrived (g : Group) : Bool := !g.members.isEmpty && g.members.all fun m => g.arrived.any fun e => decide (e.1 = m)

/-- The release of a pending `FLOW` episode, once every member runs (10 R198, R200). -/
def State.flowOpen (s : State) (p g : Nat) : State :=
  let gr := (s.part p).group g
  match gr.pending with
  | some n =>
    if gr.allArrived && gr.members.all fun m => s.coreRuns m then
      let s1 := s.setPart p ((s.part p).setGroup g
        { gr with pending := none, arrived := [], phase := some { members := gr.members, going := gr.members, n := n } })
      gr.members.foldl (fun s m => s.openFlow m) s1
    else s
  | none => s

/-- The members' arrivals released: a `BAR` completes when it next issues, a `FLOW` of a mixed episode faults
(10 R196, R197). -/
def State.releaseArrivals (s : State) (arrived : List (Nat × Arrival)) (mixed : Bool) : State :=
  arrived.foldl (fun s e =>
    let y := s.ctx e.1 0
    match e.2 with
    | .bar => s.setCtx e.1 0 { y with hold := y.hold.map fun h => { h with phase := .arrived true false } }
    | .flow _ => s.setCtx e.1 0 { y with hold := y.hold.map fun h => { h with phase := .arrived true mixed } }) s

/-- The episode of a group ends when every member has arrived (10 R196, R197). A `FLOW` episode whose release waits has
not ended: its members are looked at again when they change (10 R200). -/
def State.endEpisode (s : State) (p g : Nat) : State :=
  let gr := (s.part p).group g
  if !gr.allArrived then s
  else
    match gr.arrived.map Prod.snd with
    | Arrival.flow n :: rest =>
      if rest.all fun a => decide (a = .flow n) then
        (s.setPart p ((s.part p).setGroup g { gr with pending := some n })).flowOpen p g
      else (s.setPart p ((s.part p).setGroup g { gr with arrived := [], pending := none })).releaseArrivals gr.arrived true
    | l =>
      (s.setPart p ((s.part p).setGroup g { gr with arrived := [], pending := none })).releaseArrivals gr.arrived
        (l.any fun a => decide (a ≠ .bar))

/-- A core joins, leaves or arrives at a group (10 R195, R196). -/
def State.joinGroup (s : State) (p g k : Nat) : State :=
  let gr := (s.part p).group g
  if gr.members.contains k then s
  else s.setPart p ((s.part p).setGroup g { gr with members := gr.members ++ [k], pending := none })

def State.leaveGroup (s : State) (p g k : Nat) : State :=
  let gr := (s.part p).group g
  let ph := gr.phase.map fun r => { r with going := r.going.filter (· != k) }
  (s.setPart p ((s.part p).setGroup g
    { gr with members := gr.members.filter (· != k), arrived := gr.arrived.filter (fun e => e.1 != k), phase := ph, pending := none })).endEpisode p g

def State.arrive (s : State) (p g k : Nat) (a : Arrival) : State :=
  let gr := (s.part p).group g
  (s.setPart p ((s.part p).setGroup g { gr with arrived := gr.arrived.filter (fun e => e.1 != k) ++ [(k, a)] })).endEpisode p g

/-- A core leaves every group of its partition (10 R195). -/
def State.leaveAll (s : State) (p k : Nat) : State :=
  (s.part p).groups.foldl (fun s e => if e.2.members.contains k then s.leaveGroup p e.1 k else s) s

/-- A member of an open phase whose task is aborted in it: its fault is `FLOWABORT` (11 R211). -/
def State.flowAbort (s : State) (k : Nat) : State :=
  if s.coreFlows k then s.flowFault k causeFlowAbort else s

/-! ### Stopping helpers -/

/-- A helper on its way between cores is taken back; its message still arrives, and brings nothing (10 R193, 21 R314). -/
def State.recallMoving (s : State) (k h : Nat) : State :=
  let x := s.cluster (clusOf k)
  match x.moving.find? (fun m => decide (m.home = k) && decide (m.helper = h)) with
  | some m =>
    let s1 := s.setCluster (clusOf k)
      { x with moving := x.moving.filter fun m => !(decide (m.home = k) && decide (m.helper = h)) }
    let s2 := s1.setCtx k h ((s1.ctx k h).mergeMessage m.ctx)
    { s2 with
      packets := s2.packets.put s2.packetSeq
        { src := .core m.src, dst := .core m.dst, cls := .ctrl, seq := m.seq, level := 0, payload := .plain }
      packetSeq := s2.packetSeq + 1 }
  | none => s

/-- A helper brought back to its task's core, wherever it is (10 R193). -/
def State.recallHelper (s : State) (k h : Nat) : State :=
  match (s.ctx k h).away with
  | some (a, c) => if (s.ctx a c).guest = some (k, h) then (s.bringHome a c).1 else s.recallMoving k h
  | none => s

/-- A hand-over or a release of a bank under way: it has changed state, and must finish (06 R113, R119). -/
def Ctx.bankMidway (y : Ctx) : Bool :=
  match y.phase with
  | some .hovDrain => true
  | some .hovSent => true
  | some (.hovBack _) => true
  | some (.release _) => true
  | some (.zeroing _) => true
  | _ => false

/-- An instruction that must finish before its context can stop: a hand-over or release, or a request that has been sent,
to its slice or to a twin's comparison (10 R191, 23 R352). -/
def Ctx.midway (y : Ctx) : Bool :=
  y.bankMidway ||
    match y.phase with
    | some (.asked _) => true
    | some (.answered _ _) => true
    | some (.twin _ _) => true
    | some (.twinGo _) => true
    | _ => false

/-- Where a helper of a core stands (10 R193). -/
def State.helperAt (s : State) (k h : Nat) : Nat × Nat :=
  match (s.ctx k h).away with
  | some (a, c) => if (s.ctx a c).guest = some (k, h) then (a, c) else (k, h)
  | none => (k, h)

/-- Whether a helper, wherever it is, has an instruction to finish. -/
def State.helperMidway (s : State) (k h : Nat) : Bool := (s.ctx (s.helperAt k h).1 (s.helperAt k h).2).midway

/-- A context stops: nothing is held, a value owed to it is discarded (10 R191). Its log stays until it drains. -/
def Ctx.stopped (y : Ctx) : Ctx := { y with live := false, hold := none, owed := none, away := none, guest := none }

/-- The failed entries of a log discarded (10 R189, R191). -/
def Ctx.discardFailed (y : Ctx) : Ctx :=
  { y with log := Vector.ofFn fun i => if (y.log.get i).state = .failed then {} else y.log.get i }

def Ctx.failedCount (y : Ctx) : Nat := (y.log.toList.filter fun e => decide (e.state = .failed)).length

/-- The live helpers of a core. -/
def Core.liveHelpers (x : Core) : List Nat :=
  (x.ctxs.filter fun e => decide (1 ≤ e.1) && decide (e.1 ≤ 10) && e.2.live && e.2.guest.isNone).map (·.1)

/-- A helper stopped as `HKILL` stops it: reason 1 (10 R191). -/
def State.stopHelper (s : State) (k h : Nat) : State :=
  let s1 := s.recallHelper k h
  let x := (s1.setCtx k h ((s1.ctx k h).stopped)).core k
  (s1.setCore k { x with reasons := x.reasons.put h 1 }).sendHeld k h

/-! ### Readiness -/

/-- A save of the core is under way (23 R359). -/
def Core.saving (x : Core) : Bool :=
  match x.stopReq with
  | some (.save _) => true
  | _ => false

/-- Whether the stop of a helper is under way, by an `HKILL` or by the `END` of its control context, and waits for its next
boundary (10 R189, R191). -/
def State.beingStopped (s : State) (k c : Nat) : Bool :=
  let id := (s.ctx k c).guest.getD (k, c)
  match (s.ctx id.1 0).hold with
  | some { instr := .hkill n, .. } => decide (n.toNat = id.2)
  | some { instr := .endT, .. } => decide (1 ≤ id.2)
  | _ => false

/-- Whether a stop under way keeps a context from its next instruction: a save does not stop the guests of a core, and what
must finish does (11 R222, 23 R352). -/
def Core.stops (x : Core) (y : Ctx) : Bool :=
  !y.midway && (match x.stopReq with
    | none => false
    | some (.save _) => y.guest.isNone
    | some _ => true)

/-- Whether a context may issue or go on at all (18 R268): it is live and here, its core runs and is not saved, no stop under
way keeps it, and no other context of it flows. A flow phase goes on to its end (10 R199). A guest is not part of what a save
stops. -/
def State.enabled (s : State) (k c : Nat) : Bool :=
  let x := s.core k
  let y := x.ctx k c
  y.live && y.away.isNone && decide (x.stop = .running) && decide ((s.cluster (clusOf k)).power = .run) &&
    (y.guest.isSome || x.savedAt.isNone) && (!x.stops y || s.coreFlows k) && (y.midway || !s.beingStopped k c) &&
    (decide (c = 0) || !s.coreFlows k) &&
    ((!s.deviceStopping (s.vdevOf k c) && decide ((s.cluster (clusOf k)).request ≠ some .drowse) && !s.thermal) ||
      y.midway || s.coreFlows k)

/-- Whether a context stands ready to issue (18 R268); in a flow phase its words are locked. -/
def State.standsReady (s : State) (k c : Nat) : Bool :=
  s.enabled k c && (s.ctx k c).hold.isNone && !(s.ctx k c).absent && (s.coreFlows k || s.fetchable k c)

/-- Whether every command of a core has completed (10 R189). -/
def Core.enginesIdle (x : Core) : Bool := x.mx.queue.isEmpty && x.vx.queue.isEmpty && x.cx.queue.isEmpty

/-! ### The end of a task -/

/-- A launch whose completion store has failed (10 R194). -/
def State.doneFailed (s : State) (l : Nat) : State :=
  { s with launches := match s.launches.find l with
      | some x => s.launches.put l { x with failed := some (x.failed.getD 0x04) }
      | none => s.launches }

/-- A doubleword stored for a task's completion, at DEV scope: `none` while its slice lets no access through. Where it fails the
launch fails with DETAIL 0x04 (10 R194). -/
def State.putDone (s : State) (v l : Nat) (a : Addr) (x : Nat) : Option State :=
  let s1 := s.walked (s.deviceNode v) v a
  match s.xlateWalk v a true with
  | some pa =>
    if !s.sliceFree pa then none
    else match (s1.asks (s.deviceNode v) (.slice (sliceOf pa)) .req .rsp).linePut v pa (leBytes 8 x) with
      | .ok s2 => some s2
      | _ => some (s1.doneFailed l)
  | none => some (s1.doneFailed l)

/-- The completion doubleword of a task, which may have to wait (10 R194, 19 R295). -/
def State.storeDone (s : State) (t : Task) (x : Nat) : State :=
  if t.done = 0 then s
  else
    match s.putDone t.vdev t.launch t.done x, s.launches.find t.launch with
    | some s1, _ => s1
    | none, some l => { s with launches := s.launches.put t.launch { l with dones := l.dones ++ [(t.done, x)] } }
    | none, none => s

/-- The doublewords of a launch that need not wait any more. -/
def State.payDones (s : State) (l : Nat) : State :=
  match s.launches.find l with
  | some x =>
    x.dones.foldl (fun s e =>
      match s.putDone x.vdev l e.1 e.2 with
      | some s1 => { s1 with launches := match s1.launches.find l with
          | some y => s1.launches.put l { y with dones := y.dones.erase e }
          | none => s1.launches }
      | none => s) s
  | none => s

/-- A task's end counted in its launch; an abort fails the launch with DETAIL 0x06 (18 R274, 23 Table 23-1). -/
def State.countEnd (s : State) (t : Task) (aborted : Bool) : State :=
  match s.launches.find t.launch with
  | some l =>
    let l1 := if t.spawn.isSome then { l with spawned := l.spawned - 1 } else { l with ended := l.ended + 1 }
    let l2 := { l1 with failed := if aborted && !l.killed then some (l.failed.getD 0x06) else l.failed }
    { s with launches := s.launches.put t.launch l2 }
  | none => s

/-- One slot released at the end of a task: the bank returns clean, an absent content is discarded (06 R122). -/
def State.releaseSlot (s : State) (k n : Nat) : State :=
  let sl := s.slot k n
  match sl.state with
  | .attached => ((s.abandonC (clusOf k) sl.bank).returnBank (clusOf k) sl.bank .clean true).setSlot k n {}
  | .transit => (s.returnBank (clusOf k) sl.bank .clean true).setSlot k n {}
  | _ => s.setSlot k n {}

def State.releaseSlots (s : State) (k : Nat) : State := (List.range 12).foldl (fun s n => s.releaseSlot k n) s

/-- Whether a core is free to run again once its task has been aborted: a stop by `DOUBLE` ends there (23 R349). -/
def Core.freed (x : Core) : Bool := decide (x.stop = .running) || decide (x.stop = .double)

/-- What a core keeps when its task has ended: guests stay, and the core's own record is as for a new task. -/
def Core.cleared (x : Core) : Core :=
  { x with
    ctxs := x.ctxs.filter fun e => e.2.guest.isSome
    reasons := [], mx := {}, vx := {}, cx := {}, returns := [], task := none, stopReq := none
    savedAt := none, restoreFrom := none, revoking := false, flow := none, sel := none, outsNext := []
    stop := if x.stop = .double then .running else x.stop, quarantined := x.quarantined || x.suspect, suspect := false }

/-- The resident region of a launch leaves a cluster with the launch's last task there (19 R284). -/
def State.dropResident (s : State) (cl l : Nat) : State :=
  let used := s.cores.any fun e => decide (clusOf e.1 = cl) && (e.2.task.map Task.launch) == some l
  if used then s
  else
    let x := s.cluster cl
    s.setCluster cl { x with resident := x.resident.filter fun r => !decide (r.launch = l) }

/-- The save area of a core's task, where one is in force, is done with (23 R356). -/
def State.dropSaved (s : State) (k : Nat) : State :=
  let x := s.core k
  let s1 := match x.savedAt with
    | some a => { s with saved := s.saved.drop a }
    | none => s
  match x.restoreFrom with
  | some a => { s1 with saved := s1.saved.drop a }
  | none => s1

/-- The tier-1 lines that a core's task wrote are nobody's any more: no later context of the core waits for them as its own
(05 R96). -/
def State.ownNone (s : State) (k : Nat) : State :=
  { s with
    through := s.through.map fun t =>
      let stays := match t.who with
        | .ctx c => (s.ctx k c).guest.isSome
        | .copy _ => false
      if t.core = k ∧ stays = false then { t with core := nobody } else t }

/-- Whether the other core of a twin pair still runs a task: the task as a whole has not ended (23 R360). -/
def State.twinRuns (s : State) (t : Task) : Bool :=
  match t.twin with
  | some w => (s.core w.partner).task.map Task.uid == some t.uid
  | none => false

/-- The core is free: its task has ended, normally or by abort. The end of a pair counts once, when its second core
is free, and not where the task is queued again (23 R362). -/
def State.finishTask (s0 : State) (k : Nat) (aborted : Bool) : State :=
  let s := (s0.dropSaved k).ownNone k
  match (s.core k).task with
  | some t =>
    let s1 := s.setCore k (s.core k).cleared
    let s2 := if t.again || s1.twinRuns t then s1
      else (s1.storeDone t (if aborted then 2 else 1)).countEnd t aborted
    s2.dropResident (clusOf k) t.launch
  | none => s.setCore k (s.core k).cleared

/-- The last steps of a task's end (10 R189, items 4 and 5). -/
def State.endTask (s : State) (k : Nat) : State :=
  let s1 := match s.partOf k with
    | some p => s.leaveAll p k
    | none => s
  (s1.releaseSlots k).finishTask k false

/-! ### Abort -/

/-- Whether any store of a core's contexts is still under way. -/
def Core.anyPosted (x : Core) : Bool := x.ctxs.any fun e => e.2.guest.isNone && e.2.anyPosted

/-- A hand-over or release under way on a core that is revoked is finished, its drain set being performed (06 R119, R123,
R124): the status is not seen, and a store that has failed leaves the bank with its sender. A bank that a `DET` was
returning is zeroed and returned clean, as its slot would be (DESIGN CHOICE, entry 54). -/
def State.finishMidway (s : State) (k c : Nat) : State :=
  let y := s.ctx k c
  match y.hovOf, y.hold with
  | some n, some { phase := .hovBack st, .. } => s.hovSlotBack k n st
  | some n, some { phase := .hovDrain, .. } =>
    if s.hovReady k c n then let r := s.hovArrive k c n y.a; r.1.hovSlotBack k n r.2 else s.hovSlotBack k n 1
  | some n, some { phase := .hovSent, .. } => let r := s.hovArrive k c n y.a; r.1.hovSlotBack k n r.2
  | _, some { instr := .closeSlot _, .. } => s
  | _, some { phase := .release b, .. } => s.returnBank (clusOf k) b .clean true
  | _, some { phase := .zeroing b, .. } => s.returnBank (clusOf k) b .clean true
  | _, _ => s

/-- Every open slot of a core closed (06 R122, R123). -/
def State.closeSlots (s : State) (k : Nat) : State :=
  (List.range 12).foldl (fun s n => if (s.slot k n).opened then s.closeSlot k n else s) s

/-- Whether a unit of a copy is under way in a bank of a core, or in one that it releases (06 R122, R123). -/
def State.unitsOn (s : State) (k : Nat) : Bool :=
  let x := s.core k
  let held := (List.range 12).filterMap fun n =>
    if (x.slot n).state = .attached ∨ (x.slot n).state = .transit then some (x.slot n).bank else none
  let left := x.ctxs.filterMap fun e => match e.2.phase with
    | some (.release b) => some b
    | _ => none
  (held ++ left).any fun b => s.unitsIn (clusOf k) b

/-- A revoked core is free once its stores under way are performed or have failed and its running commands have stopped
(06 R123, 23 R350): its slots are closed, and where nothing of their drain sets is left, hand-overs finish, and then the slots
are released. -/
def State.settle (s : State) (k : Nat) : State :=
  let x := s.core k
  if x.revoking && !x.anyPosted && x.enginesIdle then
    let s0 := s.closeSlots k
    if s0.unitsOn k then s0
    else
      let s1 := (List.range 11).foldl (fun s c => if (s.ctx k c).guest.isNone then s.finishMidway k c else s) s0
      (s1.releaseSlots k).finishTask k true
  else s

/-- The revoked cores of a cluster looked at again: a unit of a copy has ended. -/
def State.settleCluster (s : State) (cl : Nat) : State :=
  s.cores.foldl (fun s e => if clusOf e.1 = cl then s.settle e.1 else s) s

/-! ### The answers to stores (05 R98) -/

def State.setEntry (s : State) (k c e : Nat) (x : LogEntry) : State :=
  if h : e < 8 then s.setCtx k c ((s.ctx k c).setLog ⟨e, h⟩ x) else s

/-- An entry's change made in the entry of the same store of the other twin as well (23 R350, R362). -/
def State.setBoth (s : State) (k c e : Nat) (f : LogEntry → LogEntry) : State :=
  let x := s.logEntry k c e
  let s1 := s.setEntry k c e (f x)
  match x.mate with
  | some (j, d, i) => s1.setEntry j d i (f (s1.logEntry j d i))
  | none => s1

/-- A store is over: held releases may go, a measure is sampled (22 R333), and a revoked core may be free. -/
def State.storeOver (s : State) (k c : Nat) : State := ((s.sample (s.vdevOf k c) 0).sendHeld k c).settle k

/-- A failed entry on a core that is being revoked is not reported (23 R350), and a hand-over that waited on it finds that it
failed (06 R119). -/
def State.fail (s : State) (k c e : Nat) : State :=
  let x := s.logEntry k c e
  let s1 := if (s.core k).revoking && (s.ctx k c).hovOf.isNone then s.setEntry k c e {} else s.setEntry k c e { x with state := .failed }
  s1.storeOver k c

/-! ### The inbox (11 R222, 23 R355) -/

/-- Latches brought to a helper of core `k`, wherever it is (10 R193). -/
def State.latchHelper (s : State) (k h : Nat) (b : BitVec 4) : State :=
  let i := s.helperAt k h
  s.setCtx i.1 i.2 ((s.ctx i.1 i.2).latch b s.cyc.toNat)

/-- Whether a packet is the answer to a store, which `STORE_ACKNOWLEDGE` or `LATE_FAULT_REPORT` receives. -/
def Payload.isAck : Payload → Bool
  | .ack _ _ _ => true
  | _ => false

/-- The answer to a store reaches its log entry, and that of the other twin (05 R98, 23 R350). -/
def State.takeAck (s : State) (k c e : Nat) : State :=
  let x := s.logEntry k c e
  match x.state, x.mate with
  | .performed, some (j, d, _) =>
    ((((s.setBoth k c e fun y => { y with state := .free, cause := 0 }).countRx (.core j)).storeOver k c).storeOver j d)
  | .performed, none => (s.setBoth k c e fun y => { y with state := .free, cause := 0 }).storeOver k c
  | .refused, some (j, d, i) => ((s.countRx (.core j)).fail k c e).fail j d i
  | .refused, none => s.fail k c e
  | _, _ => s

/-- What a packet brings to the core that takes it: latches, the answer to a store, or the answer that a context still waits
for. -/
def State.takePayload (s : State) : Payload → State
  | .latch k h b => s.latchHelper k h b
  | .answer k c tag bad v =>
    let y := s.ctx k c
    if y.phase = some (.asked tag) then s.setCtx k c (y.setPhase (.answered bad v)) else s
  | .store _ _ _ => s
  | .lone _ _ _ _ _ => s
  | .ack k c e => s.takeAck k c e
  | .ask _ => s
  | .coll _ => s
  | .copyRead _ _ _ _ _ _ => s
  | .copyData _ _ _ _ => s
  | .copyWrite _ _ _ _ => s
  | .done _ _ _ _ => s
  | .plain => s

/-- The parked packets of a core are taken in the order of their arrival. -/
def State.drainInbox (s : State) (k : Nat) : State :=
  let l := (s.core k).inbox
  l.foldl (fun s p => s.takePayload p.payload) (s.setCore k { s.core k with inbox := [] })

/-- Of the parked packets the answers to stores are taken: a save and an abort wait for them (23 R350, R353). -/
def State.drainAcks (s : State) (k : Nat) : State :=
  let l := (s.core k).inbox
  (l.filter fun p => p.payload.isAck).foldl (fun s p => s.takePayload p.payload)
    (s.setCore k { s.core k with inbox := l.filter fun p => !p.payload.isAck })

/-! ### Commands and contexts at an abort -/

/-- A context stopped by an abort: a hand-over or release keeps what it has to finish. -/
def Ctx.aborted (y : Ctx) : Ctx :=
  if y.bankMidway then { y with live := false, owed := none } else y.stopped.discardFailed

/-- Packets that a twin's router still holds for comparison are discarded with their log entries (23 R362): they have
not entered the network, and their sequence numbers are given again. -/
def State.dropUnchecked (s : State) (k : Nat) : State :=
  (s.packets.filter fun e => !e.2.checked && decide (e.2.src = .core k)).foldl (fun s e =>
    let key := (e.2.src, e.2.dst, e.2.cls)
    let s1 := { s with
      packets := s.packets.drop e.1
      seqOut := seqPut s.seqOut key (min (seqGet s.seqOut key) e.2.seq) }
    match e.2.payload with
    | .store k c i => if h : i < 8 then s1.setCtx k c ((s1.ctx k c).setLog ⟨i, h⟩ {}) else s1
    | _ => s1) s

def isRed : Instr → Bool
  | .rdadd _ _ => true
  | .rdflush _ => true
  | _ => false

/-- Of a range of positions, what lies in rows of `z` bytes of which it is only a part: they have been begun. -/
def begunRows (z : Nat) (e : Nat × Nat) : List (Nat × Nat) :=
  let b := e.1 + e.2
  let a1 := (e.1 + z - 1) / z * z
  let b1 := b / z * z
  (if e.1 % z ≠ 0 then [(e.1, min b a1 - e.1)] else []) ++ (if b % z ≠ 0 ∧ a1 ≤ b1 then [(b1, b - b1)] else [])

/-- A copy that stops at its next row boundary: of what it has not begun nothing is left to it. -/
def Cmd.rowOnly (q : Cmd) (z : Nat) : Cmd := { q with rest := q.rest.flatMap (begunRows z) }

/-- Whether a granted unit is under way. -/
def Cmd.underWay (q : Cmd) : Bool := !q.ran && !q.todo.isEmpty

/-- Whether a copy has moved a part of a row. The secondary of a pair sends nothing of its own (23 R362). -/
def Core.copyMidRow (x : Core) : Bool :=
  match x.cx.queue with
  | q :: _ =>
    !q.ran && !isRed q.instr && (!q.todo.isEmpty || !(q.rowOnly ((x.cx.cv.get 0) &&& 0xFFFFFF).toNat).rest.isEmpty) &&
      (x.task.bind Task.twin).all Twin.primary
  | [] => false

/-- Whether a unit of a core's copy engine is under way, and whether an access of it is that a slice has not answered. -/
def Core.copyMoving (x : Core) : Bool := x.cx.queue.any fun q => q.underWay || q.started
def Core.copyBusy (x : Core) : Bool := x.copyMoving || x.cx.queue.any fun q => !isRed q.instr && decide (q.acked < q.pos)

/-- Commands that have not started are discarded, and running ones stop at their next row boundary (06 R123): the matrix and
vector units stand at one between two steps, a copy goes on to the end of its row. On a saved core nothing runs. -/
def Core.dropCommands (x : Core) : Core :=
  { x with
    mx := { x.mx with queue := [] }, vx := { x.vx with queue := [] }
    cx := { x.cx with queue :=
      if x.copyMidRow && x.savedAt.isNone then (x.cx.queue.take 1).map fun q => q.rowOnly ((x.cx.cv.get 0) &&& 0xFFFFFF).toNat else [] } }

/-- What is parked at a core whose task is aborted: the core takes it, but for a core that stays stopped, which takes the answers
to its stores alone, for the abort waits for them (23 R350). -/
def State.unpark (s : State) (k : Nat) : State :=
  if (s.core k).freed then s.drainInbox k else s.drainAcks k

/-- The abort of the task on one core, in the order of 06 R123. -/
def State.abortCore (s : State) (k : Nat) : State :=
  if (s.core k).task.isNone then s
  else
    let s0 := (s.core k).liveHelpers.foldl (fun s h => s.recallHelper k h) ((s.unpark k).dropUnchecked k)
    let s1 := s0.flowAbort k
    let s2 := match s1.partOf k with
      | some p => s1.leaveAll p k
      | none => s1
    let x := s2.core k
    let s3 := s2.setCore k { x.dropCommands with
      revoking := true
      ctxs := x.ctxs.map fun e => if e.2.guest.isSome then e else (e.1, e.2.aborted) }
    ((List.range 11).foldl (fun s c => s.sendHeld k c) s3).settle k

/-- The abort of a task: on its core, and on its partner where it is a pair (23 R349, R366). -/
def State.abortTask (s : State) (k : Nat) : State :=
  match (s.core k).task with
  | some t =>
    match t.twin with
    | some w => if s.twinRuns t then (s.abortCore k).abortCore w.partner else s.abortCore k
    | none => s.abortCore k
  | none => s

/-! ### Twin mismatches (23 R362, R363) -/

/-- A core of a pair at a mismatch: it is tested before it takes work again. -/
def Core.mismatched (x : Core) (cyc : Nat) (t : Task) : Core :=
  { x with
    testing := true, lastMismatch := some cyc
    mismatchedAgain := x.lastMismatch.any fun m => decide (cyc ≤ m + 2 ^ 40)
    task := some t }

/-- The task queued again, from its start state. -/
def State.requeue (s : State) (t : Task) : State :=
  if t.spawn.isSome then
    s.setPart t.part { s.part t.part with spawned := (s.part t.part).spawned ++ [t] }
  else
    match s.launches.find t.launch with
    | some l => { s with launches := s.launches.put t.launch { l with requeued := l.requeued ++ [t] } }
    | none => s

/-- The service core of a twin's cluster records `TWINMISMATCH` (23 R362). -/
def State.noteMismatch (s : State) (k : Nat) : State :=
  let x := s.cluster (clusOf k)
  s.setCluster (clusOf k) { x with mismatches := x.mismatches ++ [k] }

/-- A mismatch of the pair of core `k`: both twins are aborted, and the task is queued again for other cores; a second
mismatch of the task fails its launch. -/
def State.twinMismatch (s : State) (k : Nat) : State :=
  match (s.core k).task with
  | some t =>
    match t.twin with
    | some w =>
      let j := w.partner
      let second := decide (1 ≤ t.mismatches)
      let mark (t : Task) : Task := { t with again := !second }
      let s1 := s.setCore k ((s.core k).mismatched s.cyc.toNat (mark t))
      let s2 := match (s1.core j).task with
        | some u => s1.setCore j ((s1.core j).mismatched s.cyc.toNat (mark u))
        | none => s1
      let s3 := if second then s2
        else s2.requeue { t with twin := none, mismatches := t.mismatches + 1, avoid := k :: j :: t.avoid }
      (((s3.noteMismatch k).noteMismatch j).abortCore k).abortCore j
    | none => s
  | none => s

/-- The partner that shares a twin's response (23 R362). -/
def State.partner (s : State) : Option Nat :=
  match (s.taskOf s.k s.c).bind Task.twin with
  | some w => if w.primary then some w.partner else none
  | none => none

/-- Whether a twin's request must still wait to be compared (23 R362). -/
def State.twinHolds (s : State) : Bool :=
  ((s.taskOf s.k s.c).bind Task.twin).isSome && !(match s.me.phase with
    | some (.twinGo _) => true
    | _ => false)

/-- Whether a context's request waits for the other twin's. -/
def Ctx.twinWaits (y : Ctx) : Bool :=
  match y.phase with
  | some (.twin _ _) => true
  | _ => false

/-- A twin's request waits to be compared, in the order in which its core has sent to the slice (21 R314). -/
def State.twinWait (s : State) (slice : Nat) : Act :=
  if s.me.twinWaits then .wait (s.me.phase.getD .held) s
  else .wait (.twin s.arrivals slice) { s with arrivals := s.arrivals + 1 }

/-- The partner's context whose request a twin's was found equal to. -/
def State.mateCtx (s : State) : Nat :=
  match s.me.phase with
  | some (.twinGo c) => c
  | _ => s.c

/-- A response received: by the context, and by the other twin's. -/
def State.answer (s : State) (f : Ctx → Ctx) : Act :=
  let s1 := s.setMe (f s.me).advance
  match s.partner with
  | some j =>
    let y := s1.ctx j s.mateCtx
    .done (if y.twinWaits then s1.setCtx j s.mateCtx (f y).advance else s1)
  | none => .done s1

/-- A faulting response, received by both twins. -/
def State.answerBad (s : State) (i : Instr) (cause : Byte) (ea : Addr) : Act :=
  let s1 := match s.partner with
    | some j =>
      let y := s.ctx j s.mateCtx
      if y.twinWaits then s.setCtx j s.mateCtx (y.abandon cause ea) else s
    | none => s
  s1.fault i cause (ea.setWidth 64)

/-! ### Stops (11 R222, R223) -/

/-- A stop recorded at a core (11 R222, 23 R359): the counters, and the cluster woken. -/
def State.recordStop (s : State) (k : Nat) (st : StopState) : State :=
  let x := s.core k
  if x.stop ≠ .running then s
  else if x.savedAt.isSome then
    let at0 := ((x.savedAt.bind fun a => s.saved.find a).map Saved.cyc).getD s.cyc
    s.setCore k { x with stop := st, gscyc := at0, gstx := x.tx, gsrx := x.rx }
  else s.setCore k { x.yields with stop := st, gscyc := s.cyc, gstx := x.tx, gsrx := x.rx, stopReq := none }

/-- A cluster woken to RUN by a stop (22 R344). -/
def State.wake (s : State) (cl : Nat) : State :=
  let x := s.cluster cl
  if x.power = .nap ∨ x.power = .drowse then s.setCluster cl { x with power := .run } else s

/-- The request that a stop leaves at a core which does not stand yet. -/
def StopState.request : StopState → StopReq
  | .gstopped => .gstop
  | .thermal => .heat
  | _ => .halt

/-- Whether every context of a core stands at an instruction boundary or waits, none flows, and its copy engine stands at the
end of a transfer unit (11 R222). -/
def State.stands (s : State) (k : Nat) : Bool :=
  !s.coreFlows k && !(s.core k).copyMoving && !(s.core k).ctxs.any fun e => e.2.midway

/-- A requested stop takes place once the core stands. -/
def State.takeStop (s : State) (k : Nat) : State :=
  match (s.core k).stopReq with
  | some .halt => if s.stands k then s.recordStop k .halted else s
  | some .gstop => if s.stands k then s.recordStop k .gstopped else s
  | some .heat => if s.stands k then s.recordStop k .thermal else s
  | _ => s

/-- A stop reaches a core: a saved one is stopped at once, another once it stands (11 R222, 23 R359). -/
def State.stopCore (s : State) (k : Nat) (st : StopState) : State :=
  let s1 := s.wake (clusOf k)
  let x := s1.core k
  if x.savedAt.isSome then s1.recordStop k st
  else if x.stop ≠ .running then s1
  else if x.stopReq.isSome then s1.takeStop k
  else State.takeStop (s1.setCore k { x with stopReq := some st.request }) k

end Sys2Proof.Machine
end

