-- ==== Sys2Proof/Machine/Memory.lean ====
section
/-! DEFINITION. Loads, stores, full/empty instructions and atomics of the four spaces (05). -/

namespace Sys2Proof.Machine

/-! ### L and C space (05 R87 to R92) -/

/-- Admission in C space: not in a flow phase, and not in a redundant task (05 Table 5-3, 23 R361). -/
def admC : Adm := { twin := false }
/-- Admission in G and W space (05 Table 5-3). -/
def admG : Adm := {}

/-- The alignment check, and then the access (05 R88). -/
def State.aligned (s : State) (i : Instr) (ea : Addr) (z : Size) (body : Act) : Act :=
  if Sys2Proof.Machine.aligned ea z.bytes then body else s.fault i causeMisalign (ea.setWidth 64)

def execLdl (z : Size) (sx : Bool) (m : MemOp 15) (s : State) : Out :=
  run (.ldl z sx m) (admL true) s.here s fun s =>
    let y := s.me
    let ea := eaOf m y
    s.aligned (.ldl z sx m) ea z <|
      (s.lRead s.k y.flowing ea z.bytes).elim s (.ldl z sx m) (ea.setWidth 64) fun v =>
        s.retire (((ptrAfter m y z.bytes).noteRange ea).setA (extend sx z v))

def execStl (z : Size) (m : MemOp 15) (s : State) : Out :=
  run (.stl z m) (admL true) s.here s fun s =>
    let y := s.me
    let ea := eaOf m y
    s.aligned (.stl z m) ea z <|
      (s.lWrite s.k y.flowing ea z.bytes y.a).elim s (.stl z m) (ea.setWidth 64) fun s1 =>
        s1.retire ((ptrAfter m y z.bytes).noteRange ea)

def execLdc (z : Size) (sx : Bool) (m : MemOp 15) (s : State) : Out :=
  run (.ldc z sx m) admC s.here s fun s =>
    let y := s.me
    let ea := eaOf m y
    s.aligned (.ldc z sx m) ea z <|
      (s.cRead s.k (s.vdevOf s.k s.c) ea z.bytes).elim s (.ldc z sx m) (ea.setWidth 64) fun v =>
        s.retire ((ptrAfter m y z.bytes).setA (extend sx z v))

def execStc (z : Size) (m : MemOp 15) (s : State) : Out :=
  run (.stc z m) admC s.here s fun s =>
    let y := s.me
    let ea := eaOf m y
    s.aligned (.stc z m) ea z <|
      (s.cWrite s.k (s.vdevOf s.k s.c) ea z.bytes y.a).elim s (.stc z m) (ea.setWidth 64) fun s1 =>
        s1.retire (ptrAfter m y z.bytes)

/-! ### G and W space (05 R93 to R97) -/

/-- Whether an order waits as a release does, and whether it orders as `.ar` (05 Table 5-4). -/
def orderRel : Order → Bool
  | .rel => true
  | .ar => true
  | _ => false
def orderAcq : Order → Bool
  | .acq => true
  | .ar => true
  | _ => false

/-- The window of a W address (05 R97, 01 Table 1-10). -/
def windowOf (ea : Addr) : Nat := (bits ea 36 12).toNat
def windowOffset (ea : Addr) : Nat := (bits ea 0 36).toNat

/-- The physical address of a W access (05 R97, 22 R337): ungranted or beyond the end is PAGEFATAL, a store under a
read grant too, a revoked grant COVEREVOKED, which a store issued after the revocation takes precisely, as a load does (DESIGN
CHOICE, entry 64); a window being re-keyed makes a new access wait (22 R338). The state of a window is looked up itself and not in
a TLB, whose copies of it R219 and R338 would have removed at every change: a copy could save time only (19 R290, entry 64). -/
def State.xlateWin (s : State) (v : Nat) (ea : Addr) (wr fresh : Bool) : Got Nat :=
  match s.windows.find (windowOf ea) with
  | none => .bad causePagefatal ea
  | some w =>
    match w.holders.find v, w.frames[windowOffset ea / 32768]? with
    | none, _ => .bad causePagefatal ea
    | some _, none => .bad causePagefatal ea
    | some h, some f =>
      if h = .revoked then .bad causeCoveRevoked ea
      else if wr && decide (h = .grantedRead) then .bad causePagefatal ea
      else if w.rekeying && fresh then .wait .held
      else .ok (f * 32768 + windowOffset ea % 32768)

def State.xlateW (s : State) (v : Nat) (ea : Addr) (wr : Bool) : Got Nat := s.xlateWin v ea wr true

/-- The translation of a G access, or of a W access. -/
def State.xlateGW (s : State) (w : Bool) (ea : Addr) (wr : Bool) : Got Nat :=
  if w then s.xlateW (s.vdevOf s.k s.c) ea wr else s.xlate s.k s.c ea wr

/-- What a G or W load or atomic waits for before it is performed (05 R93 to R96): stores of its context to the
line, an `.ar` store under way, the release half of its order, a page that moves, and at SYS a tier-1 line not
yet written through. -/
def State.mustWait (s : State) (w : Bool) (ea : Addr) (pa : Nat) (o : Order) (sc : Scope) : Bool :=
  s.me.postedTo w ea || s.fenced s.k s.c || (orderRel o && !s.releasable s.k s.c sc) ||
    (s.frame (frameOf pa)).moving || (orderAcq o && decide (sc = .sys) && s.lineBehind pa)

/-- What an access of G or W space sends: its size, order and scope, the function of an atomic on the old value and A, and
whether it compares first (05 Tables 5-4, 5-8). -/
structure Access where
  size : Size
  order : Order := .none
  scope : Scope := .part
  fn : Option (Word → Word → Word) := none
  cas : Bool := false

/-- The size of an atomic (05 R86). -/
def amoSize (d64 : Bool) : Size := if d64 then .d else .w

/-- Old and new values compared as signed values of their size (05 Table 5-8). -/
def signedLess (z : Size) (a b : Word) : Bool := decide ((extend true z a).toInt < (extend true z b).toInt)

/-- The access of a G or W load or of a G atomic (05 Table 5-8). -/
def accessOf (i : Instr) : Access :=
  match i with
  | .ldg z _ _ => { size := z }
  | .ldgOrdered z _ o sc _ => { size := z, order := o, scope := sc }
  | .ldw z _ _ => { size := z, order := .ar, scope := .dev }
  | .ldwOrdered z _ _ _ => { size := z, order := .ar, scope := .dev }
  | .amogAdd d o sc _ => { size := amoSize d, order := o, scope := sc, fn := some fun old x => old + x }
  | .amogAnd d o sc _ => { size := amoSize d, order := o, scope := sc, fn := some fun old x => old &&& x }
  | .amogOr d o sc _ => { size := amoSize d, order := o, scope := sc, fn := some fun old x => old ||| x }
  | .amogXor d o sc _ => { size := amoSize d, order := o, scope := sc, fn := some fun old x => old ^^^ x }
  | .amogMin d o sc _ =>
    { size := amoSize d, order := o, scope := sc, fn := some fun old x => if signedLess (amoSize d) x old then x else old }
  | .amogMax d o sc _ =>
    { size := amoSize d, order := o, scope := sc, fn := some fun old x => if signedLess (amoSize d) old x then x else old }
  | .amogMinu d o sc _ =>
    { size := amoSize d, order := o, scope := sc, fn := some fun old x => if x.toNat < old.toNat then x else old }
  | .amogMaxu d o sc _ =>
    { size := amoSize d, order := o, scope := sc, fn := some fun old x => if old.toNat < x.toNat then x else old }
  | .amogSwap d o sc _ => { size := amoSize d, order := o, scope := sc, fn := some fun _ x => x }
  | .amogCas d o sc _ => { size := amoSize d, order := o, scope := sc, fn := some fun _ x => x, cas := true }
  | _ => { size := .b }

/-- An access looks up its translation once, when it issues and after each miss (19 R290, R291); W windows have no TLB
entry. -/
def State.touch (s : State) (w : Bool) (ea : Addr) : State :=
  if w then s
  else
    match s.me.phase with
    | none => s.useTlb s.k (s.vdevOf s.k s.c) ea
    | some (.miss _ _ _ _) => s.useTlb s.k (s.vdevOf s.k s.c) ea
    | _ => s

/-- Why a load or atomic fails at its slice (05 R93, R97, 22 R338). -/
def State.serveFails (s : State) (r : Request) : Option Byte :=
  s.accessFails r.space r.vdev r.pa (accessOf r.instr).fn.isSome

/-- A load or atomic performed at its home slice: the state, and the cause of its failure or the old value (05 R93,
R103). -/
def State.serve (s : State) (r : Request) : State × Option Byte × Word :=
  let x := accessOf r.instr
  match s.serveFails r with
  | some c => (s, some c, 0)
  | none =>
    let old := BitVec.ofNat 64 (Memory.readN s.mem r.pa x.size.bytes)
    match x.fn with
    | none => (s, none, old)
    | some f =>
      if x.cas && old != r.cmp then (s, none, old)
      else
        ((s.gStore r.vdev r.pa x.size.bytes (lowBytes (f old r.a) x.size.bytes).toNat).noteThrough r.core (.ctx r.ctx) r.pa
          (decide (x.order = .ar) && decide (x.scope = .sys)), none, old)

/-- Whether a request reaches its slice and is served in the step that sends it: no packet of its core to the slice, nor of
the slice to the core, is on its way, and none that the slice has taken is for the line (21 R314, R324). -/
def State.wayClear (s : State) (home pa : Nat) : Bool :=
  s.bothWays (.core home) (.slice (sliceOf pa)) .req .rsp && (s.slice (sliceOf pa)).taken.isEmpty

/-- The request of the context that executes. -/
def State.request (s : State) (i : Instr) (w : Bool) (ea : Addr) (pa : Nat) : Request :=
  { home := s.homeOf s.k s.c, core := s.k, ctx := s.c, tag := s.packetSeq, instr := i, vdev := s.vdevOf s.k s.c, space := w,
    ea := ea, pa := pa, a := lowBytes s.me.a (accessOf i).size.bytes, cmp := lowBytes (s.me.ptr 6) (accessOf i).size.bytes }

/-- A load or atomic sent to its home slice (05 R93, R105): served at once where its way is clear, and else under way as a
packet. A twin's is compared first (23 R362), and does not go before its way is clear. `fin` is what the old value does to
the context. -/
def State.sendRequest (s : State) (r : Request) (fin : Word → Ctx → Ctx) : Act :=
  let src : Node := .core r.home
  let dst : Node := .slice (sliceOf r.pa)
  if s.twinHolds then s.twinWait (sliceOf r.pa)
  else if s.wayClear r.home r.pa then
    let x := ((s.count r.vdev 3 1).exchange (r.home :: s.partner.toList) dst .req .rsp).serve r
    match x.2.1 with
    | some c => x.1.answerBad r.instr c r.ea
    | none => (x.1.sample r.vdev 0).answer (fin x.2.2)
  else if ((s.taskOf s.k s.c).bind Task.twin).isSome then .wait (.twinGo s.mateCtx) s
  else
    .wait (.asked r.tag) ((s.count r.vdev 3 1).inject
      { src := src, dst := dst, cls := .req, seq := 0, level := 2, payload := .ask r })

/-- An access of G or W space by the context that executes: one under way waits for its answer and ends with it; else it
issues. -/
def State.underWay (s : State) (i : Instr) (ea : Addr) (fin : Word → Ctx → Ctx) (issue : Act) : Act :=
  match s.me.phase with
  | some (.asked n) => .wait (.asked n) s
  | some (.answered none v) => (s.sample (s.vdevOf s.k s.c) 0).answer (fin v)
  | some (.answered (some c) _) => s.answerBad i c ea
  | _ => issue

/-- The context after a load of G or W space (05 R93). -/
def loadDone {n : Nat} (z : Size) (sx : Bool) (m : MemOp n) (v : Word) (y : Ctx) : Ctx :=
  (ptrAfter m y z.bytes).setA (extend sx z v)

/-- A load of G or W space, performed at the home slice (05 R93, R97). -/
def loadGW (i : Instr) (w : Bool) (z : Size) (sx : Bool) (o : Order) (sc : Scope) {n : Nat} (m : MemOp n) (s : State) : Out :=
  run i admG s.here s fun s =>
    let ea := eaOf m s.me
    s.underWay i ea (loadDone z sx m) <|
      s.aligned i ea z <|
        (s.xlateGW w ea false).elim (s.touch w ea) i (ea.setWidth 64) fun pa =>
          if s.mustWait w ea pa o sc then .wait .held (s.touch w ea)
          else (s.touch w ea).sendRequest (s.request i w ea pa) (loadDone z sx m)

def execLdg (z : Size) (sx : Bool) (m : MemOp 15) (s : State) : Out := loadGW (.ldg z sx m) false z sx .none .part m s
def execLdgOrdered (z : Size) (sx : Bool) (o : Order) (sc : Scope) (m : MemOp 13) (s : State) : Out :=
  loadGW (.ldgOrdered z sx o sc m) false z sx o sc m s
def execLdw (z : Size) (sx : Bool) (m : MemOp 15) (s : State) : Out := loadGW (.ldw z sx m) true z sx .ar .dev m s
def execLdwOrdered (z : Size) (sx : Bool) (o : Order) (m : MemOp 13) (s : State) : Out :=
  loadGW (.ldwOrdered z sx o m) true z sx .ar .dev m s

/-- A store of G or W space: translated at issue, then posted (05 R94, R95, R97). -/
def storeGW (i : Instr) (w : Bool) (z : Size) (o : Order) (sc : Scope) {n : Nat} (m : MemOp n) (s : State) : Out :=
  run i admG s.here s fun s =>
    let y := s.me
    let ea := eaOf m y
    s.aligned i ea z <|
      (s.xlateGW w ea true).elim (s.touch w ea) i (ea.setWidth 64) fun pa =>
        if y.postedTo w ea || s.fenced s.k s.c then .wait .held (s.touch w ea)
        else
          match freeEntry y with
          | none => .wait .held (s.touch w ea)
          | some e =>
            let s1 := ((s.touch w ea).count (s.vdevOf s.k s.c) 4 1).setMe (ptrAfter m y z.bytes).advance
            .done (s1.post s.k s.c e
              { space := w, addr := ea, word := (wordOf i).setWidth 32, data := lowBytes y.a z.bytes, size := z,
                rel := orderRel o, ar := decide (o = .ar), scope := sc, pa := pa })

def execStg (z : Size) (m : MemOp 15) (s : State) : Out := storeGW (.stg z m) false z .none .part m s
def execStgOrdered (z : Size) (o : Order) (sc : Scope) (m : MemOp 13) (s : State) : Out :=
  storeGW (.stgOrdered z o sc m) false z o sc m s
def execStw (z : Size) (m : MemOp 15) (s : State) : Out := storeGW (.stw z m) true z .ar .dev m s
def execStwOrdered (z : Size) (o : Order) (m : MemOp 13) (s : State) : Out :=
  storeGW (.stwOrdered z o m) true z .ar .dev m s

/-! ### Full/empty (05 R99 to R102) -/

/-- Whether another context of the core has waited longer to empty the same granule: waiters of one core are served in
issue order (05 R101). -/
def State.olderTaker (s : State) (b g : Nat) : Bool :=
  let mine := match s.me.hold with
    | some h => h.since
    | none => s.cyc.toNat + 1
  (s.feWaiters (clusOf s.k) b g).any fun w =>
    decide (w.core = s.k) && decide (w.ctx ≠ s.c) && w.form.take && decide (w.since < mine)

/-- The waiting load forms on a granule: A becomes the value once the granule is full, and a `.c` form empties it, when
every waiting `LDLF` and `LDCF` has completed (05 R101). -/
def State.feTake (s : State) (i : Instr) (take : Bool) (z : Size) (ea : Addr) (b : Nat) (y1 : Ctx) : Act :=
  let bk := s.bank (clusOf s.k) b
  let g := granuleOf ea
  if s.timedOut then s.fault i causeTimeout (ea.setWidth 64)
  else if !bk.isFull g || (take && s.olderTaker b g) then .wait (.poll (ea.setWidth 64)) s
  else if bk.isPoison g then s.fault i causeEccunc (ea.setWidth 64)
  else
    let v := granuleRead (bk.granule g) (byteInGranule ea) z.bytes
    let s1 := if take then (s.feReaders (clusOf s.k) b g).setBank (clusOf s.k) b (bk.setFull g false) else s
    s1.retire (y1.setA v)

/-- The L forms: out of range they return 0 at once (05 R99). -/
def feLoadL (i : Instr) (take : Bool) (z : Size) (m : MemOp 12) (s : State) : Out :=
  run i (admL false) s.here s fun s =>
    let y := s.me
    let ea := eaOf m y
    s.aligned i ea z <|
      if outOfRange ea then s.retire (((ptrAfter m y z.bytes).noteRange ea).setA 0)
      else (s.lBank s.k y.flowing ea).elim s i (ea.setWidth 64) fun b => s.feTake i take z ea b (ptrAfter m y z.bytes)

/-- The C forms (05 R91, R99); their bound runs on while the bank's owner flows (05 R100, 10 R199). -/
def feLoadC (i : Instr) (take : Bool) (z : Size) (m : MemOp 12) (s : State) : Out :=
  run i admC s.here s fun s =>
    let y := s.me
    let ea := eaOf m y
    s.aligned i ea z <|
      match s.cBank s.k (s.vdevOf s.k s.c) ea with
      | .wait _ => s.block i (ea.setWidth 64)
      | g => g.elim s i (ea.setWidth 64) fun b => s.feTake i take z ea b (ptrAfter m y z.bytes)

def execLdlf (z : Size) (m : MemOp 12) (s : State) : Out := feLoadL (.ldlf z m) false z m s
def execLdlfC (z : Size) (m : MemOp 12) (s : State) : Out := feLoadL (.ldlfC z m) true z m s
def execLdcf (z : Size) (m : MemOp 12) (s : State) : Out := feLoadC (.ldcf z m) false z m s
def execLdcfC (z : Size) (m : MemOp 12) (s : State) : Out := feLoadC (.ldcfC z m) true z m s

/-- A granule of a bank set full, which releases its waiters, or empty (05 R99, R101). -/
def State.setFullBit (s : State) (cl b g : Nat) (f : Bool) : State :=
  let s1 := s.setBank cl b ((s.bank cl b).setFull g f)
  if f then s1.feFilled cl b g ((s.bank cl b).isFull g) else s1

def execStlf (z : Size) (m : MemOp 12) (s : State) : Out :=
  run (.stlf z m) (admL false) s.here s fun s =>
    let y := s.me
    let ea := eaOf m y
    s.aligned (.stlf z m) ea z <|
      (s.lWrite s.k y.flowing ea z.bytes y.a).elim s (.stlf z m) (ea.setWidth 64) fun s1 =>
        let s2 := if outOfRange ea then s1
          else s1.setFullBit (clusOf s.k) (s.slot s.k (slotOfAddr ea)).bank (granuleOf ea) true
        s2.retire ((ptrAfter m y z.bytes).noteRange ea)

/-- `STCF` also sets the event latch of the bank's holder (11 R215). -/
def execStcf (z : Size) (m : MemOp 12) (s : State) : Out :=
  run (.stcf z m) admC s.here s fun s =>
    let y := s.me
    let ea := eaOf m y
    s.aligned (.stcf z m) ea z <|
      (s.cWrite s.k (s.vdevOf s.k s.c) ea z.bytes y.a).elim s (.stcf z m) (ea.setWidth 64) fun s1 =>
        let s2 := s1.setFullBit (clusOf s.k) (ea.toNat / 4096) (granuleOf ea) true
        .done ((s2.setMe (ptrAfter m y z.bytes).advance).latchBank (clusOf s.k) (ea.toNat / 4096))

/-- `FESET`, `FECLR`, `FETST`: the bit of a granule; out of range nothing, or 0 (05 R99). -/
def feBit (i : Instr) (m : MemOp 12) (s : State) (f : State → Nat → Addr → Ctx → Act) : Out :=
  run i (admL false) s.here s fun s =>
    let y := s.me
    let ea := eaOf m y
    let y1 := (ptrAfter m y 1).noteRange ea
    if outOfRange ea then f s 0x3FF ea y1
    else (s.lBank s.k y.flowing ea).elim s i (ea.setWidth 64) fun b => f s b ea y1

def execFeset (m : MemOp 12) (s : State) : Out :=
  feBit (.feset m) m s fun s b ea y =>
    (if outOfRange ea then s else s.setFullBit (clusOf s.k) b (granuleOf ea) true).retire y
def execFeclr (m : MemOp 12) (s : State) : Out :=
  feBit (.feclr m) m s fun s b ea y =>
    (if outOfRange ea then s else s.setFullBit (clusOf s.k) b (granuleOf ea) false).retire y
def execFetst (m : MemOp 12) (s : State) : Out :=
  feBit (.fetst m) m s fun s b ea y =>
    let v := !outOfRange ea && (s.bank (clusOf s.k) b).isFull (granuleOf ea)
    s.retire (((y.setFlag stZ (!v)).setFlag stN false).setA (BitVec.ofNat 64 (bitNat v)))

/-! ### Atomics (05 R103 to R105) -/

/-- A compare-and-swap names P6 as its pointer: ILLOP (05 R104). -/
def casBad {n : Nat} (cas : Bool) (m : MemOp n) : Bool := cas && decide (m.p = 6)

/-- The context after an atomic (05 R103): A the old value, Pn updated, Z for a compare-and-swap. -/
def amoDone {n : Nat} (cas : Bool) (m : MemOp n) (y : Ctx) (z : Size) (old cmp : Word) : Ctx :=
  let y1 := (ptrAfter m y z.bytes).setA old
  if cas then y1.setFlag stZ (old == cmp) else y1

/-- A G atomic, performed at the home slice (05 R103). -/
def amog (i : Instr) (cas : Bool) (d64 : Bool) (o : Order) (sc : Scope) (m : MemOp 8) (s : State) : Out :=
  run i admG s.here s fun s =>
    let z := amoSize d64
    let ea := eaOf m s.me
    let fin (v : Word) (y : Ctx) : Ctx := amoDone cas m y z v (lowBytes (y.ptr 6) z.bytes)
    if casBad cas m then s.fault i causeIllop (ea.setWidth 64)
    else
      s.underWay i ea fin <|
        s.aligned i ea z <|
          (s.xlateGW false ea true).elim (s.touch false ea) i (ea.setWidth 64) fun pa =>
            if s.mustWait false ea pa o sc then .wait .held (s.touch false ea)
            else (s.touch false ea).sendRequest (s.request i false ea pa) fin

def execAmogAdd (d : Bool) (o : Order) (sc : Scope) (m : MemOp 8) (s : State) : Out :=
  amog (.amogAdd d o sc m) false d o sc m s
def execAmogAnd (d : Bool) (o : Order) (sc : Scope) (m : MemOp 8) (s : State) : Out :=
  amog (.amogAnd d o sc m) false d o sc m s
def execAmogOr (d : Bool) (o : Order) (sc : Scope) (m : MemOp 8) (s : State) : Out :=
  amog (.amogOr d o sc m) false d o sc m s
def execAmogXor (d : Bool) (o : Order) (sc : Scope) (m : MemOp 8) (s : State) : Out :=
  amog (.amogXor d o sc m) false d o sc m s
def execAmogMin (d : Bool) (o : Order) (sc : Scope) (m : MemOp 8) (s : State) : Out :=
  amog (.amogMin d o sc m) false d o sc m s
def execAmogMax (d : Bool) (o : Order) (sc : Scope) (m : MemOp 8) (s : State) : Out :=
  amog (.amogMax d o sc m) false d o sc m s
def execAmogMinu (d : Bool) (o : Order) (sc : Scope) (m : MemOp 8) (s : State) : Out :=
  amog (.amogMinu d o sc m) false d o sc m s
def execAmogMaxu (d : Bool) (o : Order) (sc : Scope) (m : MemOp 8) (s : State) : Out :=
  amog (.amogMaxu d o sc m) false d o sc m s
def execAmogSwap (d : Bool) (o : Order) (sc : Scope) (m : MemOp 8) (s : State) : Out :=
  amog (.amogSwap d o sc m) false d o sc m s
def execAmogCas (d : Bool) (o : Order) (sc : Scope) (m : MemOp 8) (s : State) : Out :=
  amog (.amogCas d o sc m) true d o sc m s

/-- A C atomic, performed at the bank (05 R103, R91). -/
def amoc (i : Instr) (cas : Bool) (d64 : Bool) (m : MemOp 8) (s : State) (f : Word → Word → Word) : Out :=
  run i admC s.here s fun s =>
    let y := s.me
    let z := amoSize d64
    let ea := eaOf m y
    let v := s.vdevOf s.k s.c
    if casBad cas m then s.fault i causeIllop (ea.setWidth 64)
    else
      s.aligned i ea z <|
        (s.cRead s.k v ea z.bytes).elim s i (ea.setWidth 64) fun old =>
          let cmp := lowBytes (y.ptr 6) z.bytes
          let new := lowBytes (f old (lowBytes y.a z.bytes)) z.bytes
          if cas && old != cmp then s.retire (amoDone cas m y z old cmp)
          else (s.cWrite s.k v ea z.bytes new).elim s i (ea.setWidth 64) fun s1 => s1.retire (amoDone cas m y z old cmp)

def execAmocAdd (d : Bool) (m : MemOp 8) (s : State) : Out := amoc (.amocAdd d m) false d m s fun old x => old + x
def execAmocAnd (d : Bool) (m : MemOp 8) (s : State) : Out := amoc (.amocAnd d m) false d m s fun old x => old &&& x
def execAmocOr (d : Bool) (m : MemOp 8) (s : State) : Out := amoc (.amocOr d m) false d m s fun old x => old ||| x
def execAmocSwap (d : Bool) (m : MemOp 8) (s : State) : Out := amoc (.amocSwap d m) false d m s fun _ x => x
def execAmocCas (d : Bool) (m : MemOp 8) (s : State) : Out := amoc (.amocCas d m) true d m s fun _ x => x

end Sys2Proof.Machine
end

