-- ==== Sys2Proof/Machine/System.lean ====
section
/-! DEFINITION. The system instructions (11): software traps, return, events, stops, fetch and translation barriers,
revocation, breaks and counters. The CSR instructions stand in Csr.lean, `CTXSV` and `CTXLD` in Preempt.lean. -/

namespace Sys2Proof.Machine

def execNop (s : State) : Out := run .nop {} s.here s fun s => s.retire s.me

/-- `TRAP n`: `SWTRAP`, with `TPC` at the next instruction (11 R213). -/
def execTrap (n : BitVec 20) (s : State) : Out :=
  run (.trap n) {} s.here s fun s =>
    .trap { tpc := s.me.pc + 4, cause := causeSwtrap, addr := s.here, val := n.setWidth 64 } s

/-- The read of one frame doubleword (11 R212). -/
def State.frameRead (s : State) (ea : Nat) : Got Word := s.lRead s.k false (BitVec.ofNat 48 ea) 8

/-- `ERET` (11 R212). -/
def execEret (s : State) : Out :=
  run .eret {} s.here s fun s =>
    let y := s.me
    let f := (addrOf (y.ptr 6) - 32).toNat
    if !y.flag stTRP then s.fault .eret causeIllop s.here
    else if f % 8 != 0 || 0x1000 < f + 32 then s.fault .eret causeIllop (BitVec.ofNat 64 f)
    else if bits y.tpc 0 2 != 0 then s.fault .eret causeMisalign ((addrOf y.tpc).setWidth 64)
    else
      let ea (d : Nat) : Word := BitVec.ofNat 64 (f + d)
      (s.frameRead f).elim s .eret (ea 0) fun a =>
        (s.frameRead (f + 8)).elim s .eret (ea 8) fun st =>
          (s.frameRead (f + 16)).elim s .eret (ea 16) fun p6 =>
            (s.frameRead (f + 24)).elim s .eret (ea 24) fun p7 => .done (s.setMe (y.leave a st p6 p7))

/-- A after `WAITE`, with Z and N (11 R215). -/
def Ctx.waited (y : Ctx) (got : BitVec 4) : Ctx :=
  let y1 := { y with latches := y.latches &&& ~~~got }
  ((y1.setFlag stZ (got == 0)).setFlag stN false).setA (got.setWidth 64)

/-- `WAITE` (11 R215): a selected latch ends it, and so does the bound before it, with A = 0. -/
def execWaite (m : BitVec 4) (s : State) : Out :=
  run (.waite m) {} s.here s fun s =>
    let y := s.me
    if s.timedOut then s.retire (y.waited 0)
    else if y.latches &&& m != 0 then s.retire (y.waited (y.latches &&& m))
    else .wait (if s.me.phase = some .woken then .woken else .poll 0) s

def execRdtime (s : State) : Out :=
  run .rdtime {} s.here s fun s => s.retire (s.me.setA (s.vdev (s.vdevOf s.k s.c)).vtime)
def execRdcyc (s : State) : Out := run .rdcyc {} s.here s fun s => s.retire (s.me.setA s.cyc)
def execOorclr (s : State) : Out := run .oorclr {} s.here s fun s => s.retire { s.me with oorf := false, oora := 0 }

/-- `MOVRV` (01 R20). -/
def execMovrv (s : State) : Out :=
  run .movrv {} s.here s fun s =>
    let y := s.me
    if y.flag stRVF then s.retire ((y.setFlag stRVF false).setA y.rv)
    else if y.owed.isNone then s.fault .movrv causeIllop s.here
    else .wait .held s

/-! ### Fetch barrier (11 R217) -/

/-- Whether a cluster holds a core of the partition of a core. -/
def State.partCluster (s : State) (k cl : Nat) : Bool :=
  match s.partOf k with
  | some p => (s.part p).cores.any fun j => decide (clusOf j = cl)
  | none => decide (clusOf k = cl)

/-- The clusters a scope reaches from a core: `PART` reaches those of its partition (02 Table 2-2, 11 R219). -/
def State.clusterInScope (s : State) (k : Nat) (whole : Bool) (cl : Nat) : Bool :=
  if whole then s.partCluster k cl || decide (clusOf k = cl) else decide (clusOf k = cl)

/-- The I-caches and the code caches of the clusters in reach discarded (02 Table 2-2). The 256 words that a flow phase has
locked stay locked: no rule has a fetch barrier of another core reach them (DESIGN CHOICE, entry 55). -/
def State.dropCode (s : State) (k : Nat) (whole : Bool) : State :=
  { s with
    cores := s.cores.map fun e => if s.clusterInScope k whole (clusOf e.1) then (e.1, { e.2 with icache := [] }) else e
    clusters := s.clusters.map fun e => if s.clusterInScope k whole e.1 then (e.1, { e.2 with codeCache := [] }) else e }

/-- What serves the next fetches of one core discarded: its I-cache and the code cache of its cluster. -/
def State.dropFetch (s : State) (k : Nat) : State :=
  let s1 := s.setCore k { s.core k with icache := [] }
  s1.setCluster (clusOf k) { s1.cluster (clusOf k) with codeCache := [] }

/-- `ICINV`: the model fetches nothing ahead, and no refill is ever half done. Every fetch within the scope returns
afterwards the word as last written (11 R217), so no scope leaves an older line where the core fetches (entry 16). -/
def execIcinv (sc : ICScope) (s : State) : Out :=
  run (.icinv sc) {} s.here s fun s =>
    let s1 := match sc with
      | .ctx => s.dropFetch s.k
      | .core => s.dropFetch s.k
      | .cluster => s.dropCode s.k false
      | .part => s.dropCode s.k true
    s1.retire s1.me

/-! ### Service-core instructions (11 R218 to R223) -/

/-- Admission of the functions marked S (11 R207). -/
def admS : Adm := { priv := true }

/-- The core a CLOC names in the issuing service core's cluster. -/
def State.target (s : State) (c : BitVec 6) : Nat := coreAt (clusOf s.k) c.toNat

/-- A service-core function: a target out of service completes with A = 1 (11 R207). -/
def serviceOp (i : Instr) (c : BitVec 6) (s : State) (body : State → Nat → Act) : Out :=
  run i admS s.here s fun s =>
    if s.inService (s.target c) then body s (s.target c) else s.retire (s.me.setA 1)

/-- Whether a TLB entry is one that a `TLBINV` removes (11 R219). -/
def TlbEntry.removedBy (e : TlbEntry) (all : Bool) (p5 : Word) : Bool :=
  if all then decide (e.vdev = (bits p5 48 9).toNat) else e.covers (bits p5 48 9).toNat (addrOf p5)

/-- The cores a `TLBINV` scope reaches. -/
def State.tlbScope (s : State) (t : Nat) (sc : TlbScope) (k : Nat) : Bool :=
  match sc with
  | .core => decide (k = t)
  | .cluster => decide (clusOf k = clusOf s.k)
  | .part => s.clusterInScope t true (clusOf k)

/-- The entries removed (11 R219). -/
def State.tlbRemove (s : State) (t : Nat) (sc : TlbScope) (all : Bool) (p5 : Word) : State :=
  { s with
    cores := s.cores.map fun x =>
      if s.tlbScope t sc x.1 then (x.1, { x.2 with tlb := x.2.tlb.filter fun e => !e.removedBy all p5 }) else x
    clusters := s.clusters.map fun x =>
      if (match sc with
        | .core => false
        | .cluster => decide (x.1 = clusOf s.k)
        | .part => s.clusterInScope t true x.1) then
        (x.1, { x.2 with tlb := x.2.tlb.filter fun e => !e.removedBy all p5 })
      else x }

/-- The device of a reduction packet's core. -/
def State.collVdev (s : State) : CollItem → Nat × Nat
  | .add k _ _ _ _ _ _ _ _ => (k, ((s.core k).task.map Task.vdev).getD 0)
  | .flush k _ v _ _ => (k, v)

/-- Accesses under way whose translation may have used a removed entry (11 R219): stores within the largest page of the
address, and contributions, flushes and copy transfers of the device, which are known by physical address alone. -/
def State.tlbBusy (s : State) (t : Nat) (sc : TlbScope) (all : Bool) (p5 : Word) : Bool :=
  let v := (bits p5 48 9).toNat
  let item (i : CollItem) : Bool := s.tlbScope t sc (s.collVdev i).1 && decide ((s.collVdev i).2 = v)
  (s.cores.any fun x => s.tlbScope t sc x.1 && x.2.ctxs.any fun y =>
    decide (s.vdevOf x.1 y.1 = v) && ((match y.2.phase with
      | some (.asked _) => true
      | _ => false) ||
      y.2.log.toList.any fun e => e.busy && !e.space && (all || decide (e.addr.toNat / 2 ^ 28 = (addrOf p5).toNat / 2 ^ 28)))) ||
    (s.slices.any fun x => x.2.coll.any item) ||
    s.packets.any fun e => match e.2.payload with
      | .coll i => item i
      | .copyRead k _ u _ _ w => !w && s.tlbScope t sc k && decide (u = v)
      | .copyWrite k _ u w => !w.space && s.tlbScope t sc k && decide (u = v)
      | _ => false

/-- `TLBINV` (11 R219): what has been sent with a removed entry completes first. A copy translates each granule when it
moves it. -/
def execTlbinv (a : Bool) (c : BitVec 6) (sc : TlbScope) (s : State) : Out :=
  run (.tlbinv a c sc) admS s.here s fun s =>
    let t := s.target c
    if sc ≠ .cluster ∧ s.inService t = false then s.retire (s.me.setA 1)
    else
      let s1 := s.tlbRemove t sc a (s.me.ptr 5)
      if s1.tlbBusy t sc a (s.me.ptr 5) then .wait .held s1 else s1.retire s1.me

/-- `REVOKE` (11 R220): complete when the core is free; A = 1 where no task was held there. -/
def execRevoke (c : BitVec 6) (s : State) : Out :=
  serviceOp (.revoke c) c s fun s t =>
    let wait (s1 : State) : Act :=
      if (s1.core t).revoking then .wait (.revoking true) s1 else s1.retire (s1.me.setA 0)
    match s.me.hold with
    | some { phase := .revoking _, .. } => wait s
    | _ =>
      if (s.core t).task.isNone then s.retire (s.me.setA 1)
      else if !s.settled (.core s.k) (.core t) .ctrl then .wait .held s
      else wait ((s.pass (.core s.k) (.core t) .ctrl).abortTask t)

def Core.stopped (x : Core) : Bool := decide (x.stop ≠ .running)

/-- `HALT` (11 R222): it waits until the core stands, and first for a save under way (23 R359). -/
def execHalt (r : Bool) (c : BitVec 6) (s : State) : Out :=
  serviceOp (.halt r c) c s fun s t =>
    let x := s.core t
    if r then
      if x.stop = .halted ∨ x.stop = .gstopped then
        let s1 := (s.setCore t { x with stop := .running }).drainInbox t
        s1.retire (s1.me.setA 0)
      else s.retire (s.me.setA 1)
    else if x.saving then .wait .stopping s
    else
      let s1 := s.stopCore t .halted
      if (s1.core t).stopped then s1.retire (s1.me.setA 0) else .wait .stopping s1

/-- The cores of the partition that holds a core, those out of service left out. -/
def State.gang (s : State) (t : Nat) : List Nat :=
  match s.partOf t with
  | some p => (s.part p).cores.filter fun k => s.inService k
  | none => []

/-- The resume of a gang stop: cores stopped by `GSTOP` alone (11 R223). -/
def State.gangResume (s : State) (k : Nat) : State :=
  let x := s.core k
  let q := if x.stopReq = some .gstop then none else x.stopReq
  if x.stop = .gstopped then (s.setCore k { x with stop := .running }).drainInbox k else
    if x.stopReq = q then s else s.setCore k { x with stopReq := q }

/-- `GSTOP` (11 R223). -/
def execGstop (c : BitVec 6) (r : Bool) (s : State) : Out :=
  serviceOp (.gstop c r) c s fun s t =>
    let ks := s.gang t
    if r then
      let s1 := ks.foldl State.gangResume s
      s1.retire (s1.me.setA 0)
    else
      let s1 := ks.foldl (fun s k => if (s.core k).saving then s else s.stopCore k .gstopped) s
      if ks.all fun k => (s1.core k).stopped then s1.retire (s1.me.setA 0) else .wait .stopping s1

/-! ### Breaks (11 R213, 22 R342, R343) -/

/-- The virtual device whose ring takes the records of a virtual device (22 R343). -/
def State.traceDevice (s : State) (v : Nat) : Nat :=
  match s.security with
  | .prod => v
  | .prodLocked => v
  | _ => 0

/-- A trace record (22 R343). -/
def traceRecord (cyc pc : Word) (n : BitVec 20) (sq a : Word) : Nat :=
  cyc.toNat + pc.toNat * 2 ^ 64 + (n.toNat + sq.toNat % 2 ^ 44 * 2 ^ 20) * 2 ^ 128 + a.toNat * 2 ^ 192

/-- The address of the next trace record of a device's ring (22 R343). -/
def State.traceAt (s : State) (v : Nat) : Addr :=
  let x := s.vdev v
  addrOf x.trbase + BitVec.ofNat 48 (32 * (x.trcnt.toNat % 2 ^ x.trsize.toNat))

/-- Whether the record waits at its slice, as while the ring page moves (19 R295). -/
def State.traceWaits (s : State) : Bool :=
  let v := s.traceDevice (s.vdevOf s.k s.c)
  decide ((s.vdev v).trbase ≠ 0) && ((s.xlateWalk v (s.traceAt v) true).any fun pa => !s.sliceFree pa)

/-- A record written into a ring, or dropped and counted (22 R343). -/
def State.trace (s : State) (pc : Word) (n : BitVec 20) (a : Word) : State :=
  let v := s.traceDevice (s.vdevOf s.k s.c)
  let x := s.vdev v
  if x.trbase = 0 then s.setVdev v { x with trdrop := x.trdrop + 1 }
  else
    let s0 := s.walked (.core (serviceOf (clusOf s.k))) v (s.traceAt v)
    let y := s0.vdev v
    match s.xlateWalk v (s.traceAt v) true with
    | none => s0.setVdev v { y with trdrop := y.trdrop + 1 }
    | some pa =>
      let s1 := s0.setVdev v { y with trcnt := y.trcnt + 1 }
      if (s.sliceCheck v pa).isSome then s1
      else (s1.gStore v pa 32 (traceRecord s.cyc pc n x.trcnt a)).noteThrough nobody (.ctx 0) pa false

/-- `DBRK` (11 R213): by the debug state of the module. A stop is told to the cluster's service core. -/
def execDbrk (n : BitVec 20) (s : State) : Out :=
  run (.dbrk n) {} s.here s fun s =>
    match s.debug with
    | .none => .trap { tpc := s.me.pc + 4, cause := causeBreak, addr := s.here, val := n.setWidth 64 } s
    | .trace => if s.traceWaits then .wait .held s else let s1 := s.trace s.here n s.me.a; s1.retire s1.me
    | .halt =>
      let s1 := (s.setMe s.me.advance).stopCore s.k .halted
      let x := s1.cluster (clusOf s.k)
      .done (s1.setCluster (clusOf s.k) { x with breaks := x.breaks ++ [s.k] })

/-! ### Repair of late faults (11 R216) -/

/-- `REISSUE`: the entry's store issued again, in its new place (11 R216); a release that it held back may then go. -/
def execReissue (e : BitVec 3) (s : State) : Out :=
  run (.reissue e) admG s.here s fun s =>
    let y := s.me
    let x := y.log.get e.toFin
    let i : Instr := .reissue e
    if x.state ≠ .failed then s.fault i causeIllop (e.setWidth 64)
    else
      (s.xlateGW x.space x.addr true).elim (s.touch x.space x.addr) i (x.addr.setWidth 64) fun pa =>
        if y.postedTo x.space x.addr || s.fenced s.k s.c then .wait .held (s.touch x.space x.addr)
        else
          let s1 := ((s.touch x.space x.addr).count (s.vdevOf s.k s.c) 4 1).setMe y.advance
          .done ((s1.post s.k s.c e.toFin { x with cause := 0, pa := pa, mate := none }).sendHeld s.k s.c)

end Sys2Proof.Machine
end

