-- ==== Sys2Proof/Machine/Engine.lean ====
section
/-! DEFINITION. What the matrix, vector and copy engines share: enqueueing with its footprint check, reads and writes
of banks by commands, engine errors, completions, and the values returned to RV (01 R20, 07 R126 to R131, 08 R151
to R156). -/

namespace Sys2Proof.Machine

/-- The three engines of a core. -/
inductive Engine where
  | mx | vx | cx
  deriving DecidableEq, Repr

def Core.queueOf (x : Core) : Engine → List Cmd
  | .mx => x.mx.queue
  | .vx => x.vx.queue
  | .cx => x.cx.queue

def Core.setQueue (x : Core) (e : Engine) (q : List Cmd) : Core :=
  match e with
  | .mx => { x with mx := { x.mx with queue := q } }
  | .vx => { x with vx := { x.vx with queue := q } }
  | .cx => { x with cx := { x.cx with queue := q } }

/-- Entries of each dispatch queue (07 R126, 08 R151, 09 R172). -/
def Engine.depth : Engine → Nat
  | .mx => 2
  | .vx => 2
  | .cx => 4

def Core.engineAbsent (x : Core) : Engine → Bool
  | .mx => x.mx.absent
  | .vx => x.vx.absent
  | .cx => x.cx.absent

def Core.enqueued (x : Core) : Engine → Nat
  | .mx => x.mx.enqueued
  | .vx => x.vx.enqueued
  | .cx => x.cx.enqueued

def Core.completed (x : Core) : Engine → Nat
  | .mx => x.mx.completed
  | .vx => x.vx.completed
  | .cx => x.cx.completed

/-- An entry appended to a queue, named by the core's command count. -/
def Core.push (x : Core) (e : Engine) (q : Cmd) : Core :=
  let q1 := { q with id := x.cmdSeq, nth := x.enqueued e }
  let x1 := { x with cmdSeq := x.cmdSeq + 1 }
  match e with
  | .mx => { x1 with mx := { x1.mx with queue := x1.mx.queue ++ [q1], enqueued := x1.mx.enqueued + 1 } }
  | .vx => { x1 with vx := { x1.vx with queue := x1.vx.queue ++ [q1], enqueued := x1.vx.enqueued + 1 } }
  | .cx => { x1 with cx := { x1.cx with queue := x1.cx.queue ++ [q1], enqueued := x1.cx.enqueued + 1 } }

/-- `n` entries counted as having left an engine. -/
def Core.leave (x : Core) (e : Engine) (n : Nat) : Core :=
  match e with
  | .mx => { x with mx := { x.mx with completed := x.mx.completed + n } }
  | .vx => { x with vx := { x.vx with completed := x.vx.completed + n } }
  | .cx => { x with cx := { x.cx with completed := x.cx.completed + n } }

/-! ### Footprints (07 R129, 08 R154) -/

/-- The first byte of a footprint that lies outside the window. First is meant in the order of the footprint, which lists the
rows of elements before those of headers; so is the first slot that is not attached (DESIGN CHOICE, entry 57). -/
def footOutside (f : List (Nat × Nat)) : Option Nat :=
  f.findSome? fun r =>
    if r.2 = 0 then none else if 0xC000 ≤ r.1 then some r.1 else if 0xC000 < r.1 + r.2 then some 0xC000 else none

/-- The slots a footprint touches, with the first byte in each. -/
def footSlots (f : List (Nat × Nat)) : List (Nat × Nat) :=
  f.flatMap fun r =>
    if r.2 = 0 then []
    else (List.range ((r.1 + r.2 - 1) / 4096 + 1 - r.1 / 4096)).map fun i =>
      (r.1 / 4096 + i, if i = 0 then r.1 else (r.1 / 4096 + i) * 4096)

/-- The slots with the banks they hold, each once. -/
def State.footBanks (s : State) (k : Nat) (f : List (Nat × Nat)) : List (Nat × Nat) :=
  ((footSlots f).map fun e => (e.1, (s.slot k e.1).bank)).eraseDups

/-- The footprint check of an enqueue, after alignment: window, then slots (07 R129). -/
def State.withFoot (s : State) (i : Instr) (f : List (Nat × Nat)) (body : List (Nat × Nat) → Act) : Act :=
  match footOutside f with
  | some a => s.fault i causeIllop ((BitVec.ofNat 48 a).setWidth 64)
  | none =>
    match (footSlots f).find? (fun e => decide ((s.slot s.k e.1).state ≠ .attached)) with
    | some e =>
      match (s.slot s.k e.1).state with
      | .armed => s.block i (BitVec.ofNat 64 e.2)
      | .absent => .wait (.bankMiss e.1) s
      | _ => s.fault i causeDetached (BitVec.ofNat 64 e.2)
    | none => body (s.footBanks s.k f)

/-- The captured pointers of an entry (07 R126). -/
def State.cmd (s : State) (i : Instr) (a b : PReg) : Cmd :=
  { id := 0, instr := i, ctx := s.c, pc := s.me.pc, pa := s.me.ptr a, pb := s.me.ptr b, since := s.cyc.toNat }

/-- An instruction that enqueues: the engine context must be present (23 R356) and its queue have room; the context
goes on (07 R126). A value-returning one waits while RV is full or a value is owed (01 R20). -/
def State.enqueue (s : State) (e : Engine) (q : Cmd) (returns : Bool) : Act :=
  let x := s.core s.k
  if returns && (s.me.flag stRVF || s.me.owed.isSome) then .wait .held s
  else if e.depth ≤ (x.queueOf e).length then .wait .held s
  else
    let s1 := s.setCore s.k (x.push e q)
    .done (s1.setMe { s1.me.advance with owed := if returns then some x.cmdSeq else s1.me.owed })

/-- Admission of the engine instructions: not in a flow phase, not in a migratable helper (07 R126, 08 R151). -/
def admE : Adm := { mig := false }

/-- The start of an engine instruction: admission, and the engine context present. -/
def engineOp (i : Instr) (e : Engine) (m : Adm) (s : State) (body : State → Act) : Out :=
  run i m s.here s fun s => if (s.core s.k).engineAbsent e then .wait .engineMiss s else body s

/-- The n doublewords of a group register write, read as `LDL.d` would (07 R133). -/
def State.groupRead (s : State) (ea : Addr) : Nat → Got (List Word)
  | 0 => .ok []
  | n + 1 =>
    match s.lRead s.k s.me.flowing ea 8 with
    | .ok v =>
      match s.groupRead (ea + 8) n with
      | .ok l => .ok (v :: l)
      | .bad c a => .bad c a
      | .wait p => .wait p
    | .bad c a => .bad c a
    | .wait p => .wait p

/-- The first of n doublewords whose slot is not attached, else the first: where a wait of a group read stands. -/
def State.groupAt (s : State) (ea : Addr) : Nat → Addr
  | 0 => ea
  | n + 1 =>
    match s.lRead s.k s.me.flowing ea 8 with
    | .ok _ => s.groupAt (ea + 8) n
    | _ => ea

/-- The out-of-range record of a group read (01 R21). -/
def Ctx.noteGroup (y : Ctx) (ea : Addr) : Nat → Ctx
  | 0 => y
  | n + 1 => (y.noteRange ea).noteGroup (ea + 8) n

/-- A group register write: the count, the alignment, the reads, the entry (07 R125, R133, 08 R152, 09 R169).
`regs` is the number of registers, `cls` the class of the entry. -/
def groupWrite (i : Instr) (e : Engine) (m : Adm) (regs : Nat) (cls : BitVec 2) (k : BitVec 4) (n : BitVec 5) (a : PReg)
    (s : State) : Out :=
  engineOp i e m s fun s =>
    let ea := addrOf (s.me.ptr a)
    if regs < k.toNat + n.toNat then s.fault i causeIllop s.here
    else if ea.toNat % 8 ≠ 0 then s.fault i causeMisalign (ea.setWidth 64)
    else
      (s.groupRead ea n.toNat).elim s i ((s.groupAt ea n.toNat).setWidth 64) fun vs =>
        if e.depth ≤ ((s.core s.k).queueOf e).length then .wait .held s
        else
          let s1 := s.setMe (s.me.noteGroup ea n.toNat)
          s1.enqueue e { s1.cmd i a 0 with vals := vs, cls := cls } false

/-- A wait for the commands enqueued so far: none of them stands in the queue any more (07 R148, 08 R165). -/
def State.untilDone (s : State) (e : Engine) : Act :=
  let x := s.core s.k
  let t := match s.me.hold with
    | some { phase := .until t, .. } => t
    | _ => x.enqueued e
  if (x.queueOf e).all fun q => decide (t ≤ q.nth) then s.retire s.me else .wait (.until t) s

/-! ### Banks under a command (07 R130) -/

/-- The bank of a slot that a command was given at its enqueue. -/
def Cmd.bankOf (q : Cmd) (slot : Nat) : Option Nat := (q.banks.find? fun e => decide (e.1 = slot)).map (·.2)

/-- A bank id that no bank has: the slot is still ABSENT (23 R356). -/
def noBank : Nat := 0x3FF

/-- Whether every bank of a command is present. -/
def Cmd.present (q : Cmd) : Bool := q.banks.all fun e => decide (e.2 ≠ noBank)

/-- One byte read by a command; `none` for a poisoned granule. -/
def State.cmdByte (s : State) (k : Nat) (q : Cmd) (ea : Nat) : Option Byte :=
  let bk := s.bank (clusOf k) ((q.bankOf (ea / 4096)).getD noBank)
  let g := ea % 4096 / 16
  if bk.isPoison g then none else some ((bk.granule g >>> (8 * (ea % 16))).setWidth 8)

/-- The bytes a command reads; `none` where a granule is poisoned. -/
def State.cmdRead (s : State) (k : Nat) (q : Cmd) (ea n : Nat) : Option (List Byte) :=
  (List.range n).mapM fun i => s.cmdByte k q (ea + i)

/-- A granule with bytes replaced from an offset. -/
def granulePut (g : Granule) (o : Nat) (bs : List Byte) : Granule :=
  let m : Granule := BitVec.ofNat 128 (2 ^ (8 * bs.length) - 1) <<< (8 * o)
  (g &&& ~~~m) ||| ((BitVec.ofNat 128 (leNat bs) <<< (8 * o)) &&& m)

/-- One granule of a bank written by an engine: its full bit is set, a whole write clears its poison
(07 R130, 19 R296). -/
def Bank.enginePut (b : Bank) (g o : Nat) (bs : List Byte) : Bank :=
  let b1 := (b.setGranule g (granulePut (b.granule g) o bs)).setFull g true
  if bs.length = 16 then b1.setPoison g false else b1

/-- Bytes of one granule of a bank written as a part of what a command writes. A poisoned granule takes them only where the
command writes every byte of it, `whole`, and is good once the last is written (07 R131, 08 R156, 19 R296). -/
def State.putPiece (s : State) (cl b g o : Nat) (bs : List Byte) (whole last : Bool) : Option State :=
  let bk := s.bank cl b
  if bk.isPoison g && !whole then none
  else
    let b1 := bk.enginePut g o bs
    let b2 := if bk.isPoison g && last then b1.setPoison g false else b1
    some (((s.setBank cl b b2).feFilled cl b g (bk.isFull g)).latchBank cl b)

/-- Bytes written by a command, granule by granule; it stops at a poisoned granule that it would write in part. `whole` and
`last` judge the granule at an address, as for one piece. The Boolean tells whether all were written. -/
def State.cmdWrite (s : State) (k : Nat) (q : Cmd) (whole last : Nat → Bool) : Nat → Nat → List Byte → State × Bool
  | 0, _, _ => (s, true)
  | fuel + 1, ea, bs =>
    if bs.isEmpty then (s, true)
    else
      let o := ea % 16
      let n := min (16 - o) bs.length
      let b := (q.bankOf (ea / 4096)).getD noBank
      match s.putPiece (clusOf k) b (ea % 4096 / 16) o (bs.take n) (whole (ea - o)) (last (ea - o)) with
      | some s1 => s1.cmdWrite k q whole last fuel (ea + n) (bs.drop n)
      | none => (s, false)

/-! ### Returned values and completions (01 R20, 11 R215) -/

/-- A value on its way to RV. -/
def State.giveRv (s : State) (k : Nat) (q : Cmd) (v : Word) : State :=
  let x := s.core k
  s.setCore k { x with returns := x.returns ++ [(q.ctx, q.id, v)] }

/-- A returned value arrives: RV is filled, unless nothing is owed for it any more (01 R20). -/
def State.fillRv (s : State) (k c id : Nat) (v : Word) : State :=
  let y := s.ctx k c
  if y.owed = some id then
    s.setCtx k c (Ctx.latch { y.setFlag stRVF true with rv := v, owed := none } 8 s.cyc.toNat)
  else s

/-- The oldest value under way reaches RV. -/
def State.rvStep (s : State) (k : Nat) : State :=
  let x := s.core k
  match x.returns with
  | (c, id, v) :: t => (s.setCore k { x with returns := t }).fillRv k c id v
  | [] => s

def execRvFill (k : Nat) (s : State) : Out := .next (s.rvStep k)

/-- A command that will deliver nothing: its context is owed no more (01 R20). -/
def State.forgive (s : State) (k : Nat) (q : Cmd) : State :=
  let y := s.ctx k q.ctx
  if y.owed = some q.id then s.setCtx k q.ctx { y with owed := none } else s

/-- An entry leaves an engine: it is counted, and the event latched (11 R215). -/
def State.leaves (s : State) (k : Nat) (e : Engine) (n : Nat) : State :=
  if n = 0 then s else s.setCore k (((s.core k).leave e n).latch 4 s.cyc.toNat)

/-- A queue with one entry replaced. -/
def putCmd (l : List Cmd) (q : Cmd) : List Cmd := l.map fun x => if x.id = q.id then q else x

def State.setCmd (s : State) (k : Nat) (e : Engine) (q : Cmd) : State :=
  s.setCore k ((s.core k).setQueue e (putCmd ((s.core k).queueOf e) q))

/-- An entry removed from its queue when it has completed. -/
def State.complete (s : State) (k : Nat) (e : Engine) (q : Cmd) : State :=
  (s.setCore k ((s.core k).setQueue e (((s.core k).queueOf e).filter fun x => x.id != q.id))).leaves k e 1

/-- Contexts held at a wait or at a discarded command take the error's trap at that instruction (07 R131 step 3,
08 R156). -/
def Ctx.errorTrap (y : Ctx) (waits : Instr → Bool) (gone : List Nat) (cause : Byte) (epc : Addr) : Ctx :=
  match y.hold with
  | some { instr := i, phase := .until _, .. } => if waits i then y.abandon cause epc else y
  | some { phase := .verdict id, .. } => if gone.contains id then y.abandon cause epc else y
  | _ => y

/-- The failing command leaves the queue, and every later one that has not begun (07 R131, 08 R156): a stream or a drain that
runs beside a failing load goes on. -/
def State.discardFrom (s : State) (k : Nat) (e : Engine) (q : Cmd) (waits : Instr → Bool) (cause : Byte) : State :=
  let l := (s.core k).queueOf e
  let goes (x : Cmd) : Bool := decide (x.id = q.id) || (decide (q.id < x.id) && !x.started)
  let gone := l.filter goes
  let s1 := gone.foldl (fun s x => s.forgive k x) s
  let ids := gone.map Cmd.id
  let x := (s1.core k).setQueue e (l.filter fun x => !goes x)
  let x1 : Core := { x with ctxs := x.ctxs.map fun y => (y.1, y.2.errorTrap waits ids cause q.pc) }
  (s1.setCore k x1).leaves k e gone.length

/-! ### Arbitration within a quad (20 R304) -/

/-- Whether the engines of a core may go on: not stopped, saved or being saved, not in a flow phase, not aborting
(10 R199, 11 R222, 20 R306). -/
def State.enginesRun (s : State) (k : Nat) : Bool :=
  let x := s.core k
  decide (x.stop = .running) && x.stopReq.isNone && x.savedAt.isNone && !x.revoking && !s.coreFlows k && !s.thermal &&
    !s.deviceStopping (s.vdevOf k 0) && decide ((s.cluster (clusOf k)).power ≠ .drowse)

/-- The cores of a quad in the order of a round-robin after QIDX `last`, with their QIDX. -/
def quadTurn (q last : Nat) : List (Nat × Nat) :=
  let l := (List.range 4).zip (quadCores q)
  l.filter (fun e => decide (last < e.1)) ++ l.filter (fun e => decide (e.1 ≤ last))

end Sys2Proof.Machine
end

