-- ==== Sys2Proof/Machine/Copy.lean ====
section
/-! DEFINITION. The copy engine (09): copies and reductions, their registers, their grants by transfer unit, and the
accumulators of the shore slices (03 R69, 21 R324). -/

namespace Sys2Proof.Machine

/-! ### The register file (09 R172) -/

def cvGet (cv : Vector Word 8) (k : Nat) : Word := cv.toList.getD k 0
def cvBytes (cv : Vector Word 8) : Nat := (bits (cvGet cv 0) 0 24).toNat
def cvRows (cv : Vector Word 8) : Nat := (bits (cvGet cv 1) 0 16).toNat
def cvDs (cv : Vector Word 8) : Int := (bits (cvGet cv 2) 0 32).toInt
def cvSs (cv : Vector Word 8) : Int := (bits (cvGet cv 3) 0 32).toInt
def cvClass (cv : Vector Word 8) : BitVec 2 := bits (cvGet cv 4) 0 2
def cvDev (cv : Vector Word 8) : Nat := (bits (cvGet cv 5) 0 6).toNat
def cvVdev (cv : Vector Word 8) : Nat := (bits (cvGet cv 5) 16 9).toNat
def cvSfmt (cv : Vector Word 8) : Bool := getBit (cvGet cv 6) 0
def cvOfmt (cv : Vector Word 8) : Bool := getBit (cvGet cv 6) 1
def cvDet (cv : Vector Word 8) : Bool := getBit (cvGet cv 6) 2
def cvCount (cv : Vector Word 8) : Nat := (bits (cvGet cv 6) 16 16).toNat
def cvSrcid (cv : Vector Word 8) : Nat := (bits (cvGet cv 6) 32 16).toNat
def cvFail (cv : Vector Word 8) : Bool := getBit (cvGet cv 7) 1

/-- Writable bits of `CV0` to `CV6` (09 Table 9-2). -/
def cvMask : Nat → Word
  | 0 => 0xFFFFFF
  | 1 => 0xFFFF
  | 2 => 0xFFFFFFFF
  | 3 => 0xFFFFFFFF
  | 4 => 3
  | 5 => 0x1FF003F
  | 6 => 0xFFFFFFFF0007
  | _ => 0

/-- A register write: 1 written to FAIL clears the record (09 Table 9-2, R178). -/
def cvPut (cv : Vector Word 8) (k : Nat) (v : Word) : Vector Word 8 :=
  if k = 7 then (if getBit v 1 then cv.set! 7 0 else cv) else cv.set! k (v &&& cvMask k)

/-- The values a `CWR` or `CWRG` writes, from its first register on (09 R169). -/
def cvVals (q : Cmd) : Option (Nat × List Word) :=
  match q.instr with
  | .cwr k _ => some (k.toNat, [q.pa])
  | .cwrg k _ _ => some (k.toNat, q.vals)
  | _ => none

def cvWrites (cv : Vector Word 8) (q : Cmd) : Vector Word 8 :=
  match cvVals q with
  | some (k, vs) => (vs.zip (List.range vs.length)).foldl (fun cv e => cvPut cv (k + e.2) e.1) cv
  | none => cv

/-- `CV7` as it is read: BUSY while commands are queued or executing (09 Table 9-2). -/
def Cx.cv7 (x : Cx) : Word := putBit (cvGet x.cv 7) 0 (!x.queue.isEmpty)

/-- The registers as they stand for a command enqueued now: after the writes queued before it (09 R171, R174). -/
def Cx.ahead (x : Cx) : Vector Word 8 := x.queue.foldl cvWrites x.cv

/-! ### Rows and footprints (09 R173, R174, R180) -/

/-- An address `j` strides on, modulo 2^48. -/
def stepAddr (a : Addr) (j : Nat) (d : Int) : Addr := a + BitVec.ofInt 48 (j * d)

/-- `n` ranges of `z` bytes, a stride apart. -/
def rowsAt (a : Addr) (d : Int) (n z : Nat) : List (Nat × Nat) :=
  if z = 0 then [] else (List.range n).map fun j => ((stepAddr a j d).toNat, z)

/-- Whether one of `n` rows of `z` bytes holds an address. -/
def inRows (a : Addr) (d : Int) (n z : Nat) (ea : Addr) : Bool :=
  (List.range n).any fun j => decide ((ea - stepAddr a j d).toNat < z)

/-- Element sizes of a reduction's source and target, and its source stride (09 R180). -/
def redSrc (cv : Vector Word 8) : Nat := if cvSfmt cv then 2 else 4
def redDst (cv : Vector Word 8) : Nat := if cvOfmt cv then 2 else 4
def redStride (cv : Vector Word 8) : Int := if cvSs cv = 0 then redSrc cv else cvSs cv

/-- The L footprint of a command. -/
def copyFoot (i : Instr) (cv : Vector Word 8) (pa pb : Word) : List (Nat × Nat) :=
  let dst := rowsAt (addrOf pa) (cvDs cv) (cvRows cv) (cvBytes cv)
  let src := rowsAt (addrOf pb) (cvSs cv) (cvRows cv) (cvBytes cv)
  match i with
  | .cg2l _ _ => dst
  | .cc2l _ _ => dst
  | .cw2l _ _ => dst
  | .cl2g _ _ => src
  | .cl2c _ _ => src
  | .cl2w _ _ => src
  | .rdadd _ _ => rowsAt (addrOf pb) (redStride cv) (cvBytes cv) (redSrc cv)
  | _ => []

/-- The alignment that `RDADD` requires: the `TADDR` of its fault (09 R180). -/
def redMisaligned (cv : Vector Word 8) (pa pb : Word) : Option Word :=
  if (addrOf pa).toNat % redDst cv ≠ 0 then some ((addrOf pa).setWidth 64)
  else if (addrOf pb).toNat % redSrc cv ≠ 0 ∨ redStride cv % redSrc cv ≠ 0 then some ((addrOf pb).setWidth 64)
  else none

/-! ### Enqueueing (09 R169, R174) -/

/-- Admission: not in a flow phase nor a migratable helper (09 R169); some not in a redundant task (23 R361). -/
def admCp (twin : Bool) : Adm := { mig := false, twin := twin }

/-- A copy or reduction enqueued with its footprint, which is checked once the queue has room (09 R169, R174). -/
def copyOp (i : Instr) (twin : Bool) (a b : PReg) (s : State) : Out :=
  engineOp i .cx (admCp twin) s fun s =>
    let cv := (s.core s.k).cx.ahead
    let q := s.cmd i a b
    let foot := copyFoot i cv q.pa q.pb
    if Engine.depth .cx ≤ ((s.core s.k).queueOf .cx).length then .wait .held s
    else s.withFoot i foot fun banks => s.enqueue .cx { q with cls := cvClass cv, foot := foot, banks := banks } false

def execCg2l (a b : PReg) (s : State) : Out := copyOp (.cg2l a b) true a b s
def execCl2g (a b : PReg) (s : State) : Out := copyOp (.cl2g a b) true a b s
def execCl2c (a b : PReg) (s : State) : Out := copyOp (.cl2c a b) false a b s
def execCc2l (a b : PReg) (s : State) : Out := copyOp (.cc2l a b) false a b s
def execCw2l (a b : PReg) (s : State) : Out := copyOp (.cw2l a b) true a b s
def execCl2w (a b : PReg) (s : State) : Out := copyOp (.cl2w a b) true a b s
def execCx2g (a b : PReg) (s : State) : Out := copyOp (.cx2g a b) false a b s
def execCg2x (a b : PReg) (s : State) : Out := copyOp (.cg2x a b) false a b s
def execRdflush (a : PReg) (s : State) : Out := copyOp (.rdflush a) true a 0 s

/-- `RDADD` checks the alignment of its addresses before its footprint (09 R180). -/
def execRdadd (a b : PReg) (s : State) : Out :=
  match s.bars (admCp true), redMisaligned (s.core s.k).cx.ahead (s.me.ptr a) (s.me.ptr b) with
  | none, some t =>
    engineOp (.rdadd a b) .cx (admCp true) s fun s => s.fault (.rdadd a b) causeMisalign t
  | _, _ => copyOp (.rdadd a b) true a b s

def execCwr (k : BitVec 4) (a : PReg) (s : State) : Out :=
  engineOp (.cwr k a) .cx (admCp true) s fun s =>
    let q := s.cmd (.cwr k a) a 0
    s.enqueue .cx { q with cls := cvClass (s.core s.k).cx.ahead } false

def execCwrg (k : BitVec 4) (n : BitVec 5) (a : PReg) (s : State) : Out :=
  groupWrite (.cwrg k n a) .cx (admCp true) 8 (cvClass (s.core s.k).cx.ahead) k n a s

/-- The copy commands enqueued before a wait: how many there were, and whether none of them is left. -/
def State.copyWaited (s : State) : Nat × Bool :=
  let x := s.core s.k
  let t := match s.me.hold with
    | some { phase := .until t, .. } => t
    | _ => x.enqueued .cx
  (t, x.cx.queue.all fun q => decide (t ≤ q.nth))

/-- `CV7` as `CWAIT` returns it, with BUSY read as 0, and the record cleared (09 R179). What the commands wrote counts for the
releases of the context that has waited (12 R233). -/
def execCwait (s : State) : Out :=
  engineOp .cwait .cx (admCp true) s fun s =>
    let x := s.core s.k
    if s.me.flag stRVF || s.me.owed.isSome then .wait .held s
    else if !s.copyWaited.2 then .wait (.until s.copyWaited.1) s
    else
      let x1 : Core := { x with cx := { x.cx with cv := x.cx.cv.set! 7 0 }, cmdSeq := x.cmdSeq + 1 }
      let s1 := ((s.setCore s.k x1).giveRv s.k { s.cmd .cwait 0 0 with id := x.cmdSeq } (putBit x.cx.cv7 0 false)).takeThrough
        s.k s.c s.copyWaited.1
      .done (s1.setMe { s1.me.advance with owed := some x.cmdSeq })

def execRdwait (s : State) : Out :=
  engineOp .rdwait .cx (admCp true) s fun s =>
    if s.copyWaited.2 then let s1 := s.takeThrough s.k s.c s.copyWaited.1; s1.retire s1.me
    else .wait (.until s.copyWaited.1) s

/-! ### The two sides of a route (09 R173, R175) -/

/-- The status of a failed command (09 Table 9-4). -/
def copyStatus (c : Byte) : BitVec 4 :=
  if c = causePagefatal then 1 else if c = causeIntegrity then 2 else if c = causeEccunc then 3
  else if c = causeCoveRevoked then 4 else if c = causeIllop then 5 else if c = causeCspace then 6 else 7

/-- One side of a route: L or C space, the G or W space of a virtual device, or another module. -/
inductive Side where
  | l | c | g (v : Nat) | w (v : Nat) | far
  deriving DecidableEq, Repr

/-- The remote end of a route: a device of this module, or another module (09 R175). -/
def remoteSide (cv : Vector Word 8) : Side := if cvDev cv = Config.moduleNumber.toNat then .g (cvVdev cv) else .far

/-- Destination and source of a command of virtual device `v`: a reduction reads L and names elements of G. -/
def copySides (i : Instr) (v : Nat) (cv : Vector Word 8) : Side × Side :=
  match i with
  | .cg2l _ _ => (.l, .g v)
  | .cl2g _ _ => (.g v, .l)
  | .cl2c _ _ => (.c, .l)
  | .cc2l _ _ => (.l, .c)
  | .cw2l _ _ => (.l, .w v)
  | .cl2w _ _ => (.w v, .l)
  | .cx2g _ _ => (.g v, remoteSide cv)
  | .cg2x _ _ => (remoteSide cv, .g v)
  | _ => (.g v, .l)

/-- A valid entry of a device's grant table for a device of a module, with SEND or RECV (24 Table 24-3). -/
def State.granted (s : State) (v m u : Nat) (send : Bool) : Bool :=
  (s.vdev v).rgrant.any fun e =>
    getBit e.2 17 && decide ((bits e.2 0 6).toNat = m) && decide ((bits e.2 6 9).toNat = u) &&
      (if send then getBit e.2 15 else getBit e.2 16)

/-- The host as the peer of a port (entry 63). -/
def hostPeer : Nat := 64

/-- Whether a port leads to a module and is up in both directions (24 R369). A port to another module needs the key that the two
agreed once each had verified the other's report (24 R371). -/
def Port.leads (x : Port) (m : Nat) : Bool :=
  decide (x.peer = some m) && decide (0 < x.out.width) && decide (0 < x.inn.width) && (decide (m = hostPeer) || x.key.isSome)

/-- Whether some port to a module is up, and one that is not being trained anew (24 R369). -/
def State.portUp (s : State) (m : Nat) : Bool := (List.range 32).any fun p => (s.ports.get {} p).leads m
def State.portOpen (s : State) (m : Nat) : Option Nat :=
  (List.range 32).find? fun p =>
    let x := s.ports.get {} p
    x.leads m && !x.out.retraining && !x.inn.retraining

/-- Whether an access of the host arrives now: it waits while the ports that lead to the host retrain, and is lost when they are
down (24 R369). Before the ports are trained, in boot phase 7, the host reaches the admin space all the same (24 R375; DESIGN
CHOICE, entry 63). -/
def State.hostOpen (s : State) : Bool := (s.portOpen hostPeer).isSome
def State.hostReach (s : State) : Bool := s.hostOpen || decide (s.bootPhase < 7)

/-- What an access of the host does, where it arrives. -/
def State.ifReached (s : State) (o : Out) : Out := if s.hostReach then o else .next s

/-- A packet given to a port (24 R368). -/
def State.linkSend (s : State) (p : Nat) (x : LinkPacket) : State :=
  let y := s.ports.get {} p
  { s with ports := s.ports.put p { y with out := { y.out with waiting := y.out.waiting ++ [x] } } }

/-- Whether the part of a route that this module sees is granted and deliverable: the sending device holds SEND and the
receiving one RECV (24 R372); another module's table, and its memory, are that module's. -/
def State.routeOpen (s : State) (v : Nat) (cv : Vector Word 8) (sending : Bool) : Bool :=
  let m := cvDev cv
  decide (m ≤ Config.modulesMinus1.toNat) && s.granted v m (cvVdev cv) sending &&
    (if m = Config.moduleNumber.toNat then s.granted (cvVdev cv) m v (!sending) else s.portUp m)

/-- Whether the route of a command is closed; only a remote one can be. -/
def State.routeClosed (s : State) (i : Instr) (v : Nat) (cv : Vector Word 8) : Bool :=
  match i with
  | .cx2g _ _ => !s.routeOpen v cv false
  | .cg2x _ _ => !s.routeOpen v cv true
  | _ => false

/-- A range cut at the multiples of `m`. -/
def cuts (m : Nat) : Nat → Nat → Nat → List (Nat × Nat)
  | 0, _, _ => []
  | f + 1, a, n => if n = 0 then [] else (a, min n (m - a % m)) :: cuts m f (a + min n (m - a % m)) (n - min n (m - a % m))

/-- The next value after an access that succeeded. -/
def Got.next {α β : Type} (g : Got α) (f : α → Got β) : Got β :=
  match g with
  | .ok x => f x
  | .bad c a => .bad c a
  | .wait p => .wait p

/-- The bytes of the pieces, joined. -/
def gather (l : List (Nat × Nat)) (f : Nat → Nat → Got (List Byte)) : Got (List Byte) :=
  match l with
  | [] => .ok []
  | (a, n) :: t => (f a n).next fun bs => (gather t f).next fun r => .ok (bs ++ r)

/-- An access of the copy engine at its slice waits while the page moves (19 R295), and behind what the slice has taken for the
line (21 R324). -/
def State.copyWay (s : State) (pa : Nat) : Got Nat :=
  if s.sliceFree pa then .ok pa else .wait .held

/-- A G or W address of the copy engine translated (09 R175): a unit under way does not wait for a re-key, which waits for its
command. -/
def State.copyXlate (s : State) (k : Nat) (side : Side) (a : Addr) (wr : Bool) : Got Nat :=
  match side with
  | .g v =>
    (match s.xlateCluster (clusOf k) v a wr with
    | none => .bad causePagefatal a
    | some pa => s.copyWay pa)
  | .w v => (s.xlateWin v a wr false).next s.copyWay
  | _ => .bad causePagefatal a

/-- What a translation of a range of a side leaves in the cluster TLB and in the counters (19 R290). -/
def State.copyTouch (s : State) (k : Nat) (side : Side) (ea n : Nat) : State :=
  match side with
  | .g v => (cuts 32768 2 ea n).foldl (fun s e => s.useCluster (clusOf k) v (BitVec.ofNat 48 e.1)) s
  | _ => s

/-- A piece of one line read at its slice, in G or in W space. -/
def State.sliceRead (s : State) (w : Bool) (v pa n : Nat) : Got (List Byte) :=
  match s.accessFails w v pa false with
  | some c => .bad c (BitVec.ofNat 48 pa)
  | none => .ok ((List.range n).map fun i => Memory.read s.mem (pa + i))

/-- A piece of one line written at its slice: a poisoned line takes it only where the copy writes all of the line, and is good
once the last is written (19 R297). -/
def State.sliceWrite (s : State) (k : Nat) (m : Maker) (v : Nat) (w : LineWrite) : Got State :=
  let l := s.line (lineOf w.pa)
  let s0 := if w.whole && l.poison then s.setLine (lineOf w.pa) { l with poison := false } else s
  match s0.accessFails w.space v w.pa true with
  | some c => .bad c (BitVec.ofNat 48 w.pa)
  | none =>
    let s1 := (s0.gStore v w.pa w.bytes.length (leNat w.bytes)).noteThrough k m w.pa false
    .ok (if l.poison && !w.last then s1.setLine (lineOf w.pa) { s1.line (lineOf w.pa) with poison := true } else s1)

/-- A bank that a transfer unit has reached: the access to it waits only for the end of its holder's flow phase (06 R112, 09 R175,
R176). -/
def State.inReach (s : State) (k : Nat) (ea : Addr) : Got Nat :=
  let b := ea.toNat / 4096
  match (s.bank (clusOf k) b).state with
  | .held h _ => if s.coreFlows h then .wait .held else .ok b
  | _ => .ok b

/-- A granule of a bank, unless it is poisoned. -/
def State.bankGranule (s : State) (k b : Nat) (a : Addr) : Got Granule :=
  let bk := s.bank (clusOf k) b
  if bk.isPoison (a.toNat % 4096 / 16) then .bad causeEccunc a else .ok (bk.granule (a.toNat % 4096 / 16))

/-! ### Copies by transfer unit (09 R171, R173, 12 R226) -/

/-- The bank byte that a C or an L address of a command names: `4096 * bank + offset`. -/
def cByte (ea : Addr) : Nat := ea.toNat
def lByte (q : Cmd) (ea : Addr) : Option Nat := (q.bankOf (ea.toNat / 4096)).map fun b => b * 4096 + ea.toNat % 4096

/-- Whether a byte of a bank lies among the L bytes of `n` rows. -/
def lHolds (q : Cmd) (a : Addr) (d : Int) (n z : Nat) (b : Nat) : Bool :=
  q.banks.any fun e => decide (e.2 = b / 4096) && inRows a d n z (BitVec.ofNat 48 (e.1 * 4096 + b % 4096))

/-- Whether a destination byte is also a source byte, or the reverse, through two devices' tables. -/
def State.overlapG (s : State) (k sv dv : Nat) (cv : Vector Word 8) (q : Cmd) (d u : Addr) : Bool :=
  let n := cvRows cv
  let z := cvBytes cv
  let pd := s.xlateCluster (clusOf k) dv d false
  let pu := s.xlateCluster (clusOf k) sv u false
  decide (cvDev cv = Config.moduleNumber.toNat) &&
    ((List.range n).any fun j => (List.range z).any fun i =>
      let su := stepAddr (addrOf q.pb) j (cvSs cv) + BitVec.ofNat 48 i
      let sd := stepAddr (addrOf q.pa) j (cvDs cv) + BitVec.ofNat 48 i
      (pd.isSome && s.xlateCluster (clusOf k) sv su false == pd) ||
        (pu.isSome && s.xlateCluster (clusOf k) dv sd false == pu))

/-- Whether the byte copied from `u` to `d` is one whose value an overlap of the two sides leaves undefined (09 R173). Between
two addresses of this module's G space the physical addresses are compared. -/
def State.overlaps (s : State) (k v : Nat) (q : Cmd) (cv : Vector Word 8) (d u : Addr) : Bool :=
  let n := cvRows cv
  let z := cvBytes cv
  let src (ea : Addr) : Bool := inRows (addrOf q.pb) (cvSs cv) n z ea
  let dst (ea : Addr) : Bool := inRows (addrOf q.pa) (cvDs cv) n z ea
  match q.instr with
  | .cc2l _ _ =>
    (match lByte q d with
      | some b => src (BitVec.ofNat 48 b)
      | none => false) || lHolds q (addrOf q.pa) (cvDs cv) n z (cByte u)
  | .cl2c _ _ =>
    lHolds q (addrOf q.pb) (cvSs cv) n z (cByte d) ||
      (match lByte q u with
        | some b => dst (BitVec.ofNat 48 b)
        | none => false)
  | .cx2g _ _ => s.overlapG k (cvVdev cv) v cv q d u
  | .cg2x _ _ => s.overlapG k v (cvVdev cv) cv q d u
  | _ => false

/-- The bytes that a copy moves, or the elements of a reduction, and the positions of them that are not yet granted. -/
def copyTotal (cv : Vector Word 8) (q : Cmd) : Nat := if isRed q.instr then cvBytes cv else cvRows cv * cvBytes cv
def Cmd.begun (q : Cmd) : Bool := decide (0 < q.pos) || !q.todo.isEmpty
def Cmd.left (q : Cmd) (cv : Vector Word 8) : List (Nat × Nat) := if q.begun then q.rest else [(0, copyTotal cv q)]

/-- Destination and source of a position: a byte of a copy, row by row, or an element of a reduction (09 R173, R180). -/
def copyDst (cv : Vector Word 8) (q : Cmd) (p : Nat) : Addr :=
  if isRed q.instr then stepAddr (addrOf q.pa) p (redDst cv)
  else stepAddr (addrOf q.pa) (p / cvBytes cv) (cvDs cv) + BitVec.ofNat 48 (p % cvBytes cv)
def copySrc (cv : Vector Word 8) (q : Cmd) (p : Nat) : Addr :=
  if isRed q.instr then stepAddr (addrOf q.pb) p (redStride cv)
  else stepAddr (addrOf q.pb) (p / cvBytes cv) (cvSs cv) + BitVec.ofNat 48 (p % cvBytes cv)

/-- The transfer unit of a range to which a position of it belongs: up to 256 bytes of a row, which end at a multiple of 256 of
the destination, or up to 64 elements (09 R171). -/
def unitOf (cv : Vector Word 8) (q : Cmd) (r : Nat × Nat) (p : Nat) : Nat × Nat :=
  let lo := if isRed q.instr then p / 64 * 64 else max (p / cvBytes cv * cvBytes cv) (p - (copyDst cv q p).toNat % 256)
  let hi := if isRed q.instr then p / 64 * 64 + 64
    else min (p / cvBytes cv * cvBytes cv + cvBytes cv) (p + 256 - (copyDst cv q p).toNat % 256)
  (max lo r.1, min hi (r.1 + r.2) - max lo r.1)

/-- One of `n` choices that the manual leaves open. -/
def State.choose (s : State) (n i : Nat) : Nat := if n ≤ 1 then 0 else (Config.freeWord (s.fresh + i)).toNat % n

/-- The unit granted next: the rows and units of a command are performed in no promised order (09 R173). -/
def State.copyUnit (s : State) (q : Cmd) (cv : Vector Word 8) : Nat × Nat :=
  let l := q.left cv
  let r := l.getD (s.choose l.length 1000) (0, 0)
  let u := unitOf cv q r r.1
  if u = r then u else unitOf cv q r (r.1 + s.choose r.2 1001)

/-- The pieces of a unit: the bytes of one 16-byte granule of the destination, which a copy moves in one step (12 R226); one
element; or all of what goes to another module in one packet (24 R367). -/
def unitPieces (cv : Vector Word 8) (q : Cmd) (far : Bool) (u : Nat × Nat) : List (Nat × Nat) :=
  let d := (copyDst cv q u.1).toNat
  if isRed q.instr then (List.range u.2).map fun i => (u.1 + i, 1)
  else if far then [u]
  else (cuts 16 18 d u.2).map fun e => (u.1 + (e.1 - d), e.2)

/-- Ranges without those of another. -/
def rangesLess (l : List (Nat × Nat)) (u : Nat × Nat) : List (Nat × Nat) :=
  l.flatMap fun r =>
    [(r.1, min (r.1 + r.2) u.1 - r.1), (max r.1 (u.1 + u.2), r.1 + r.2 - max r.1 (u.1 + u.2))].filter fun e => decide (0 < e.2)

/-- A command with a unit granted. -/
def Cmd.granted (q : Cmd) (cv : Vector Word 8) (u : Nat × Nat) (far : Bool) (banks : List Nat) (cyc : Nat) : Cmd :=
  { q with rest := rangesLess (q.left cv) u, todo := unitPieces cv q far u, row := u.1, reach := banks, since := cyc }

/-- A position that a command has still to move. -/
def Cmd.awaits (q : Cmd) (p : Nat) : Bool := (q.rest ++ q.todo).any fun e => decide (e.1 ≤ p) && decide (p < e.1 + e.2)

/-- Pieces that a command moves no more: moved, or failing with a status (09 R177). -/
def Cmd.without (q : Cmd) (gone : Nat × Nat → Bool) (acks : Nat) (st : BitVec 4) : Cmd :=
  { q with
    todo := q.todo.filter fun e => !gone e
    pos := q.pos + ((q.todo.filter gone).map Prod.snd).sum
    acked := q.acked + acks, status := if q.status = 0 then st else q.status }
def Cmd.failing (q : Cmd) (gone : Nat × Nat → Bool) (st : BitVec 4) : Cmd :=
  q.without gone ((q.todo.filter gone).map Prod.snd).sum st

/-- The granules of its source that a piece reads. -/
def srcGranules (cv : Vector Word 8) (q : Cmd) (src : Side) (e : Nat × Nat) : List Nat :=
  let u := (copySrc cv q e.1).toNat
  match q.instr, src with
  | .rdflush _, _ => []
  | .rdadd _ _, _ => [u / 16]
  | _, .far => []
  | _, _ => (cuts 16 18 u e.2).map fun r => r.1 % 2 ^ 48 / 16

/-- The bytes of a source that have been read, each granule once (07 R130, 09 R174), or sent by another module. -/
def Cmd.srcBytes (q : Cmd) (cv : Vector Word 8) (src : Side) (e : Nat × Nat) : List Byte :=
  let n := if isRed q.instr then redSrc cv else e.2
  if src = .far then (q.got.drop (e.1 - q.row)).take n
  else (List.range n).map fun i =>
    let a := (copySrc cv q e.1 + BitVec.ofNat 48 i).toNat
    (q.srcs.get 0 (a / 16) >>> (8 * (a % 16))).setWidth 8

/-- Whether two ranges of bytes meet, modulo 2^48. -/
def rangesMeet (a : Addr) (l : Nat) (b : Addr) (m : Nat) : Bool :=
  decide (0 < l) && decide (0 < m) && (decide ((b - a).toNat < l) || decide ((a - b).toNat < m))

/-- Whether a copy writes every byte of a range of its destination, and whether it writes some of it beside a piece and after
it. -/
def copyWhole (cv : Vector Word 8) (q : Cmd) (b : Addr) (m : Nat) : Bool :=
  (List.range m).all fun i => inRows (addrOf q.pa) (cvDs cv) (cvRows cv) (cvBytes cv) (b + BitVec.ofNat 48 i)
def copyLater (cv : Vector Word 8) (q : Cmd) (b : Addr) (m : Nat) (e : Nat × Nat) : Bool :=
  let z := cvBytes cv
  (rangesLess (q.rest ++ q.todo) e).any fun r => (List.range (cvRows cv)).any fun j =>
    let lo := max r.1 (j * z)
    let hi := min (r.1 + r.2) (j * z + z)
    decide (lo < hi) && rangesMeet (copyDst cv q lo) (hi - lo) b m

/-- Whether a piece is the last that the command writes to a range: the good end of a poisoned one (19 R296, R297). A failing
command leaves it poisoned. -/
def copyLast (cv : Vector Word 8) (q : Cmd) (b : Addr) (m : Nat) (e : Nat × Nat) : Bool :=
  decide (q.status = 0) && !copyLater cv q b m e

/-- The line write of a piece. -/
def copyLine (cv : Vector Word 8) (q : Cmd) (space : Bool) (e : Nat × Nat) (pa : Nat) (bs : List Byte) : LineWrite :=
  let d := copyDst cv q e.1
  let b := d - BitVec.ofNat 48 (d.toNat % 64)
  { pa := pa, space := space, whole := copyWhole cv q b 64, last := copyLast cv q b 64 e, bytes := bs }

/-- A piece written to a bank: every byte of it lies in one granule. -/
def State.copyPut (s : State) (k : Nat) (cv : Vector Word 8) (q : Cmd) (e : Nat × Nat) (b : Nat) (bs : List Byte) : Got State :=
  let d := copyDst cv q e.1
  let a := d - BitVec.ofNat 48 (d.toNat % 16)
  match s.putPiece (clusOf k) b (d.toNat % 4096 / 16) (d.toNat % 16) bs (copyWhole cv q a 16) (copyLast cv q a 16 e) with
  | some s1 => .ok s1
  | none => .bad causeEccunc d

/-- The bank in which an L address of a command lies. -/
def Cmd.bankAt (q : Cmd) (a : Addr) : Nat := (q.bankOf (a.toNat / 4096)).getD noBank

/-- The bytes at a destination before a piece of a granule, where they can be read. -/
def State.pieceOld (s : State) (k : Nat) (q : Cmd) (side : Side) (d : Addr) (n : Nat) : List Byte :=
  let inBank (b : Nat) : List Byte :=
    let g := (s.bank (clusOf k) b).granule (d.toNat % 4096 / 16)
    (List.range n).map fun i => (g >>> (8 * (d.toNat % 16 + i))).setWidth 8
  match side with
  | .l => inBank (q.bankAt d)
  | .c => inBank (d.toNat / 4096)
  | .far => []
  | _ => match s.copyXlate k side d true with
    | .ok pa => (List.range n).map fun i => Memory.read s.mem (pa + i)
    | _ => []

/-- The bytes that a piece leaves at its destination: undefined where the two sides overlap; where another row has written some
of them, either row's, since rows are performed in no promised order (09 R173). -/
def State.pieceBytes (s : State) (k v : Nat) (q : Cmd) (cv : Vector Word 8) (dst : Side) (e : Nat × Nat) (new : List Byte) : List Byte :=
  let z := cvBytes cv
  let at_ (i : Nat) : Addr := copyDst cv q e.1 + BitVec.ofNat 48 i
  let twice (i : Nat) : Bool := (List.range (cvRows cv)).any fun j =>
    let o := (at_ i - stepAddr (addrOf q.pa) j (cvDs cv)).toNat
    decide (j ≠ e.1 / z) && decide (o < z) && !q.awaits (j * z + o)
  let old := if (List.range new.length).any twice && (Config.freeByte (s.fresh + 256)).getLsbD 0
    then s.pieceOld k q dst (at_ 0) new.length else []
  (List.range new.length).map fun i =>
    if s.overlaps k v q cv (at_ i) (copySrc cv q e.1 + BitVec.ofNat 48 i) then Config.freeByte (s.fresh + 512 + i)
    else if twice i then old.getD i (new.getD i 0)
    else new.getD i 0

/-! ### Pieces that travel (21 R309, R313) -/

/-- The virtual device and the home slice of an access of a side, once translated. -/
def Side.vdev (side : Side) (v : Nat) : Nat :=
  match side with
  | .g u => u
  | .w u => u
  | _ => v

def Side.atSlice : Side → Bool
  | .g _ => true
  | .w _ => true
  | _ => false
def Side.inW : Side → Bool
  | .w _ => true
  | _ => false

/-- The mesh endpoint of a core's copy engine, and the packets it exchanges with a slice. -/
def copyNode (k : Nat) : Node := .copyEngine (clusOf k)

/-- Whether an access of the copy engine crosses to a slice and back in one step. -/
def State.copyClear (s : State) (k pa : Nat) (c : PClass) : Bool :=
  s.bothWays (copyNode k) (.slice (sliceOf pa)) c c

/-- A `COPY` or `COLL` packet sent with the level of its virtual device (21 R313). -/
def State.sendLevel (s : State) (src dst : Node) (c : PClass) (v : Nat) (p : Payload) : State :=
  s.inject
    { src := src, dst := dst, cls := c, seq := 0, payload := p,
      level := if c = .coll then (s.vdev v).collLevel else (s.vdev v).copyLevel }

/-! ### Turns of a command (09 R170, R178) -/

/-- Whether a command moves nothing more: its size in bytes or elements is reached. -/
def copyDone (cv : Vector Word 8) (q : Cmd) : Bool := decide (copyTotal cv q ≤ q.pos)

/-- Values that a command rejects when it executes (09 Table 9-2, R178). -/
def copyRejects (cv : Vector Word 8) (q : Cmd) : Bool :=
  decide (cvClass cv = 3) || (match q.instr with
    | .rdadd _ _ => cvDet cv && decide (cvCount cv = 0)
    | _ => false)

/-- Whether a command has failed: a discarded contribution alone stops nothing (09 R177). -/
def Cmd.fails (q : Cmd) : Bool := decide (q.status ≠ 0) && decide (q.status ≠ 9)

/-- What a turn did: it granted a unit, read a granule of the source for a piece, or moved a piece. -/
inductive CopyAct where
  | unit | read (e : Nat × Nat) (g : Nat) | move (e : Nat × Nat)
  deriving DecidableEq, Repr

/-- What a turn of the engine does to the command at the head of a core's queue: it ends with a status; it goes on, with the
bytes that leave the core; or it waits. -/
inductive CopyTurn where
  | ends (st : BitVec 4) (s : State)
  | goes (s : State) (q : Cmd) (act : CopyAct) (sent : List Byte)
  | waits

/-- A turn at which a piece, or every piece that reads what cannot be read, fails. -/
def State.turnFails (s : State) (q : Cmd) (act : CopyAct) (gone : Nat × Nat → Bool) (c : Byte) (sent : List Byte) : CopyTurn :=
  .goes { s with fresh := s.fresh + 1024 } (q.failing gone (copyStatus c)) act sent

/-- A packet of a copy to or from another module: a request where it carries no data (09 R175, 24 R367). -/
def State.linkCopy (s : State) (k : Nat) (q : Cmd) (cv : Vector Word 8) (a : Addr) (n : Nat) (bs : List Byte) : LinkPacket :=
  { seq := 0, copy := some (k, q.id, n),
    body := some { smod := Config.moduleNumber, dmod := BitVec.ofNat 6 (cvDev cv), vdev := BitVec.ofNat 9 (cvVdev cv),
                   addr := a, tag := BitVec.ofNat 32 (s.fresh % 2 ^ 32), data := bs } }

/-- A packet of a copy given to a port that leads to its module; it waits while the ports retrain (24 R369). -/
def State.linkTurn (s : State) (k : Nat) (q : Cmd) (cv : Vector Word 8) (a : Addr) (n : Nat) (bs : List Byte) : Option State :=
  (s.portOpen (cvDev cv)).map fun p => State.linkSend { s.pass (copyNode k) (.port p) .copy with fresh := s.fresh + 1024 } p (s.linkCopy k q cv a n bs)

/-- Whether a packet to a slice has to wait: for its window, or because a pair sends none of its own (23 R362). -/
def State.copyBarred (s : State) (k pa : Nat) (c : PClass) : Bool :=
  (c = .copy && ((s.core k).task.bind Task.twin).isSome) || !s.windowOpen (copyNode k) (.slice (sliceOf pa)) c

/-- A granule of the source read for a piece: from a bank, or from a slice, which is asked for it where its answer cannot come
at once. Every piece that needs a granule which cannot be read fails. -/
def State.readTurn (s : State) (k v : Nat) (q : Cmd) (cv : Vector Word 8) (src : Side) (e : Nat × Nat) (g : Nat) : CopyTurn :=
  let a : Addr := BitVec.ofNat 48 (16 * g)
  let s0 : State := s.copyTouch k src (16 * g) 16
  let keep (s : State) (x : Granule) : CopyTurn :=
    .goes { s with fresh := s.fresh + 1024 } { q with srcs := q.srcs.put g x, since := s.cyc.toNat } (.read e g) []
  let bad (s : State) (c : Byte) : CopyTurn := s.turnFails q (.read e g) (fun x => (srcGranules cv q src x).contains g) c []
  let take (s : State) (r : Got Granule) : CopyTurn := match r with
    | .ok x => keep s x
    | .bad c _ => bad s c
    | .wait _ => .waits
  match src with
  | .l => take s0 (s0.bankGranule k (q.bankAt a) a)
  | .c => take s0 ((s0.inReach k a).next fun b => s0.bankGranule k b a)
  | .far => .waits
  | _ =>
    match s0.copyXlate k src a false with
    | .bad c _ => bad s0 c
    | .wait _ => .waits
    | .ok pa =>
      if s0.copyClear k pa .copy then
        take s0 ((s0.sliceRead src.inW (src.vdev v) pa 16).next fun bs => .ok (BitVec.ofNat 128 (leNat bs)))
      else if s0.copyBarred k pa .copy then .waits
      else .goes (s0.sendLevel (copyNode k) (.slice (sliceOf pa)) .copy v (.copyRead k q.id (src.vdev v) pa 16 src.inW))
        { q with started := true, asked := some g } (.read e g) []

/-- The bytes of a unit asked of another module, once (09 R175). -/
def State.askTurn (s : State) (k : Nat) (q : Cmd) (cv : Vector Word 8) (e : Nat × Nat) : CopyTurn :=
  match s.linkTurn k q cv (copySrc cv q q.row) (q.todo.map Prod.snd).sum [] with
  | some s1 => .goes s1 { q with started := true } (.read e 0) []
  | none => .waits

/-- A piece written, sent to its slice, or sent to another module. -/
def State.moveTurn (s : State) (k v : Nat) (q : Cmd) (cv : Vector Word 8) (sides : Side × Side) (e : Nat × Nat) : CopyTurn :=
  let d := copyDst cv q e.1
  let new := q.srcBytes cv sides.2 e
  let s0 := s.copyTouch k sides.1 d.toNat e.2
  let bs := s0.pieceBytes k v q cv sides.1 e new
  let moved (s : State) (acks : Nat) : CopyTurn :=
    .goes (({ s with fresh := s.fresh + 1024 }).count v 5 e.2) { q.without (· == e) acks 0 with since := s.cyc.toNat } (.move e) new
  let land (r : Got State) : CopyTurn := match r with
    | .ok s1 => moved s1 e.2
    | .bad c _ => s0.turnFails q (.move e) (· == e) c new
    | .wait _ => .waits
  match sides.1 with
  | .l => land (s0.copyPut k cv q e (q.bankAt d) bs)
  | .c => land ((s0.inReach k d).next fun b => s0.copyPut k cv q e b bs)
  | .far =>
    (match s0.linkTurn k q cv d e.2 new with
    | some s1 => moved s1 0
    | none => .waits)
  | side =>
    match s0.copyXlate k side d true with
    | .bad c _ => s0.turnFails q (.move e) (· == e) c new
    | .wait _ => .waits
    | .ok pa =>
      if s0.copyClear k pa .copy then land (s0.sliceWrite k (.copy q.nth) (side.vdev v) (copyLine cv q side.inW e pa bs))
      else if s0.copyBarred k pa .copy then .waits
      else moved (s0.sendLevel (copyNode k) (.slice (sliceOf pa)) .copy v
        (.copyWrite k q.id (side.vdev v) (copyLine cv q side.inW e pa bs))) 0

/-! ### Reductions (09 R180) -/

/-- A contribution widened exactly to FP32 (03 R58, R69). An FP32 contribution is taken as it stands: one that is a NaN, and the
only one of its element, is written with its sign and payload (DESIGN CHOICE, entry 58). -/
def redWiden (bf16 : Bool) (w : Nat) : W32 :=
  BitVec.ofNat 32 (if bf16 then FFmt.pack .f32 .rne (FFmt.unpack .bf16 w) else w)

/-- The packets that a slice's `COLL` queue holds (21 R315), and four more that escape (21 R316). -/
def collRoom (x : Slice) (esc : Bool) : Bool := decide (x.coll.length < if esc then 68 else 64)

/-- A reduction packet to the home slice of an element: taken at once where its way is clear and the queue has room, and else
under way (21 R309, R315, R324). -/
def State.sendColl (s : State) (k v pa : Nat) (i : CollItem) : State :=
  let sl := sliceOf pa
  let x := s.slice sl
  if s.copyClear k pa .coll && collRoom x false then s.setSlice sl { x with coll := x.coll ++ [i] }
  else s.sendLevel (copyNode k) (.slice sl) .coll v (.coll i)

/-- One element of a reduction sent. -/
def State.redTurn (s : State) (k v : Nat) (q : Cmd) (cv : Vector Word 8) (e : Nat × Nat) : CopyTurn :=
  let uid := ((s.core k).task.map Task.uid).getD 0
  let a := copyDst cv q e.1
  let s0 := s.copyTouch k (.g v) a.toNat 1
  let w := redWiden (cvSfmt cv) (leNat (q.srcBytes cv .l e))
  let item (pa : Nat) : CollItem := match q.instr with
    | .rdadd _ _ => .add k uid q.id pa (cvOfmt cv) (cvDet cv) (cvCount cv) (cvSrcid cv) w
    | _ => .flush k q.id v pa (cvOfmt cv)
  match s0.copyXlate k (.g v) a true with
  | .bad c _ => s0.turnFails q (.move e) (· == e) c (leBytes 4 w.toNat)
  | .wait _ => .waits
  | .ok pa =>
    if s0.copyBarred k pa .coll then .waits
    else
      let s1 := s0.sendColl k v pa (item pa)
      .goes { s1 with fresh := s1.fresh + 1024 } { q.without (· == e) 0 0 with since := s.cyc.toNat } (.move e) (leBytes 4 w.toNat)

/-! ### Grants and turns -/

/-- The banks that a range of a side reaches in C space, each access checked as an `LDC` (09 R175, 05 R91). -/
def State.unitBanks (s : State) (k v : Nat) (side : Side) (a : Addr) (n : Nat) : Got (List Nat) :=
  match side with
  | .c => (cuts 4096 2 a.toNat n).foldl (fun g r => g.next fun l => (s.cBank k v (BitVec.ofNat 48 r.1)).next fun b => .ok (l ++ [b])) (.ok [])
  | _ => .ok []

/-- Whether the first unit of a command waits for the re-key of a window that it would use (09 R175). -/
def State.windowWaits (s : State) (side : Side) (a : Addr) (n : Nat) (wr : Bool) : Bool :=
  match side with
  | .w v => (cuts 32768 2 a.toNat n).any fun r => match s.xlateWin v (BitVec.ofNat 48 r.1) wr true with
    | .wait _ => true
    | _ => false
  | _ => false

/-- A unit granted: its route is looked at, and its accesses to C space reach their banks (09 R175, 24 R372). -/
def State.grantTurn (s : State) (k v : Nat) (q : Cmd) (cv : Vector Word 8) (sides : Side × Side) : CopyTurn :=
  let u := s.copyUnit q cv
  let d := copyDst cv q u.1
  let r := copySrc cv q u.1
  if s.routeClosed q.instr v cv then .ends 7 s
  else if !q.begun && (s.windowWaits sides.1 d u.2 true || s.windowWaits sides.2 r u.2 false) then .waits
  else
    match (s.unitBanks k v sides.1 d u.2).next fun l => (s.unitBanks k v sides.2 r u.2).next fun m => .ok (l ++ m) with
    | .bad c _ => .ends (copyStatus c) s
    | .wait _ => .waits
    | .ok banks =>
      .goes { s with fresh := s.fresh + 1024 } (q.granted cv u (decide (sides.1 = .far)) banks s.cyc.toNat) .unit []

/-- What is done for a piece: a granule of its source that has not been read is read, then it is moved. -/
def State.pieceTurn (s : State) (k v : Nat) (q : Cmd) (cv : Vector Word 8) (sides : Side × Side) (e : Nat × Nat) : CopyTurn :=
  let need := (srcGranules cv q sides.2 e).filter fun g => (q.srcs.find g).isNone
  match need with
  | h :: t => s.readTurn k v q cv sides.2 e ((h :: t).getD (s.choose (t.length + 1) 1003) h)
  | [] =>
    if isRed q.instr then s.redTurn k v q cv e
    else if sides.2 = .far && decide (q.got.length < e.1 + e.2 - q.row) then s.askTurn k q cv e
    else s.moveTurn k v q cv sides e

/-- A turn of a unit under way: for a piece of it, in no promised order, that need not wait (09 R173). -/
def State.unitTurn (s : State) (k v : Nat) (q : Cmd) (cv : Vector Word 8) (sides : Side × Side) : CopyTurn :=
  let i := s.choose q.todo.length 1002
  ((q.todo.drop i ++ q.todo.take i).findSome? fun e => match s.pieceTurn k v q cv sides e with
    | .waits => none
    | t => some t).getD .waits

/-- A turn of the command at the head of a core's copy queue. A failing command stops at the end of its unit (09 R177). -/
def State.copyTurn (s : State) (k : Nat) (q : Cmd) : CopyTurn :=
  let cv := (s.core k).cx.cv
  let v := s.vdevOf k 0
  let sides := copySides q.instr v cv
  let clears := match q.instr with
    | .cwr j _ => decide (j = 7)
    | _ => false
  if cvFail cv && !clears && !q.begun then .ends 8 s
  else
    match cvVals q with
    | some _ =>
      let x := s.core k
      .ends 0 (s.setCore k { x with cx := { x.cx with cv := cvWrites x.cx.cv q } })
    | none =>
      if !q.todo.isEmpty then (if q.started then .waits else s.unitTurn k v q cv sides)
      else if q.fails then .ends q.status s
      else if !q.begun && copyRejects cv q then .ends 5 s
      else if copyDone cv q then .ends 0 s
      else s.grantTurn k v q cv sides

/-- A command that has ended keeps its first status, reads and writes no bank any more, and waits for what is still under way
(09 R177, 06 R112). -/
def Cmd.ended (q : Cmd) (st : BitVec 4) : Cmd :=
  { q with
    ran := true, moved := true, started := false, got := [], srcs := [], status := if q.status = 0 then st else q.status }

/-- A command after a turn: at the end of a unit it holds no bank of C space any more, and ends with its last byte or element,
or failing. -/
def Cmd.after (q : Cmd) (cv : Vector Word 8) : Cmd :=
  if !q.todo.isEmpty then q
  else
    let q1 := { q with reach := [], got := [] }
    if copyDone cv q1 || q1.fails then q1.ended 0 else q1

/-- The head of a core's copy queue, if it may have a turn: access to banks is deferred during a flow phase (09 R176), a unit
under way goes on to its end, and a new one begins only on a core that is not stopped, saved or held (11 R222, 22 R344, R346,
23 R351, R352). The row at which an abort stops a command is finished (06 R123). -/
def State.copyHead (s : State) (k : Nat) : Option Cmd :=
  let x := s.core k
  match x.cx.queue with
  | q :: _ =>
    let begins := decide (x.stop = .running) && x.stopReq.isNone && !x.cx.absent && !s.throttled && !s.thermal &&
      !s.deviceStopping (s.vdevOf k 0) && decide ((s.cluster (clusOf k)).power = .run) &&
      decide ((s.cluster (clusOf k)).request ≠ some .drowse)
    if !q.ran && q.present && x.savedAt.isNone && (q.banks.isEmpty || !s.coreFlows k) &&
      (if x.revoking then x.copyMidRow else q.underWay || begins) then some q else none
  | [] => none

/-- The other twin's head command, where a pair's units are to be performed once (23 R362): `none` for a lone core, and for
one whose task is being aborted. -/
def State.copyMate (s : State) (k : Nat) : Option (Nat × Option Cmd) :=
  if (s.core k).revoking then none
  else
    match (s.core k).task.bind Task.twin with
    | some w => some (w.partner, s.copyHead w.partner)
    | none => none

/-- What the packets of a pair's command show: its route, its remote address and stride, its size, how its units are cut, and
of a reduction its format, mode and source id (23 R362). -/
structure Shown where
  route : Nat
  addr : Addr := 0
  stride : Int := 0
  size : Nat := 0
  rows : Nat := 0
  cut : Nat := 0
  cutStep : Int := 0
  mode : Word := 0
  deriving DecidableEq, Repr

def Cmd.shows (q : Cmd) (cv : Vector Word 8) : Shown :=
  let x : Shown := { route := 6, size := cvBytes cv, rows := cvRows cv }
  let intoL : Shown := { x with
    addr := addrOf q.pb, stride := cvSs cv, cut := (addrOf q.pa).toNat % 256, cutStep := cvDs cv % 256 }
  let outOfL : Shown := { x with addr := addrOf q.pa, stride := cvDs cv }
  match q.instr with
  | .cg2l _ _ => { intoL with route := 0 }
  | .cw2l _ _ => { intoL with route := 1 }
  | .cl2g _ _ => { outOfL with route := 2 }
  | .cl2w _ _ => { outOfL with route := 3 }
  | .rdadd _ _ => { x with route := 4, addr := addrOf q.pa, rows := 0, mode := cvGet cv 6 &&& ~~~1 }
  | .rdflush _ => { x with route := 5, addr := addrOf q.pa, rows := 0, mode := cvGet cv 6 &&& 2 }
  | _ => x

/-- Two twins' commands that agree as far as their packets show. -/
def Cmd.agrees (q p : Cmd) (a b : Vector Word 8) : Bool :=
  decide (q.shows a = p.shows b) && decide (q.pos = p.pos) && decide (q.todo = p.todo)

/-- The end of a row of a command whose task is being aborted: it stops there, and the core may be free (06 R123). -/
def State.copyStopped (s : State) (k : Nat) : State :=
  let x := s.core k
  if x.revoking && !x.copyMidRow then (s.setCore k { x with cx := { x.cx with queue := [] } }).settle k else s

/-- What the end of a unit brings: a sample of its device (22 R333), and the release of its banks (06 R112, R123). -/
def State.unitOver (s : State) (k : Nat) (q q1 : Cmd) : State :=
  if q.todo.isEmpty || !q1.todo.isEmpty then s
  else
    let s1 := if isRed q.instr then s else s.sample (s.vdevOf k 0) 1
    if q.reach.isEmpty then s1 else s1.settleCluster (clusOf k)

/-- A core's command put back after a turn, or after what a packet brought. -/
def State.putTurn (s : State) (k : Nat) (q q1 : Cmd) : State :=
  ((s.setCmd k .cx (q1.after (s.core k).cx.cv)).unitOver k q q1).copyStopped k

/-- A turn taken by a lone core. -/
def State.copyLone (s : State) (k : Nat) (q : Cmd) : Option State :=
  match s.copyTurn k q with
  | .ends st s1 => some ((s1.setCmd k .cx (q.ended st)).copyStopped k)
  | .goes s1 q1 _ _ => some (s1.putTurn k q q1)
  | .waits => none

/-- Turns that need no packet: a register write, the end of a command, or its rejection. -/
def State.copyLocal (s : State) (k : Nat) (q : Cmd) : Bool :=
  let cv := (s.core k).cx.cv
  (cvVals q).isSome || (cvFail cv && !q.begun) || copyDone cv q || (!q.begun && copyRejects cv q) || (q.fails && q.todo.isEmpty)

/-- The granules that a piece of the secondary reads from its own banks. -/
def State.mateReads (s : State) (j : Nat) (p : Cmd) (cv : Vector Word 8) (e : Nat × Nat) : Got Cmd :=
  ((srcGranules cv p .l e).filter fun g => (p.srcs.find g).isNone).foldl (fun r g => r.next fun p =>
    let a : Addr := BitVec.ofNat 48 (16 * g)
    (s.bankGranule j (p.bankAt a) a).next fun x => .ok { p with srcs := p.srcs.put g x }) (.ok p)

/-- The secondary's command after a turn of the primary's: it stands where that one does. -/
def Cmd.follows (p q1 : Cmd) (st : BitVec 4) : Cmd :=
  { p with
    rest := q1.rest, todo := q1.todo, row := q1.row, pos := q1.pos, acked := q1.acked, started := q1.started, asked := q1.asked
    since := q1.since, status := if p.status = 0 then st else p.status }

/-- The secondary's part of a turn: what the primary's packets brought is received by both; from its own banks it reads what it
sends, which the primary's router compares; and each writes its own banks. `none` at a difference. The choices that the manual
leaves open are those of the state `pre` before the turn. -/
def State.mateTurn (s pre : State) (j : Nat) (p q1 : Cmd) (act : CopyAct) (sent : List Byte) : Option State :=
  let cv := (s.core j).cx.cv
  let v := s.vdevOf j 0
  let (dst, src) := copySides p.instr v cv
  let put (s : State) (p1 : Cmd) : State := s.setCmd j .cx (p1.after cv)
  match act with
  | .unit => some (put s (p.follows q1 q1.status))
  | .read e g =>
    let failed := !q1.todo.contains e
    if src = .l then
      (match s.mateReads j p cv e with
      | .ok p1 => if failed then none else some (put s (p1.follows q1 0))
      | _ => if failed then some (put s (p.follows q1 q1.status)) else none)
    else some (put s { p.follows q1 q1.status with srcs := match q1.srcs.find g with
      | some x => p.srcs.put g x
      | none => p.srcs })
  | .move e =>
    if dst = .l then
      let s1 := match s.copyPut j cv p e (p.bankAt (copyDst cv p e.1)) (pre.pieceBytes j v p cv .l e sent) with
        | .ok s1 => (s1, (0 : BitVec 4))
        | _ => (s, 3)
      some (put s1.1 (p.follows q1 s1.2))
    else
      match s.mateReads j p cv e with
      | .ok p1 =>
        let mine := if isRed p.instr then leBytes 4 (redWiden (cvSfmt cv) (leNat (p1.srcBytes cv .l e))).toNat else p1.srcBytes cv .l e
        if mine = sent then some (put s (p1.follows q1 q1.status)) else none
      | _ => none

/-- A turn taken by a pair: the primary's packets are forwarded once the secondary's agree (23 R362). A difference is a
mismatch. -/
def State.copyPair (s : State) (k j : Nat) (q p : Cmd) : Option State :=
  match s.copyTurn k q with
  | .ends st s1 => some ((s1.setCmd k .cx (q.ended st)).setCmd j .cx (p.ended st))
  | .goes s1 q1 act sent =>
    some (match (s1.setCmd k .cx (q1.after (s1.core k).cx.cv)).mateTurn s j p q1 act sent with
      | some s2 => s2.unitOver k q q1
      | none => s.twinMismatch k)
  | .waits => none

/-- The turn of a core's head command, if it can have one now. -/
def State.copyGo (s : State) (k : Nat) : Option State :=
  match s.copyHead k with
  | none => none
  | some q =>
    match s.copyMate k with
    | none => s.copyLone k q
    | some (j, m) =>
      if s.copyLocal k q then s.copyLone k q
      else if ((s.core k).task.bind Task.twin).any Twin.primary then
        match m with
        | some p => if !s.copyLocal j p && q.agrees p (s.core k).cx.cv (s.core j).cx.cv then s.copyPair k j q p else none
        | none => none
      else none

/-! ### Arbitration (09 R171) -/

/-- The cores of a cluster that can use its copy engine, with their places in the round-robin. -/
def copyCores (cl : Nat) : List (Nat × Nat) := (List.range 65).zip (clusterCores cl ++ [serviceOf cl])

/-- The class of a core's head command; 3 counts as `BULK`, and is rejected when it executes. -/
def Cmd.klass (q : Cmd) : Nat := if q.cls = 3 then 0 else q.cls.toNat

/-- A core that can use the engine now: its class, whether its turn needs no grant, whether its unit is under way, and for how
long it has waited, and the state after its turn. -/
structure CopyReady where
  klass : Nat
  free : Bool
  going : Bool
  since : Nat := 0
  after : State

/-- The cores of a cluster whose head command can have a turn, by place. -/
def State.copyReady (s : State) (cl : Nat) : List (Nat × CopyReady) :=
  (copyCores cl).filterMap fun e =>
    match s.copyHead e.2 with
    | some q => (s.copyGo e.2).map fun t =>
      (e.1, { klass := q.klass, free := s.copyLocal e.2 q, going := q.underWay, since := q.since, after := t })
    | none => none

/-- The class that is served: the highest, unless a lower one has waited seven grants, two together six. -/
def copyPick (skip : Vector Nat 3) (has : Nat → Bool) : Nat :=
  let top := if has 2 then 2 else if has 1 then 1 else 0
  let s1 := skip.toList.getD 1 0
  let s0 := skip.toList.getD 0 0
  if top = 2 && has 1 && decide (7 ≤ s1) then 1
  else if 0 < top && has 0 && (decide (7 ≤ s0) || (top = 2 && has 1 && decide (6 ≤ s0))) then 0
  else top

/-- The first place after the one served last. -/
def rrPick {α : Type} (last : Nat) (l : List (Nat × α)) : Option (Nat × α) :=
  match l.find? (fun e => decide (last < e.1)) with
  | some e => some e
  | none => l.head?

/-- A unit granted to one of the cores that wait for one (09 R171). -/
def State.copyGrant (s : State) (cl : Nat) (l : List (Nat × CopyReady)) : Option State :=
  let has (c : Nat) : Bool := l.any fun e => decide (e.2.klass = c)
  let x := s.cluster cl
  let c := copyPick x.copySkip has
  (rrPick (x.copyLast.toList.getD c 64) (l.filter fun e => decide (e.2.klass = c))).map fun e =>
    let y := e.2.after.cluster cl
    let skip := Vector.ofFn fun (i : Fin 3) => if i.val = c then 0 else if has i.val then x.copySkip.get i + 1 else 0
    e.2.after.setCluster cl { y with copyLast := x.copyLast.set! c e.1, copySkip := skip }

/-- The engine goes on: a register write or the end of a command takes no grant; else a unit under way goes on, or a unit is
granted, in no promised order, since the units of several cores interleave (09 R170). A unit that has stood for 64 c-cycles goes
first. -/
def execCopyTransferGrant (cl : Nat) (s : State) : Out :=
  let l := s.copyReady cl
  match l.find? (fun e => e.2.free), l.find? (fun e => e.2.going && decide (e.2.since + 64 ≤ s.cyc.toNat)) with
  | some e, _ => .next e.2.after
  | none, some e => .next e.2.after
  | none, none =>
    let ways := (l.filter fun e => e.2.going).map (fun e => e.2.after) ++ (s.copyGrant cl (l.filter fun e => !e.2.going)).toList
    .next (ways.getD (s.choose ways.length 1004) s)

/-! ### Completion (09 R177, R178) -/

/-- A failure recorded in `CV7`; a cancellation, which status 8 is, only adds to `NFAIL`. -/
def cvRecord (cv : Vector Word 8) (st : BitVec 4) (pc : Addr) : Vector Word 8 :=
  if st = 0 then cv
  else
    let r := cvGet cv 7
    let n := min 255 ((bits r 8 8).toNat + 1)
    let r1 : Word := if getBit r 1 || st = 8 then r
      else BitVec.ofNat 64 (2 + st.toNat * 16 + pc.toNat * 2 ^ 16)
    cv.set! 7 ((r1 &&& ~~~(0xFF00 : Word)) ||| BitVec.ofNat 64 (n * 256))

/-- Whether everything a command sent has been answered. -/
def Cmd.answered (q : Cmd) : Bool := decide (q.pos ≤ q.acked) && !q.started

def execCopyCommandComplete (k : Nat) (s : State) : Out :=
  let x := s.core k
  match x.cx.queue with
  | q :: _ =>
    if q.ran && q.answered && x.savedAt.isNone then
      let s1 := s.setCore k { x with cx := { x.cx with cv := cvRecord x.cx.cv q.status q.pc } }
      .next (s1.complete k .cx q)
    else .next s
  | [] => .next s

/-! ### The reducers of a slice (03 R69, 09 R181, R182) -/

/-- Bytes or elements of a command answered with a status, at the core and at its twin. -/
def State.copyAck (s : State) (k id n : Nat) (st : BitVec 4) : State :=
  let bump (q : Cmd) : Cmd := { q with acked := q.acked + n, status := if q.status = 0 then st else q.status }
  match (s.core k).cx.queue.find? (fun q => decide (q.id = id)) with
  | some q =>
    let s1 := s.setCmd k .cx (bump q)
    match (s.core k).task.bind Task.twin with
    | some w => (match (s1.core w.partner).cx.queue with
      | p :: _ => if p.instr = q.instr then s1.setCmd w.partner .cx (bump p) else s1
      | [] => s1)
    | none => s1
  | none => s

/-- The data of a read reaches the copy engine, or the status of its failure, which ends the pieces that need it. -/
def State.copyData (s : State) (k id : Nat) (st : BitVec 4) (bs : List Byte) : State :=
  match (s.core k).cx.queue.find? (fun q => decide (q.id = id)) with
  | some q =>
    let cv := (s.core k).cx.cv
    let src := (copySides q.instr (s.vdevOf k 0) cv).2
    let q0 : Cmd := { q with started := false, asked := none }
    let q1 := match q.asked with
      | some g =>
        if st = 0 then { q0 with srcs := q0.srcs.put g (BitVec.ofNat 128 (leNat bs)) }
        else q0.failing (fun e => (srcGranules cv q src e).contains g) st
      | none => if st = 0 then { q0 with got := bs } else q0.failing (fun _ => true) st
    s.putTurn k q q1
  | none => s

/-- The answer of another module reaches the copy engine: the bytes asked of it, or the status of bytes sent to it (09 R175,
R177). -/
def State.copyAnswer (s : State) (k id n : Nat) (st : BitVec 4) (bs : List Byte) : State :=
  match (s.core k).cx.queue.find? (fun q => decide (q.id = id)) with
  | some q =>
    match q.instr with
    | .cx2g _ _ => s.copyData k id st bs
    | _ => s.copyAck k id n st
  | none => s

/-- The answer of a slice to a reduction packet (21 R309). -/
def State.collAck (s : State) (sl k id v : Nat) (st : BitVec 4) : State :=
  let src : Node := .slice sl
  if s.meshIdle && s.wayOpen src (copyNode k) && s.settled src (copyNode k) .coll then s.copyAck k id 1 st
  else s.sendLevel src (copyNode k) .coll v (.done k id 1 st)

/-- The place of a command in its core's order; what an aborted one wrote, no wait takes up. -/
def State.cmdNth (s : State) (k id : Nat) : Nat :=
  (((s.core k).cx.queue.find? fun q => decide (q.id = id)).map Cmd.nth).getD (2 ^ 64)

/-- A slice serves a packet of a copy (09 R175): `none` while the page moves (19 R295), or what it took before for the line is
not served (21 R324). A poisoned packet ends its command with status 3 (23 R364). -/
def State.serveCopy (s : State) (sl : Nat) (p : Packet) : Option State :=
  let reply (s : State) (k v : Nat) (x : Payload) : State := s.sendLevel (.slice sl) (copyNode k) .copy v x
  match p.payload with
  | .copyRead k id v pa n w =>
    if !s.sliceFree pa then none
    else if p.poisoned then some (reply s k v (.copyData k id 3 []))
    else
      match s.sliceRead w v pa n with
      | .ok bs => some (reply s k v (.copyData k id 0 bs))
      | .bad c _ => some (reply s k v (.copyData k id (copyStatus c) []))
      | .wait _ => none
  | .copyWrite k id v w =>
    let nth := s.cmdNth k id
    if !s.sliceFree w.pa then none
    else if p.poisoned then some (reply s k v (.done k id w.bytes.length 3))
    else
      match s.sliceWrite k (.copy nth) v w with
      | .ok s1 => some (reply s1 k v (.done k id w.bytes.length 0))
      | .bad c _ => some (reply s k v (.done k id w.bytes.length (copyStatus c)))
      | .wait _ => none
  | _ => some s

/-- What a packet brings to a copy engine; a poisoned one ends its command with status 3 (23 R364). -/
def State.copyTakes (s : State) (p : Packet) : State :=
  match p.payload with
  | .copyData k id st bs => if p.poisoned then s.copyData k id 3 [] else s.copyData k id st bs
  | .done k id n st => s.copyAck k id n (if p.poisoned then 3 else st)
  | _ => s

/-- One more term (03 R69). -/
def sumAdd (a b : W32) : W32 :=
  BitVec.ofNat 32 (FFmt.pack .f32 .rne (FVal.add .rne (FFmt.unpack .f32 a.toNat) (FFmt.unpack .f32 b.toNat)))

/-- Bytes of an element of G. -/
def elemBytes (bf16 : Bool) : Nat := if bf16 then 2 else 4

/-- Whether two elements share bytes. -/
def elemsMeet (p : Nat) (b : Bool) (q : Nat) (c : Bool) : Bool := decide (p < q + elemBytes c) && decide (q < p + elemBytes b)

/-- An open element of the other format over some of the same bytes (09 R181). A flush names elements of any address. -/
def Slice.overlaps (x : Slice) (pa : Nat) (bf16 : Bool) : Bool :=
  ((List.range 7).map (pa + 3 - ·)).any fun p => (match x.accs.find p with
    | some a => a.bf16 != bf16 && elemsMeet pa bf16 p a.bf16
    | none => false)

/-- A contribution to a slice: `none` while no accumulator is free, else its status (09 R181). -/
def Slice.contribute (x : Slice) (src : Nat × Nat) (pa : Nat) (bf16 det : Bool) (count srcid : Nat) (v : W32) :
    Option (Slice × BitVec 4) :=
  match x.accs.find pa with
  | some a =>
    if a.bad then some (x, 3)
    else if a.bf16 != bf16 || a.det != det || decide (a.count ≠ count) then some (x, 9)
    else if !det then some ({ x with accs := x.accs.put pa { a with got := a.got + 1, sum := sumAdd a.sum v } }, 0)
    else if a.count ≤ a.got then some (x, 9)
    else if a.parts.any fun p => decide (p.1 = srcid) && decide (p.2.1 ≠ src) then some (x, 9)
    else some ({ x with accs := x.accs.put pa { a with got := a.got + 1, parts := a.parts ++ [(srcid, src, v)] } }, 0)
  | none =>
    if x.overlaps pa bf16 then some (x, 9)
    else if 16384 ≤ x.accs.length then none
    else
      let a : RAcc := { bf16 := bf16, det := det, count := count, got := 1, sum := v,
                        parts := if det then [(srcid, src, v)] else [] }
      some ({ x with accs := x.accs.put pa a }, 0)

/-- Whether a flush that stands in the queue of a slice waits for contributions that are to come: it is of a deterministic
element that has not had its count (09 R181). -/
def Slice.flushWaits (x : Slice) (pa : Nat) (bf16 : Bool) : Bool :=
  match x.accs.find pa with
  | some a => !a.bad && a.bf16 == bf16 && a.det && decide (a.got < a.count)
  | none => false

/-- Contributions in ascending source id, each source's in its order of issue. -/
def insertPart (p : Nat × (Nat × Nat) × W32) : List (Nat × (Nat × Nat) × W32) → List (Nat × (Nat × Nat) × W32)
  | [] => [p]
  | h :: t => if p.1 < h.1 then p :: h :: t else h :: insertPart p t

/-- The sum of an accumulator (03 R69). -/
def RAcc.total (a : RAcc) : W32 :=
  if a.det then
    match a.parts.foldl (fun l p => insertPart p l) [] with
    | [] => 0
    | h :: t => t.foldl (fun x p => sumAdd x p.2.2) h.2.2
  else a.sum

/-- The bytes that a flush writes (03 R69). -/
def RAcc.bytes (a : RAcc) : List Byte :=
  if a.bf16 then leBytes 2 (FFmt.pack .bf16 .rne (FFmt.unpack .f32 a.total.toNat)) else leBytes 4 a.total.toNat

/-- What a flush of one element does now: `none` while it waits (09 R180, R181). -/
def State.flushElement (s : State) (sl core cmd v pa : Nat) (bf16 : Bool) : Option (State × BitVec 4) :=
  let x := s.slice sl
  let nth := s.cmdNth core cmd
  match x.accs.find pa with
  | some a =>
    if a.bad then some (s.setSlice sl { x with accs := x.accs.drop pa }, 3)
    else if a.bf16 != bf16 then some (s, 9)
    else if x.flushWaits pa bf16 || !s.sliceFree pa then none
    else
      match s.sliceCheck v pa with
      | some c => some (s, copyStatus c)
      | none =>
        let s1 := (s.setSlice sl { x with accs := x.accs.drop pa }).gStore v pa a.bytes.length (leNat a.bytes)
        some (s1.noteThrough core (.copy nth) pa false, 0)
  | none => some (s, if x.overlaps pa bf16 then 9 else 0)

/-- Whether an item of a `COLL` queue names some of the bytes of an element. -/
def CollItem.names (i : CollItem) (pa : Nat) (bf16 : Bool) : Bool :=
  match i with
  | .add _ _ _ p b _ _ _ _ => elemsMeet pa bf16 p b
  | .flush _ _ _ p b => elemsMeet pa bf16 p b

/-- What a slice does with an item of its `COLL` queue: `none` while the item waits. A contribution waits for an accumulator, and
behind a flush of its element that does not itself wait for contributions; a flush behind what names its element, for its count,
while its page moves (19 R295), and while its device is held for a migration (09 R180 to R182, 22 R346). -/
def State.collServe (s : State) (sl : Nat) (before : List CollItem) (i : CollItem) : Option State :=
  let x := s.slice sl
  let without (s : State) : State := s.setSlice sl { s.slice sl with coll := (s.slice sl).coll.erase i }
  match i with
  | .add core task cmd pa bf16 det count srcid v =>
    let held := before.any fun i => match i with
      | .flush _ _ _ p b => i.names pa bf16 && !x.flushWaits p b
      | .add .. => false
    if held then none
    else
      (x.contribute (core, task) pa bf16 det count srcid v).map fun r =>
        ((without (s.setSlice sl r.1)).sample (s.vdevOf core 0) 2).collAck sl core cmd (s.vdevOf core 0) r.2
  | .flush core cmd v pa bf16 =>
    if s.deviceHeld v || before.any (fun i => i.names pa bf16) then none
    else (s.flushElement sl core cmd v pa bf16).map fun r => (without r.1).collAck sl core cmd v r.2

/-- The item that a slice serves next: its `COLL` packets are taken in the order of delivery, past those that wait; behind a
contribution that waits for an accumulator the other contributions wait as well (21 R324). -/
def State.collNext (s : State) (sl : Nat) (before : List CollItem) (addWaits : Bool) : List CollItem → Option (CollItem × State)
  | [] => none
  | i :: t =>
    let add := match i with
      | .add .. => true
      | .flush .. => false
    match if add && addWaits then none else s.collServe sl before i with
    | some s1 => some (i, s1)
    | none => s.collNext sl (before ++ [i]) (addWaits || add) t

def execReductionContribution (sl : Nat) (s : State) : Out :=
  match s.collNext sl [] false (s.slice sl).coll with
  | some (.add .., s1) => .next s1
  | _ => .next s

def execReductionFlush (sl : Nat) (s : State) : Out :=
  match s.collNext sl [] false (s.slice sl).coll with
  | some (.flush .., s1) => .next s1
  | _ => .next s

end Sys2Proof.Machine
end

