-- ==== Sys2Proof/Machine/Matrix.lean ====
section
/-! DEFINITION. The matrix engine (07): the thirteen instructions, the commands as the engine executes them, the
checksum arithmetic, and the grant and completion events (20 R302 to R305). -/

namespace Sys2Proof.Machine

/-! ### Registers (07 Table 7-3) -/

/-- Whether `MG14` can be written and injects (07 R144, 22 Table 22-8). -/
def State.injects (s : State) : Bool := decide (s.security = .lab) || decide (s.debug ≠ .none)

/-- The bits of each register that software may write; `MG15` is written by W1C (07 Table 7-3). -/
def mgMask (k : Nat) : Word :=
  match k with
  | 0 => 0x3F3F
  | 1 => 0x377
  | 2 => 0xFFFFFFFF
  | 3 => 0xFFFF
  | 4 => 0x1FF
  | 5 => 0x3
  | 6 => 0xFFFFFFFFFFFFFFFF
  | 7 => 0xFFFFFFFFFFFFFFFF
  | 14 => 0x33F3F3F
  | _ => 0

def mgGet (mg : Vector Word 16) (k : Nat) : Word := mg.getD k 0
def mgSet (mg : Vector Word 16) (k : Nat) (v : Word) : Vector Word 16 := mg.setIfInBounds k v

/-- A register write when it reaches the engine (07 R132, R133, R144). -/
def mgWrite (injects : Bool) (mg : Vector Word 16) (k : Nat) (v : Word) : Vector Word 16 :=
  if k = 15 then mgSet mg 15 (mgGet mg 15 &&& ~~~(v &&& 0xE))
  else if k = 14 && !injects then mg
  else mgSet mg k ((v &&& mgMask k) ||| (mgGet mg k &&& ~~~mgMask k))

/-- The writes of a queued entry. -/
def mgWrites (injects : Bool) (mg : Vector Word 16) (q : Cmd) : Vector Word 16 :=
  match q.instr with
  | .mxwr k _ => mgWrite injects mg k.toNat q.pa
  | .mxwrg k _ _ => (q.vals.zipIdx.foldl fun m e => mgWrite injects m (k.toNat + e.2) e.1) mg
  | _ => mg

/-- The register values left by every write queued before (07 R129). -/
def State.mgAhead (s : State) (k : Nat) : Vector Word 16 :=
  ((s.core k).mx.queue.filter fun q => !q.moved).foldl (mgWrites s.injects) (s.core k).mx.mg

/-- Fields of the registers. -/
def mgM (mg : Vector Word 16) : Nat := (bits (mgGet mg 0) 0 6).toNat
def mgNcol (mg : Vector Word 16) : Nat := (bits (mgGet mg 0) 8 6).toNat
def mgAfmt (mg : Vector Word 16) : BitVec 3 := bits (mgGet mg 1) 0 3
def mgWfmt (mg : Vector Word 16) : BitVec 3 := bits (mgGet mg 1) 4 3
def mgOfmt (mg : Vector Word 16) : Nat := (bits (mgGet mg 1) 8 2).toNat
def mgEs (mg : Vector Word 16) : Nat := (bits (mgGet mg 2) 0 16).toNat
def mgHs (mg : Vector Word 16) : Nat := (bits (mgGet mg 2) 16 16).toNat
def mgOs (mg : Vector Word 16) : Nat := (bits (mgGet mg 3) 0 16).toNat
def mgScl (mg : Vector Word 16) : Bool := getBit (mgGet mg 5) 0
def mgBia (mg : Vector Word 16) : Bool := getBit (mgGet mg 5) 1

/-- Flags of `MG9`. -/
def mgOPEN : Nat := 0
def mgVIS : Nat := 1
def mgPASS : Nat := 2
def mgFAIL : Nat := 3
def mgLOGOVF : Nat := 4
def mgRTY : Nat := 5
def mgSKIP : Nat := 6
def mgMARKF : Nat := 7

def Mx.flag (x : Mx) (i : Nat) : Bool := getBit (mgGet x.mg 9) i
def Mx.setFlag (x : Mx) (i : Nat) (b : Bool) : Mx := { x with mg := mgSet x.mg 9 (putBit (mgGet x.mg 9) i b) }
/-- The count of streams, saturating (07 Table 7-3). -/
def Mx.nst (x : Mx) : Nat := (bits (mgGet x.mg 9) 16 16).toNat
def Mx.setNst (x : Mx) (n : Nat) : Mx :=
  { x with mg := mgSet x.mg 9 ((mgGet x.mg 9 &&& 0xFFFF) ||| BitVec.ofNat 64 (min n 65535 * 65536)) }
def Mx.err (x : Mx) : Bool := getBit (mgGet x.mg 15) 1
def Mx.ecause (x : Mx) : Byte := bits (mgGet x.mg 15) 8 8
def Mx.epc (x : Mx) : Addr := bits (mgGet x.mg 15) 16 48
/-- An engine error recorded (07 R131). A command that fails while ERR is set (an `MXCKF`, or one that ran beside a
failing load) writes its own cause and address, and both keep their values when ERR is cleared (DESIGN CHOICE, entry 57). -/
def Mx.setErr (x : Mx) (cause : Byte) (epc : Addr) : Mx :=
  { x with mg := mgSet x.mg 15 ((mgGet x.mg 15 &&& 0xFC) ||| 2 ||| (cause.setWidth 64 <<< 8) ||| (epc.setWidth 64 <<< 16)) }

/-! ### Formats -/

/-- The BX format of a code (07 Table 7-3). -/
def bxOf (f : BitVec 3) : Option BxFmt :=
  match f.toNat with
  | 0 => some .bx8
  | 1 => some .bx6
  | 2 => some .bx4
  | _ => none

/-- The float format of a code. -/
def floatOf (f : BitVec 3) : Option FFmt :=
  match f.toNat with
  | 3 => some .bf16
  | 4 => some .f16
  | _ => none

/-- Blocks along K in a plane or row: two for BX4 (07 R129). -/
def blocks (f : BxFmt) : Nat := if f = .bx4 then 2 else 1

/-- The float formats rounded to FP32 or a narrower drain format (07 Table 7-3). -/
def drainFmt (o : Nat) : FFmt := if o = 0 then .f32 else if o = 1 then .bf16 else .f16

/-! ### Footprints (07 Table 7-2) -/

/-- Bytes and header bytes of one row of A. -/
def rowBytes (f : BitVec 3) : Nat × Nat :=
  match bxOf f with
  | some b => (b.blockBytes * blocks b, 2 * blocks b)
  | none => if (floatOf f).isSome then (64, 0) else (0, 0)

def planeFoot (f : BitVec 3) (pa pb : Nat) : List (Nat × Nat) :=
  let r := rowBytes f
  [(pa, 32 * r.1), (pb, 32 * r.2)]

/-- Rows that a command reads or writes: none for a rejected count (entry 28). -/
def footRows (m : Nat) : Nat := if m ≤ 32 then m else 0

def streamFoot (f : BitVec 3) (m0 es hs pa pb : Nat) : List (Nat × Nat) :=
  let r := rowBytes f
  let m := footRows m0
  (List.range m).map (fun i => (pa + i * es, r.1)) ++ (List.range m).map fun i => (pb + i * hs, r.2)

def drainBytes (o : Nat) : Nat := (drainFmt o).bytes

def drainFoot (mg : Vector Word 16) (pa pb : Nat) : List (Nat × Nat) :=
  (List.range (footRows (mgM mg))).map (fun i =>
      (pa + i * mgOs mg, footRows (mgNcol mg) * drainBytes (mgOfmt mg))) ++
    [(pb, (if mgScl mg then 128 else 0) + if mgBia mg then 128 else 0)]

/-- The log entries an `MXZERO` writes: the sources of the planes that are loaded (07 R136). A plane counts as loaded when its
`MXLS` has read it whole; one whose load still runs enters the log when that load ends (DESIGN CHOICE, entry 57). -/
def Plane.entry (p : Plane) (kind : ChainKind) : ChainEntry :=
  { kind := kind, pa := p.pa, pb := p.pb, mg1 := (p.fmt.setWidth 64) <<< 4
    foot := planeFoot p.fmt (addrOf p.pa).toNat (addrOf p.pb).toNat }

def Mx.sources (x : Mx) : List ChainEntry :=
  (match x.active with
   | some p => [p.entry .activeSrc]
   | none => []) ++
  (match x.shadow with
   | some p => [p.entry .shadowSrc]
   | none => [])

/-- The footprint of an `MXRTY`: that of the log as it will stand (07 Table 7-2). -/
def Mx.retryFoot (x : Mx) : List (Nat × Nat) :=
  let go (log : List ChainEntry) (q : Cmd) : List ChainEntry :=
    match q.instr with
    | .mxzero => x.sources
    | .mxls _ _ =>
      if (q.chained || x.flag mgOPEN) && decide (log.length < 16) then log ++ [{ kind := .load, foot := q.foot }] else log
    | .mxst _ _ => if x.flag mgOPEN && decide (log.length < 16) then log ++ [{ kind := .stream, foot := q.foot }] else log
    | _ => log
  (((x.queue.filter fun q => !q.moved).foldl go x.log).map ChainEntry.foot).flatten

/-! ### The instructions (07 Table 7-1) -/

/-- The instructions that trap while an engine error is pending (07 R131 step 4). -/
def mxTraps : Instr → Bool
  | .mxls _ _ => true
  | .mxflip => true
  | .mxst _ _ => true
  | .mxzero => true
  | .mxswap => true
  | .mxdrn _ _ => true
  | .mxrty => true
  | .mxwait => true
  | _ => false

/-- A matrix instruction: admission, the context present, a pending engine error (07 R126, R131). -/
def mxOp (i : Instr) (s : State) (body : State → Act) : Out :=
  engineOp i .mx admE s fun s =>
    let x := (s.core s.k).mx
    if mxTraps i && x.err then s.fault i x.ecause (x.epc.setWidth 64) else body s

/-- An entry whose footprint is checked, with its alignment: pairs of a value, its modulus and the pointer to
name (07 R129). -/
def mxCheck (i : Instr) (al : List (Nat × Nat × Addr)) (f : List (Nat × Nat)) (s : State)
    (body : List (Nat × Nat) → Act) : Act :=
  if Engine.depth .mx ≤ (s.core s.k).mx.queue.length then .wait .held s
  else
    match al.find? (fun e => decide (e.1 % e.2.1 ≠ 0)) with
    | some e => s.fault i causeMisalign (e.2.2.setWidth 64)
    | none => s.withFoot i f body

def execMxls (a b : PReg) (s : State) : Out :=
  mxOp (.mxls a b) s fun s =>
    let q := s.cmd (.mxls a b) a b
    let f := mgWfmt (s.mgAhead s.k)
    let pa := addrOf q.pa
    let pb := addrOf q.pb
    let al := [(pa.toNat, 16, pa)] ++ if (bxOf f).isSome then [(pb.toNat, 2, pb)] else []
    let ft := planeFoot f pa.toNat pb.toNat
    mxCheck (.mxls a b) al ft s fun bk => s.enqueue .mx { q with foot := ft, banks := bk } false

/-- `MXST`. ES and HS are checked whatever M is, as `MXDRN` checks OS (DESIGN CHOICE, entry 57). -/
def execMxst (a b : PReg) (s : State) : Out :=
  mxOp (.mxst a b) s fun s =>
    let q := s.cmd (.mxst a b) a b
    let mg := s.mgAhead s.k
    let f := mgAfmt mg
    let pa := addrOf q.pa
    let pb := addrOf q.pb
    let al := [(pa.toNat, 16, pa), (mgEs mg, 16, pa)] ++
      if (bxOf f).isSome then [(pb.toNat, 2, pb), (mgHs mg, 2, pb)] else []
    let ft := streamFoot f (mgM mg) (mgEs mg) (mgHs mg) pa.toNat pb.toNat
    mxCheck (.mxst a b) al ft s fun bk => s.enqueue .mx { q with foot := ft, banks := bk } false

/-- `MXDRN`: the context is held until the check is decided (07 R141). OS is checked whatever M is (DESIGN CHOICE, entry 57). -/
def execMxdrn (a b : PReg) (s : State) : Out :=
  mxOp (.mxdrn a b) s fun s =>
    match s.me.hold with
    | some { phase := .verdict id, .. } => .wait (.verdict id) s
    | _ =>
      let q := s.cmd (.mxdrn a b) a b
      let mg := s.mgAhead s.k
      let pa := addrOf q.pa
      let pb := addrOf q.pb
      let al := [(pa.toNat, 16, pa), (mgOs mg, 16, pa)] ++ if mgScl mg || mgBia mg then [(pb.toNat, 16, pb)] else []
      let ft := drainFoot mg pa.toNat pb.toNat
      mxCheck (.mxdrn a b) al ft s fun bk =>
        let x := s.core s.k
        .wait (.verdict x.cmdSeq) (s.setCore s.k (x.push .mx { q with foot := ft, banks := bk }))

def execMxrty (s : State) : Out :=
  mxOp .mxrty s fun s =>
    let ft := (s.core s.k).mx.retryFoot
    mxCheck .mxrty [] ft s fun bk => s.enqueue .mx { s.cmd .mxrty 0 0 with foot := ft, banks := bk } false

/-- A matrix instruction without footprint. -/
def mxPlain (i : Instr) (a : PReg) (returns : Bool) (s : State) : Out :=
  mxOp i s fun s => s.enqueue .mx (s.cmd i a 0) returns

def execMxflip (s : State) : Out := mxPlain .mxflip 0 false s
def execMxzero (s : State) : Out := mxPlain .mxzero 0 false s
def execMxswap (s : State) : Out := mxPlain .mxswap 0 false s
def execMxckl (s : State) : Out := mxPlain .mxckl 0 true s
def execMxckf (s : State) : Out := mxPlain .mxckf 0 false s
def execMxrd (k : BitVec 4) (s : State) : Out := mxPlain (.mxrd k) 0 true s
def execMxwr (k : BitVec 4) (a : PReg) (s : State) : Out := mxPlain (.mxwr k a) a false s
def execMxwrg (k : BitVec 4) (n : BitVec 5) (a : PReg) (s : State) : Out :=
  groupWrite (.mxwrg k n a) .mx admE 16 0 k n a s

def execMxwait (s : State) : Out := mxOp .mxwait s fun s => s.untilDone .mx

/-! ### Numbers in the engine (03 R64 to R67) -/

/-- An aligned integer with its NaN mark. -/
abbrev MInt := Int × Bool

/-- The 32 aligned integers of a BX block (07 R134). -/
def blockInts (f : BxFmt) (hdr : Nat) (bs : List Byte) : List MInt :=
  let v := leNat bs
  (List.range 32).map fun i =>
    let e := f.elem v i
    if hdrX hdr = 0 then (0, false)
    else if hdrX hdr = 255 then (0, true)
    else (sgn e.neg (e.mag * 2 ^ (if e.sel then 0 else hdrDelta hdr)), false)

/-- The sum of a list of marked integers, and the dot product of two. -/
def mSum (l : List MInt) : MInt := (l.foldl (fun s x => s + x.1) 0, l.any Prod.snd)
def mDot (a b : List MInt) : MInt := mSum ((a.zip b).map fun p => (p.1.1 * p.2.1, p.1.2 || p.2.2))

/-- Element-wise sums of lists of equal length. -/
def mCols (ls : List (List MInt)) (n : Nat) : List MInt := (List.range n).map fun i => mSum (ls.map fun l => l.getD i (0, false))

/-- The exact sum of float data, the first starting it (03 R67). -/
def fSum : List FVal → FVal
  | [] => .fin false 0 0
  | x :: t => t.foldl (FVal.add .rne) x
def fDot (a b : List FVal) : FVal := fSum ((a.zip b).map fun p => FVal.mul p.1 p.2)
def fCols (ls : List (List FVal)) (n : Nat) : List FVal := (List.range n).map fun i => fSum (ls.map fun l => l.getD i .nan)

/-! ### Planes (07 R134) -/

def Plane.blockHdr (p : Plane) (f : BxFmt) (n j : Nat) : Nat := leNat ((p.hdrs.drop (n * 2 * blocks f + 2 * j)).take 2)

/-- Column n of a BX plane, along K. -/
def Plane.colInts (p : Plane) (f : BxFmt) (n : Nat) : List MInt :=
  (List.range (blocks f)).flatMap fun j =>
    blockInts f (p.blockHdr f n j) ((p.elems.drop (n * f.blockBytes * blocks f + j * f.blockBytes)).take f.blockBytes)

/-- Column n of a float plane. -/
def Plane.colFloats (p : Plane) (f : FFmt) (n : Nat) : List FVal :=
  (List.range 32).map fun k => f.unpack (leNat ((p.elems.drop (2 * (32 * n + k))).take 2))

/-- A header that fixes nothing (03 R65). -/
def plainHdr (h : Nat) : Bool := hdrX h != 0 && hdrX h != 255

/-- The header of a row or column: its first block that fixes one, and whether two blocks differ (03 R65). -/
def joinHdr (hs : List Nat) : Option Nat × Bool :=
  let l := (hs.filter plainHdr).map fun h => h / 16
  match l with
  | [] => (none, false)
  | h :: t => (some h, t.any fun x => x != h)

/-- Row m of A, or column m of a plane, as a command reads it: elements and headers. -/
def State.readRow (s : State) (k : Nat) (q : Cmd) (f : BitVec 3) (es hs pa pb m : Nat) : Option (List Byte × List Byte) :=
  match s.cmdRead k q (pa + m * es) (rowBytes f).1, s.cmdRead k q (pb + m * hs) (rowBytes f).2 with
  | some e, some h => some (e, h)
  | _, _ => none

/-- A plane whose 32 columns have been read; an engine error in place of it (07 R134). -/
def planeOf (fmt : BitVec 3) (pa pb : Word) (es hs : List Byte) : Plane ⊕ Byte :=
  let p : Plane := { fmt := fmt, elems := es, hdrs := hs, pa := pa, pb := pb }
  match bxOf fmt with
  | some f =>
    if (List.range 32).any (fun n => (joinHdr ((List.range (blocks f)).map fun j => p.blockHdr f n j)).2) then .inr causeMxscale
    else .inl p
  | none => .inl p

/-- A command after one more row or column. -/
def Cmd.took (q : Cmd) (r : List Byte × List Byte) : Cmd := { q with row := q.row + 1, got := q.got ++ r.1, hdrs := q.hdrs ++ r.2 }

/-- A command ready for the rows or columns of its next part. -/
def Cmd.anew (q : Cmd) : Cmd := { q with row := 0, got := [], hdrs := [] }

/-- One column of a plane read (07 R134): the command goes on, has the plane, or fails. The headers are compared after the last
column, so that a poisoned source of any column is the error of a load that meets both (DESIGN CHOICE, entry 57). -/
def State.loadColumn (s : State) (k : Nat) (q : Cmd) (fmt : BitVec 3) (pa pb : Word) : (Cmd × Option Plane) ⊕ Byte :=
  let r := rowBytes fmt
  if r.1 = 0 then .inr causeIllop
  else
    match s.readRow k q fmt r.1 r.2 (addrOf pa).toNat (addrOf pb).toNat q.row with
    | none => .inr causeEccunc
    | some c =>
      let q1 := q.took c
      if q1.row < 32 then .inl (q1, none)
      else
        match planeOf fmt pa pb q1.got q1.hdrs with
        | .inl p => .inl (q1, some p)
        | .inr c => .inr c

/-! ### Accumulators -/

/-- Entry of cell (m, n). -/
def cellAt (m n : Nat) : Nat := 33 * m + n
def Acc.cell (a : Acc) (m n : Nat) : Word := a.cells.get 0 (cellAt m n)
def ordinary (m n : Nat) : Bool := decide (m < 32) && decide (n < 32)
/-- The integer of a cell as R142 takes it. -/
def Acc.int (a : Acc) (m n : Nat) : Int :=
  if ordinary m n then (bits (a.cell m n) 0 59).toInt else (a.cell m n).toInt
def Acc.mark (a : Acc) (m n : Nat) : Bool :=
  if ordinary m n then getBit (a.cell m n) 59 else a.marks.get false (cellAt m n)
/-- A cell with its integer and mark set (07 R142). -/
def Acc.putInt (a : Acc) (m n : Nat) (v : Int) (mk : Bool) : Acc :=
  if ordinary m n then
    let w : Word := (BitVec.ofInt 59 v).setWidth 64 ||| (if mk then 0x800000000000000 else 0)
    { a with cells := Sparse.putD 0 a.cells (cellAt m n) w }
  else
    { a with cells := Sparse.putD 0 a.cells (cellAt m n) (BitVec.ofInt 64 v), marks := Sparse.putD false a.marks (cellAt m n) mk }
def Acc.putBits (a : Acc) (m n : Nat) (w : Word) : Acc := { a with cells := Sparse.putD 0 a.cells (cellAt m n) w }

/-- A cell of a float chain as a datum. -/
def Acc.f32 (a : Acc) (m n : Nat) : FVal := FFmt.unpack .f32 (bits (a.cell m n) 0 32).toNat

/-- Whether the chain of an accumulator is a BX chain. -/
def Acc.isBx (a : Acc) : Bool :=
  match a.fmt with
  | some (f, _) => (bxOf f).isSome
  | none => true

/-! ### Streams (07 R137, R140) -/

/-- The headers of a row. -/
def rowHdrs (h : List Byte) (f : BxFmt) : List Nat := (List.range (blocks f)).map fun j => leNat ((h.drop (2 * j)).take 2)

def rowInts (f : BxFmt) (r : List Byte × List Byte) : List MInt :=
  ((rowHdrs r.2 f).zipIdx.flatMap fun e => blockInts f e.1 ((r.1.drop (e.2 * f.blockBytes)).take f.blockBytes))

def rowFloats (f : FFmt) (r : List Byte) : List FVal :=
  (List.range 32).map fun k => f.unpack (leNat ((r.drop (2 * k)).take 2))

/-- Headers against those remembered: the new memory, or a mismatch (03 R65, 07 R140). -/
def rememberHdrs (old : Sparse (BitVec 16)) (l : List (Nat × List Nat)) : Option (Sparse (BitVec 16)) :=
  l.foldlM (fun m e =>
    match joinHdr e.2 with
    | (_, true) => none
    | (none, false) => some m
    | (some h, false) =>
      match m.find e.1 with
      | some o => if o.toNat = h then some m else none
      | none => some (m.put e.1 (BitVec.ofNat 16 h))) old

/-- One line of A times a BX plane added to an accumulator, with the checksum column; line 32 is the sum of the rows
(07 R137). -/
def Acc.addIntLine (a : Acc) (m : Nat) (line : List MInt) (cols : List (List MInt)) (depth : Nat) : Acc :=
  ((cols ++ [mCols cols depth]).zipIdx).foldl (fun a c =>
    let d := mDot line c.1
    a.putInt m c.2 (a.int m c.2 + d.1) (a.mark m c.2 || d.2)) a

/-- An addition of magnitudes rounded toward +∞ (07 R142). -/
def magAdd (g : W32) (v : FVal) : W32 := BitVec.ofNat 32 (fAdd .f32 .rup (FFmt.unpack .f32 g.toNat) v.abs)

/-- One line of A times a float plane added to an accumulator, with its magnitude sums (03 R67, 07 R142). A row that is not
streamed has no addition, and adds nothing to H (DESIGN CHOICE, entry 57). -/
def Acc.addFloatLine (a : Acc) (m : Nat) (line : List FVal) (cols : List (List FVal)) : Acc :=
  ((cols ++ [fCols cols 32]).zipIdx).foldl (fun a c =>
    let t := FFmt.unpack .f32 (FFmt.pack .f32 .rne (fDot line c.1))
    let w := fAdd .f32 .rne (a.f32 m c.2) t
    let after := FFmt.unpack .f32 w
    let a1 := a.putBits m c.2 (BitVec.ofNat 64 w)
    { a1 with
      g := a1.g.put m (magAdd (magAdd (a1.g.get 0 m) t) after)
      h := a1.h.put c.2 (magAdd (magAdd (a1.h.get 0 c.2) t) after) }) a

/-- A log entry appended, or the overflow noted (07 R139). -/
def Mx.note (x : Mx) (e : ChainEntry) : Mx :=
  if x.log.length < 16 then
    { x with log := x.log ++ [e], mg := mgSet x.mg 13 ((mgGet x.mg 13 &&& 0x20) ||| BitVec.ofNat 64 (x.log.length + 1)) }
  else { x with mg := mgSet x.mg 13 (mgGet x.mg 13 ||| 0x20) }

/-- The headers of a plane's columns. -/
def Plane.colHdrs (p : Plane) (g : BxFmt) : List (Nat × List Nat) :=
  (List.range 32).map fun n => (n, (List.range (blocks g)).map fun j => p.blockHdr g n j)

/-- Why a stream with the registers `mg` cannot start (07 R137, R140). -/
def Mx.streamBad (x : Mx) (mg : Vector Word 16) : Option Byte :=
  let m := mgM mg
  let af := mgAfmt mg
  match x.active with
  | none => some causeIllop
  | some p =>
    if m < 1 || 32 < m || ((bxOf af).isNone && (floatOf af).isNone) then some causeIllop
    else if (bxOf af).isSome != (bxOf p.fmt).isSome || ((floatOf af).isSome && af != p.fmt) ||
        (decide (af = 2) != decide (p.fmt = 2)) then some causeIllop
    else if x.working.fmt.isSome && x.working.fmt != some (af, p.fmt) then some causeMxscale
    else
      match bxOf p.fmt with
      | some g => if (rememberHdrs x.working.colHdr (p.colHdrs g)).isNone then some causeMxscale else none
      | none => none

/-- Line m of A added to the working accumulator: a row, with its headers against those remembered, or the sum of the rows
(07 R137, R140). -/
def Mx.addLine (x : Mx) (mg : Vector Word 16) (m : Nat) (ints : BxFmt → List MInt) (floats : FFmt → List FVal)
    (hdrs : BxFmt → List (Nat × List Nat)) : Acc ⊕ Byte :=
  let af := mgAfmt mg
  let w := x.working
  match x.active with
  | none => .inr causeIllop
  | some p =>
    match bxOf af, bxOf p.fmt, floatOf af with
    | some f, some g, _ =>
      match rememberHdrs w.rowHdr (hdrs f), rememberHdrs w.colHdr (p.colHdrs g) with
      | some rh, some ch =>
        .inl (({ w with rowHdr := rh, colHdr := ch, fmt := some (af, p.fmt) }).addIntLine m (ints f)
          ((List.range 32).map fun n => p.colInts g n) (32 * blocks f))
      | _, _ => .inr causeMxscale
    | _, _, some f =>
      .inl (({ w with fmt := some (af, p.fmt) }).addFloatLine m (floats f) ((List.range 32).map fun n => p.colFloats f n))
    | _, _, _ => .inr causeIllop

def Mx.addRow (x : Mx) (mg : Vector Word 16) (m : Nat) (r : List Byte × List Byte) : Acc ⊕ Byte :=
  x.addLine mg m (fun f => rowInts f r) (fun f => rowFloats f r.1) fun f => [(m, rowHdrs r.2 f)]

/-- The rows a stream has read. -/
def Cmd.rows (q : Cmd) (f : BitVec 3) : List (List Byte × List Byte) :=
  let r := rowBytes f
  (List.range q.row).map fun i => ((q.got.drop (i * r.1)).take r.1, (q.hdrs.drop (i * r.2)).take r.2)

/-- The checksum row, once the last row has been added. -/
def Mx.addSums (x : Mx) (mg : Vector Word 16) (q : Cmd) : Acc ⊕ Byte :=
  let rs := q.rows (mgAfmt mg)
  x.addLine mg 32 (fun f => mCols (rs.map (rowInts f)) (32 * blocks f)) (fun f => fCols (rs.map fun r => rowFloats f r.1) 32)
    fun _ => []

/-- The headers of the rows of a stream, which are all read and compared before anything is added (07 R140). A poisoned one is
the error before a mismatch (DESIGN CHOICE, entry 57). -/
def State.streamHdrs (s : State) (k : Nat) (q : Cmd) (x : Mx) (mg : Vector Word 16) (pb : Word) : List Byte ⊕ Byte :=
  let af := mgAfmt mg
  match (List.range (mgM mg)).mapM fun m => s.cmdRead k q ((addrOf pb).toNat + m * mgHs mg) (rowBytes af).2 with
  | none => .inr causeEccunc
  | some l =>
    match bxOf af with
    | some f =>
      if (rememberHdrs x.working.rowHdr (l.zipIdx.map fun e => (e.2, rowHdrs e.1 f))).isNone then .inr causeMxscale
      else .inl l.flatten
    | none => .inl []

/-- The start of a stream (07 R137, R140): its headers, or its error. -/
def State.streamStart (s : State) (k : Nat) (q : Cmd) (x : Mx) (mg : Vector Word 16) (pb : Word) : List Byte ⊕ Byte :=
  match x.streamBad mg with
  | some c => .inr c
  | none => s.streamHdrs k q x mg pb

/-- One row of a stream (07 R137): the command and the context after it, with whether it was the last. Its headers stand in the
command since the start. -/
def State.streamRow (s : State) (k : Nat) (q : Cmd) (x : Mx) (mg : Vector Word 16) (pa : Word) : (Cmd × Mx × Bool) ⊕ Byte :=
  let z := rowBytes (mgAfmt mg)
  match s.cmdRead k q ((addrOf pa).toNat + q.row * mgEs mg) z.1 with
  | none => .inr causeEccunc
  | some es =>
    match x.addRow mg q.row (es, (q.hdrs.drop (q.row * z.2)).take z.2) with
    | .inr c => .inr c
    | .inl a =>
      let q1 : Cmd := { q with row := q.row + 1, got := q.got ++ es }
      let x1 := { x with working := a }
      if q1.row < mgM mg then .inl (q1, x1, false)
      else
        match x1.addSums mg q1 with
        | .inl b => .inl (q1, { x1 with working := b }.setNst (x1.nst + 1), true)
        | .inr c => .inr c

/-! ### The check (07 R142, R143) -/

/-- The outcome of one row's or column's test. -/
inductive Test where
  | pass | skip | delta | mark | both
  deriving DecidableEq, Repr

def Test.fails : Test → Bool
  | .pass => false
  | .skip => false
  | _ => true

/-- The cells of line i: 0 to 32 rows, 33 to 65 columns. -/
def lineCells (i : Nat) : List (Nat × Nat) :=
  (List.range 33).map fun j => if i < 33 then (i, j) else (j, i - 33)

/-- δ of a line and its test in a BX chain. -/
def Acc.testInt (a : Acc) (i : Nat) : Test × BitVec 64 :=
  let cs := lineCells i
  let last := cs.getD 32 (0, 0)
  let front := cs.take 32
  let d := BitVec.ofInt 64 (front.foldl (fun t c => t + a.int c.1 c.2) 0 - a.int last.1 last.2)
  let mk := a.mark last.1 last.2
  if mk = (front.any fun c => a.mark c.1 c.2) then
    if mk then (.skip, d) else if d = 0 then (.pass, d) else (.delta, d)
  else if d = 0 then (.mark, d) else (.both, d)

/-- A tolerance as it counts (07 R132). -/
def tau (w : W32) : FVal :=
  match FFmt.unpack .f32 w.toNat with
  | .nan => .fin false 0 0
  | v => if v.isNeg then .fin false 0 0 else v

/-- Whether |d| is within τ_abs + τ_rel × g, formed exactly (07 R142). -/
def within (tol : Word) (g d : FVal) : Bool :=
  let rel := if g.isZero then .fin false 0 0 else FVal.mul (tau (bits tol 32 32)) g
  match FVal.cmp d.abs (FVal.add .rne (tau (bits tol 0 32)) rel) with
  | some .gt => false
  | _ => true

/-- The tolerances of a float chain (07 R142). -/
def Mx.tol (x : Mx) (a : Acc) : Word :=
  match a.fmt with
  | some (f, _) => if floatOf f = some .f16 then mgGet x.mg 7 else mgGet x.mg 6
  | none => mgGet x.mg 6

/-- The magnitude sum of a line. -/
def Acc.mag (a : Acc) (i : Nat) : FVal := FFmt.unpack .f32 (if i < 33 then a.g.get 0 i else a.h.get 0 (i - 33)).toNat

/-- δ of a line and its test in a float chain. -/
def Acc.testFloat (a : Acc) (tol : Word) (i : Nat) : Test × FVal :=
  let cs := lineCells i
  let vs := cs.map fun c => a.f32 c.1 c.2
  if vs.any FVal.special || (a.mag i).special then (.skip, .fin false 0 0)
  else
    let d := FVal.add .rne (fSum (vs.take 32)) (vs.getD 32 .nan).neg
    (if within tol (a.mag i) d then .pass else .delta, d)

/-- The result of a check: whether it passed, the failing lines, e, and the flags. -/
structure Verdict where
  pass : Bool
  rows : Word
  cols : Word
  delta : Word
  skip : Bool
  markf : Bool
  deriving DecidableEq, Repr

/-- The bits of the failing lines of 33 tests. -/
def failBits (ts : List Test) : Word :=
  ts.zipIdx.foldl (fun w e => if e.1.fails then w ||| BitVec.twoPow 64 e.2 else w) 0

/-- The only failing line of 33. -/
def onlyFail (ts : List Test) : Option Nat :=
  match (List.range 33).filter fun i => (ts.getD i .pass).fails with
  | [i] => some i
  | _ => none

/-- Whether the located error stands in the checksum row or column but not in both: the differences then have
opposite signs (07 Table 7-4). -/
def opposite (i j : Nat) : Bool := decide (i = 32) != decide (j = 32)

/-- e from the differences of the failing row and column (07 Table 7-4). -/
def located {α : Type} (neg : α → α) (i j : Nat) (dr dc : α) : α :=
  if i < 32 then dc else if j < 32 then dr else neg dc

/-- The check of a BX chain (07 R142, R143). -/
def Acc.checkInt (a : Acc) : Verdict :=
  let rs := (List.range 33).map a.testInt
  let cs := (List.range 33).map fun j => a.testInt (33 + j)
  let rt := rs.map Prod.fst
  let ct := cs.map Prod.fst
  let base : Verdict :=
    { pass := !(rt ++ ct).any Test.fails, rows := failBits rt, cols := failBits ct, delta := 0
      skip := (rt ++ ct).any fun t => t == .skip, markf := false }
  match onlyFail rt, onlyFail ct with
  | some i, some j =>
    let r : Test × BitVec 64 := rs.getD i (.pass, 0)
    let c : Test × BitVec 64 := cs.getD j (.pass, 0)
    if r.1 = .mark ∧ c.1 = .mark then { base with markf := true }
    else if r.1 = .delta ∧ c.1 = .delta ∧ r.2 = (if opposite i j then -c.2 else c.2) then
      { base with delta := located (fun x => -x) i j r.2 c.2 }
    else base
  | _, _ => base

/-- The check of a float chain (07 R142, R143). -/
def Acc.checkFloat (a : Acc) (tol : Word) : Verdict :=
  let rs := (List.range 33).map (a.testFloat tol)
  let cs := (List.range 33).map fun j => a.testFloat tol (33 + j)
  let rt := rs.map Prod.fst
  let ct := cs.map Prod.fst
  let base : Verdict :=
    { pass := !(rt ++ ct).any Test.fails, rows := failBits rt, cols := failBits ct, delta := 0
      skip := (rt ++ ct).any fun t => t == .skip, markf := false }
  match onlyFail rt, onlyFail ct with
  | some i, some j =>
    let dr := (rs.getD i (.pass, .nan)).2
    let dc := (cs.getD j (.pass, .nan)).2
    let lim := FVal.add .rne (a.mag i) (a.mag (33 + j))
    if within tol lim (FVal.add .rne dr (if opposite i j then dc else dc.neg)) then
      { base with delta := BitVec.ofNat 64 (FFmt.pack .f32 .rne (located FVal.neg i j dr dc)) }
    else base
  | _, _ => base

def Mx.check (x : Mx) : Verdict :=
  if x.visible.isBx then x.visible.checkInt else x.visible.checkFloat (x.tol x.visible)

/-- A verdict recorded (07 R141, R143). -/
def Mx.record (x : Mx) (v : Verdict) : Mx :=
  let x1 := (((x.setFlag mgPASS v.pass).setFlag mgFAIL (!v.pass)).setFlag mgSKIP v.skip)
  if v.pass then x1
  else
    let x2 := x1.setFlag mgMARKF v.markf
    { x2 with mg := mgSet (mgSet (mgSet x2.mg 10 v.rows) 11 v.cols) 12 v.delta }

/-- The record cleared, with the flags of a new visible chain (07 R138, R146). -/
def Mx.clearRecord (x : Mx) : Mx :=
  let x1 := ((x.setFlag mgPASS false).setFlag mgFAIL false).setFlag mgMARKF false
  { x1 with mg := mgSet (mgSet (mgSet x1.mg 10 0) 11 0) 12 0 }

/-! ### Injection (07 R144) -/

/-- A pending injection with a rejected value. -/
def injectBad (w : Word) : Bool :=
  bits w 24 2 != 0 && (bits w 24 2 == 3 || decide (32 < (bits w 0 6).toNat) || decide (32 < (bits w 8 6).toNat))

/-- One flipped bit of a cell. -/
def Acc.flip (a : Acc) (m n b : Nat) : Acc :=
  if a.isBx then
    if ordinary m n && decide (60 ≤ b) then a else a.putBits m n (a.cell m n ^^^ BitVec.twoPow 64 b)
  else if b < 32 then a.putBits m n (a.cell m n ^^^ BitVec.twoPow 64 b) else a

/-- The pending injection applied; MODE returns to 0. -/
def Mx.inject (x : Mx) (w : Word) : Mx :=
  let i := (bits w 0 6).toNat
  let j := (bits w 8 6).toNat
  let b := (bits w 16 6).toNat
  if bits w 24 2 = 0 then x
  else
    let a1 := x.visible.flip i j b
    let a2 := if bits w 24 2 = 2 then a1.flip ((i + 1) % 33) ((j + 1) % 33) b else a1
    { x with visible := a2, mg := mgSet x.mg 14 (w &&& 0xFFFFFF) }

/-! ### Drain (03 R66, 07 R141) -/

/-- The value of a cell before scale and bias, and whether it counts as the integer 0. -/
def Acc.drainCell (a : Acc) (m n : Nat) : FVal × Bool :=
  match a.fmt with
  | some (fa, fw) =>
    match bxOf fa with
    | some f =>
      if a.mark m n then (.nan, false)
      else
        match a.rowHdr.find m, a.colHdr.find n with
        | some hr, some hc =>
          let base (h : BitVec 16) : Int := (h.toNat / 16 : Nat) - (h.toNat % 16 : Nat)
          let g := (bxOf fw).getD f
          let v := a.int m n
          (FVal.ofInt v (base hr + base hc - 254 - (f.magBits - 1) - (g.magBits - 1)) false, decide (v = 0))
        | _, _ => (.fin false 0 0, true)
    | none => (a.f32 m n, false)
  | none => (.fin false 0 0, true)

/-- One output: its bits, whether it saturated or is infinite, whether it is a NaN (03 R66). -/
def drainOne (c : FVal × Bool) (oexp : Int) (scale bias : FVal) (biased sat : Bool) (o : FFmt) : Nat × Bool × Bool :=
  let v := match c.1 with
    | .fin s m e => .fin s m (e + oexp)
    | v => v
  let r := if c.2 && !biased then .fin false 0 0 else FVal.add .rne (FVal.mul v scale) bias
  let w := o.pack .rne r
  match o.unpack w with
  | .nan => (w, false, true)
  | .inf s =>
    match r with
    | .fin _ _ _ => (if sat then o.signed s o.maxFin else w, true, false)
    | _ => (w, true, false)
  | _ => (w, false, false)

/-- The 32 FP32 values of a vector, or a constant where it is not selected. -/
def State.drainVec (s : State) (k : Nat) (q : Cmd) (on : Bool) (at_ : Nat) (dflt : FVal) : Option (List FVal) :=
  if on then
    (s.cmdRead k q at_ 128).map fun bs => (List.range 32).map fun i => FFmt.unpack .f32 (leNat ((bs.drop (4 * i)).take 4))
  else some (List.replicate 32 dflt)

/-- The outputs of a drain, row by row, and the sticky flags. -/
def Mx.outputs (x : Mx) (mg : Vector Word 16) (sc bi : List FVal) : List (Nat × Bool × Bool) :=
  (List.range (mgM mg)).flatMap fun m => (List.range (mgNcol mg)).map fun n =>
    drainOne (x.visible.drainCell m n) (bits (mgGet mg 4) 0 8).toInt (sc.getD n .nan) (bi.getD n .nan) (mgBia mg)
      (getBit (mgGet mg 4) 8) (drainFmt (mgOfmt mg))

/-! ### Execution of the commands -/

/-- What a command does to its engine context: it goes on, or fails with an engine error. -/
abbrev MxRes := Mx × Option Byte

/-- An accumulator that the manual leaves undefined (07 R131, R138, R147; entry 4). -/
def Acc.free (n : Nat) : Acc :=
  { cells := (List.range 1089).map fun i => (i, Config.freeWord (n + i))
    marks := (List.range 1089).map fun i => (i, (Config.freeByte (n + i)).getLsbD 0)
    g := (List.range 33).map fun i => (i, (Config.freeWord (n + 1089 + i)).setWidth 32)
    h := (List.range 33).map fun i => (i, (Config.freeWord (n + 1122 + i)).setWidth 32) }

/-- How many free values `Acc.free` takes. -/
def accFree : Nat := 1155

/-- `MXSWAP`'s exchange (07 R138): the new working accumulator is undefined, `n` naming its free values. -/
def Mx.exchange (x : Mx) (n : Nat) : Mx :=
  let x1 := (({ x with working := Acc.free n, visible := x.working }).clearRecord.setFlag mgVIS true)
  ((x1.setFlag mgOPEN false).setFlag mgSKIP false).setFlag mgLOGOVF (getBit (mgGet x.mg 13) 5)

/-- Why an `MXRTY` fails at its start (07 R147). -/
def Mx.retryBad (x : Mx) : Bool := x.flag mgOPEN || !x.flag mgVIS || x.flag mgLOGOVF || !(x.log.any fun e => e.kind == .stream)

/-- The kind of `MXCKL` (07 Table 7-5). -/
def Mx.kind (x : Mx) : Nat :=
  if !x.flag mgFAIL then 0 else if x.flag mgMARKF || mgGet x.mg 12 != 0 then 1 else 2

/-- The index of the only bit set. -/
def onlyBit (w : Word) : Nat := ((List.range 33).find? fun i => getBit w i).getD 0

/-- The word of `MXCKL` (07 Table 7-5): its other fields are 0 unless the record is located (16 R252). -/
def Mx.locateWord (x : Mx) : Word :=
  if x.kind = 1 then
    BitVec.ofNat 64 (onlyBit (mgGet x.mg 10) + onlyBit (mgGet x.mg 11) * 2 ^ 8 + 2 ^ 16 + bitNat (x.flag mgMARKF) * 2 ^ 18 +
      (bits (mgGet x.mg 12) 0 32).toNat * 2 ^ 32)
  else BitVec.ofNat 64 (x.kind * 2 ^ 16)

/-- `MXCKF` (07 R146). -/
def Mx.fix (x : Mx) : MxRes :=
  if x.kind ≠ 1 then (x, some causeIllop)
  else
    let i := onlyBit (mgGet x.mg 10)
    let j := onlyBit (mgGet x.mg 11)
    let a := x.visible
    let e := mgGet x.mg 12
    let a1 :=
      if x.flag mgMARKF then a.putInt i j (a.int i j) (!a.mark i j)
      else if a.isBx then a.putInt i j (a.int i j - e.toInt) (a.mark i j)
      else a.putBits i j (BitVec.ofNat 64 (fSub .f32 .rne (a.f32 i j) (FFmt.unpack .f32 (bits e 0 32).toNat)))
    (({ x with visible := a1 }).clearRecord, none)

/-- The read of a register: `MG14` reads 0 while it cannot inject, BUSY leaves out the read itself (07 Table 7-3). What `MG14`
holds stays meanwhile, and is pending again where it can inject again (DESIGN CHOICE, entry 57). -/
def State.mgRead (s : State) (x : Mx) (k : Nat) : Word :=
  if k = 14 && !s.injects then 0
  else if k = 15 then mgGet x.mg 15 ||| (if 1 < x.queue.length then 1 else 0)
  else mgGet x.mg k

/-- A command without bank transfers at the engine: the context after it, or the error; `n` names free values. -/
def State.mxRun (s : State) (q : Cmd) (x : Mx) (n : Nat) : MxRes :=
  match q.instr with
  | .mxflip =>
    if x.shadow.isNone then (x, some causeIllop)
    else
      let x1 := { x with active := x.shadow, shadow := x.active }
      (if x.flag mgOPEN then x1.note { kind := .flip } else x1, none)
  | .mxzero =>
    let x1 := (({ x with working := {}, log := [], mg := mgSet x.mg 13 0 }).setFlag mgOPEN true).setNst 0
    (x.sources.foldl Mx.note x1, none)
  | .mxswap =>
    if !x.flag mgOPEN then (x, some causeIllop)
    else if x.working.fmt.isNone then
      let f := mgAfmt x.mg
      if (bxOf f).isNone && (floatOf f).isNone then (x, some causeIllop)
      else (({ x with working := { x.working with fmt := some (f, f) } }).exchange n, none)
    else (x.exchange n, none)
  | .mxckf => x.fix
  | .mxwr _ _ => ({ x with mg := mgWrites s.injects x.mg q }, none)
  | .mxwrg _ _ _ => ({ x with mg := mgWrites s.injects x.mg q }, none)
  | _ => (x, none)

/-- The working accumulator left undefined (07 R131, R138). -/
def State.mxFree (s : State) (k : Nat) (x : Mx) : State :=
  { s.setCore k { s.core k with mx := { x with working := Acc.free s.fresh } } with fresh := s.fresh + accFree }

/-- An engine error: recorded, and the failing command and those behind it leave; a stream that fails closes its chain and
leaves the working accumulator undefined (07 R131), and so does a retry that fails in its replay (07 R138, R147). That one
leaves RTY set (DESIGN CHOICE, entry 57). -/
def State.mxFail (s0 : State) (k : Nat) (q : Cmd) (c : Byte) : State :=
  let x := (s0.core k).mx
  let s := match q.instr with
    | .mxst _ _ => s0.mxFree k (x.setFlag mgOPEN false)
    | .mxrty => if q.started then s0.mxFree k x else s0
    | _ => s0
  let y := s.core k
  (s.setCore k { y with mx := y.mx.setErr c q.pc }).discardFrom k .mx q mxTraps c

/-- The context held at a drain, if it still is. -/
def State.drainer (s : State) (k : Nat) (q : Cmd) : Bool := (s.ctx k q.ctx).phase == some (.verdict q.id)

/-- A precise trap at a held drain (07 R141). -/
def State.drainTrap (s : State) (k : Nat) (q : Cmd) (c : Byte) : State :=
  if s.drainer k q then
    let s := if c = causeMxcheck then s.count (s.vdevOf k 0) 10 1 else s
    s.takeTrap k q.ctx { tpc := q.pc, cause := c, addr := (addrOf q.pa).setWidth 64, val := wordOf q.instr }
  else s

/-- The check of a drain and its outputs (07 R141), which are written row by row. The vectors are read first: a poisoned one
is the drain's error, before an injection is applied and the check decided; SAT and NANO are set with the check, for all the
outputs, also those that a later ECCUNC keeps from being written (DESIGN CHOICE, entry 57). -/
def State.mxDrain (s : State) (k : Nat) (q : Cmd) : State :=
  let x := (s.core k).mx
  let mg := x.mg
  let inj := s.mgRead x 14
  let done := { q with ran := true, started := true, moved := true }
  if !x.flag mgVIS || mgM mg < 1 || 32 < mgM mg || mgNcol mg < 1 || 32 < mgNcol mg || mgOfmt mg = 3 || injectBad inj then
    (s.drainTrap k q causeIllop).setCmd k .mx done
  else
    let at_ := (addrOf q.pb).toNat
    match s.drainVec k q (mgScl mg) at_ (FVal.int 1),
      s.drainVec k q (mgBia mg) (if mgScl mg then at_ + 128 else at_) (.fin false 0 0) with
    | some sc, some bi =>
      let x1 := x.inject inj
      let v := x1.check
      let x2 := x1.record v
      if v.pass then
        let out := x2.outputs mg sc bi
        let sat := out.any fun e => e.2.1
        let nan := out.any fun e => e.2.2
        let x3 := { x2 with mg := mgSet x2.mg 15 (mgGet x2.mg 15 ||| (if sat then 4 else 0) ||| (if nan then 8 else 0)) }
        let s1 := s.setCore k { s.core k with mx := x3 }
        let s2 := s1.setCmd k .mx { done with moved := false, vals := out.map fun e => BitVec.ofNat 64 e.1, pos := mgNcol mg, acked := mgOs mg,
                                              status := BitVec.ofNat 4 (drainBytes (mgOfmt mg)) }
        if s2.drainer k q then s2.setCtx k q.ctx (s2.ctx k q.ctx).advance else s2
      else
        let s1 := s.setCore k { s.core k with mx := x2 }
        (s1.drainTrap k q causeMxcheck).setCmd k .mx done
    | _, _ => s.mxFail k q causeEccunc

/-- A granted command starts, or goes on from its checkpoint (07 R127, R149). What needs no bank is done at once; a load, a
stream and a retry are checked, and move their rows one by one. -/
def State.mxExec (s : State) (k : Nat) (q : Cmd) : State :=
  let x := s.core k
  let go : Cmd := { q with ran := true, started := true }
  let fin : Cmd := { go with moved := true }
  if q.started then s.setCmd k .mx go
  else
    match q.instr with
    | .mxdrn _ _ => s.mxDrain k q
    | .mxrd j => (s.giveRv k q (s.mgRead x.mx j.toNat)).setCmd k .mx fin
    | .mxckl => (s.giveRv k q x.mx.locateWord).setCmd k .mx fin
    | .mxls _ _ =>
      if (rowBytes (mgWfmt x.mx.mg)).1 = 0 then s.mxFail k q causeIllop
      else s.setCmd k .mx { go with vals := [mgGet x.mx.mg 1], chained := x.mx.flag mgOPEN }
    | .mxst _ _ =>
      if !x.mx.flag mgOPEN then s.mxFail k q causeIllop
      else
        match s.streamStart k q x.mx x.mx.mg q.pb with
        | .inr c => s.mxFail k q c
        | .inl h => s.setCmd k .mx { go with hdrs := h }
    | .mxrty =>
      if x.mx.retryBad then s.mxFail k q causeIllop
      else (s.setCore k { x with mx := ({ x.mx with working := {} }.setNst 0).setFlag mgRTY true }).setCmd k .mx go
    | _ =>
      let r := s.mxRun q x.mx s.fresh
      let s1 : State := { s.setCore k { x with mx := r.1 } with fresh := s.fresh + accFree }
      match r.2 with
      | some c => s1.mxFail k q c
      | none => s1.setCmd k .mx fin

/-- A command whose transfer changed its context. -/
def State.mxPut (s : State) (k : Nat) (x : Mx) : State := s.setCore k { s.core k with mx := { x with queue := (s.core k).mx.queue } }

/-- One transfer of an `MXRTY`: a column or a row of the entry it stands at; after the last entry it exchanges (07 R147). -/
def State.retryStep (s : State) (k : Nat) (q : Cmd) : State :=
  let x := (s.core k).mx
  match x.log[q.pos]? with
  | none => ({ s.mxPut k ((x.exchange s.fresh).setFlag mgRTY false) with fresh := s.fresh + accFree }).complete k .mx q
  | some e =>
    let next (x1 : Mx) : State := (s.mxPut k x1).setCmd k .mx { q.anew with pos := q.pos + 1 }
    let load (f : Plane → Mx) : State :=
      match s.loadColumn k q (bits e.mg1 4 3) e.pa e.pb with
      | .inl (q1, none) => s.setCmd k .mx q1
      | .inl (_, some p) => next (f p)
      | .inr c => s.mxFail k q c
    match e.kind with
    | .activeSrc => load fun p => { x with active := some p }
    | .shadowSrc => load fun p => { x with shadow := some p }
    | .load => load fun p => { x with shadow := some p }
    | .flip => next { x with active := x.shadow, shadow := x.active }
    | .stream =>
      let mg := mgSet (mgSet (mgSet x.mg 0 e.mg0) 1 e.mg1) 2 e.mg2
      match (if q.row = 0 then s.streamStart k q x mg e.pb else .inl q.hdrs) with
      | .inr c => s.mxFail k q c
      | .inl h =>
        match s.streamRow k { q with hdrs := h } x mg e.pa with
        | .inr c => s.mxFail k q c
        | .inl (q1, x1, false) => (s.mxPut k x1).setCmd k .mx q1
        | .inl (_, x1, true) => next x1

/-- Whether row `m` of a drain writes a byte: rows of `pos` values stand `acked` bytes apart, `status` bytes a value. -/
def Cmd.drains (q : Cmd) (m a : Nat) : Bool :=
  let lo := (addrOf q.pa).toNat + m * q.acked
  decide (lo ≤ a) && decide (a < lo + q.pos * q.status.toNat)

/-- One row of a drain written (07 R141). A poisoned granule is judged by all the rows, which may overlap (07 R131). -/
def State.drainRow (s : State) (k : Nat) (q : Cmd) : State × Bool :=
  let rows := q.row + q.vals.length / q.pos
  let whole (a : Nat) : Bool := (List.range 16).all fun b => (List.range rows).any fun m => q.drains m (a + b)
  let last (a : Nat) : Bool := !(List.range 16).any fun b => (List.range rows).any fun m => decide (q.row < m) && q.drains m (a + b)
  s.cmdWrite k q whole last 16 ((addrOf q.pa).toNat + q.row * q.acked)
    ((q.vals.take q.pos).flatMap fun v => leBytes q.status.toNat v.toNat)

/-- The plane of an `MXLS` in the shadow, with its entry in the log of an open chain, or of the chain in which it began; one
that finds that log full after the chain's `MXSWAP` leaves it overflowed (07 R134, R139). -/
def Mx.loaded (x : Mx) (q : Cmd) (mg1 : Word) (p : Plane) : Mx :=
  let x1 := { x with shadow := some p }
  if q.chained || x.flag mgOPEN then
    let x2 := x1.note { kind := .load, pa := q.pa, pb := q.pb, mg1 := mg1, foot := q.foot }
    if x.flag mgOPEN then x2 else x2.setFlag mgLOGOVF (getBit (mgGet x2.mg 13) 5)
  else x1

/-- The next transfer of a running command; the last one completes it, and so does the completion of one that has none left
(07 R134, R137, R141, R147). -/
def State.mxStep (s : State) (k : Nat) (q : Cmd) : State :=
  let x := (s.core k).mx
  if q.moved then s.complete k .mx q
  else
    match q.instr with
    | .mxls _ _ =>
      let mg1 := q.vals.getD 0 0
      (match s.loadColumn k q (bits mg1 4 3) q.pa q.pb with
      | .inl (q1, none) => s.setCmd k .mx q1
      | .inl (_, some p) => (s.mxPut k (x.loaded q mg1 p)).complete k .mx q
      | .inr c => s.mxFail k q c)
    | .mxst _ _ =>
      (match s.streamRow k q x x.mg q.pa with
      | .inr c => s.mxFail k q c
      | .inl (q1, x1, last) =>
        let s1 := s.count (s.vdevOf k 0) 6 1
        if last then
          (s1.mxPut k (x1.note { kind := .stream, pa := q.pa, pb := q.pb, mg0 := mgGet x.mg 0, mg1 := mgGet x.mg 1,
                                 mg2 := mgGet x.mg 2, foot := q.foot })).complete k .mx q
        else (s1.mxPut k x1).setCmd k .mx q1)
    | .mxdrn _ _ =>
      (match s.drainRow k q with
      | (s1, true) =>
        let rest := q.vals.drop q.pos
        if rest.isEmpty then s1.complete k .mx q else s1.setCmd k .mx { q with row := q.row + 1, vals := rest }
      | (s1, false) => s1.mxFail k q causeEccunc)
    | .mxrty => s.retryStep k q
    | _ => s.complete k .mx q

/-! ### Grant and completion (20 R304) -/

def isLoad (q : Cmd) : Bool :=
  match q.instr with
  | .mxls _ _ => true
  | _ => false

/-- Whether a command of a core has been granted and not completed. -/
def Cmd.onPath (q : Cmd) (load : Bool) : Bool := q.ran && (isLoad q == load)

/-- Commands that wait for the core's load (07 R128). -/
def waitsLoad (q : Cmd) : Bool :=
  match q.instr with
  | .mxflip => true
  | .mxrty => true
  | _ => false

/-- Whether a path of a quad is busy: a command has been granted and has neither completed nor stopped at a checkpoint
(20 R304). -/
def State.pathBusy (s : State) (q : Nat) (load : Bool) : Bool :=
  (quadCores q).any fun k => (s.core k).mx.queue.any fun c => c.onPath load

/-- The command of a core that could be granted now (07 R128). -/
def State.mxNext (s : State) (quad k : Nat) : Option Cmd :=
  let x := s.core k
  let ran := x.mx.queue.filter Cmd.ran
  match x.mx.queue.find? fun c => !c.ran with
  | some c =>
    let own := if isLoad c || waitsLoad c then ran.isEmpty else ran.all isLoad
    if !s.throttled && s.enginesRun k && !x.mx.absent && c.present && own && !s.pathBusy quad (isLoad c) then some c else none
  | none => none

/-- The next command of a quad for a path, in the turn after QIDX `last`. -/
def State.mxPick (s : State) (quad last : Nat) (load : Bool) : Option ((Nat × Nat) × Cmd) :=
  (quadTurn quad last).findSome? fun e => match s.mxNext quad e.2 with
    | some c => if isLoad c = load then some (e, c) else none
    | none => none

/-- The command of a quad that is granted next: of the next load and the next stream, the one whose core comes first in the turn
of all grants (20 R304). Each path keeps a turn of its own too, so that a command at the head of its queue waits there behind at
most one of each other core (07 R127, 18 R269). -/
def State.mxGrant (s : State) (quad : Nat) : Option ((Nat × Nat) × Cmd) :=
  let z := s.quad quad
  let l := (s.mxPick quad z.lastSt false).toList ++ (s.mxPick quad z.lastLd true).toList
  (quadTurn quad z.lastMx).findSome? fun e => l.find? fun g => g.1 == e

/-- One command granted. -/
def execMatrixCommandGrant (quad : Nat) (s : State) : Out :=
  match s.mxGrant quad with
  | some ((i, k), c) =>
    let z : Quad := { s.quad quad with lastMx := i }
    .next ((s.setQuad quad (if isLoad c then { z with lastLd := i } else { z with lastSt := i })).mxExec k c)
  | none => .next s

/-- Which of a core's granted commands moves next: one that has only to complete, else, of a load and a stream, the one that has
moved less. Results do not depend on it (20 R304; DESIGN CHOICE, entry 57). -/
def mxTurn (l : List Cmd) : Option Cmd :=
  match (l.filter Cmd.ran).find? Cmd.moved with
  | some c => some c
  | none => (l.filter Cmd.ran).foldl (fun b c => match b with
    | none => some c
    | some d => if c.row < d.row then some c else some d) none

/-- A granted matrix command of a core makes its next transfer, or completes. -/
def execMatrixCommandComplete (k : Nat) (s : State) : Out :=
  match mxTurn (s.core k).mx.queue with
  | some c => .next (if s.enginesRun k && c.present then s.mxStep k c else s)
  | none => .next s

end Sys2Proof.Machine
end

