-- ==== Sys2Proof/Machine/Scalar.lean ====
section
/-! DEFINITION. The accumulator, pointer and control-flow instructions (04): ALU with a memory operand and with an
immediate, unary, scalar floating point, pointers, branches, loops and constants. -/

namespace Sys2Proof.Machine

/-! ### ALU with a memory operand (04 R71, Table 4-2) -/

def execAdd (z : Size) (m : MemOp 12) (s : State) : Out := aluMem (.add z m) true true z m s fun a v _ => addRes a v false
def execAdc (z : Size) (m : MemOp 12) (s : State) : Out :=
  aluMem (.adc z m) true true z m s fun a v st => addRes a v (getBit st stC)
def execSub (z : Size) (m : MemOp 12) (s : State) : Out := aluMem (.sub z m) true true z m s fun a v _ => subRes a v false
def execSbc (z : Size) (m : MemOp 12) (s : State) : Out :=
  aluMem (.sbc z m) true true z m s fun a v st => subRes a v (!getBit st stC)
def execRsb (z : Size) (m : MemOp 12) (s : State) : Out := aluMem (.rsb z m) true true z m s fun a v _ => subRes v a false
def execAdds (z : Size) (m : MemOp 12) (s : State) : Out :=
  aluMem (.adds z m) true true z m s fun a v _ => addsRes (8 * z.bytes) a v
def execAddsu (z : Size) (m : MemOp 12) (s : State) : Out :=
  aluMem (.addsu z m) true false z m s fun a v _ => addsuRes (8 * z.bytes) a v
def execSubs (z : Size) (m : MemOp 12) (s : State) : Out :=
  aluMem (.subs z m) true true z m s fun a v _ => subsRes (8 * z.bytes) a v
def execSubsu (z : Size) (m : MemOp 12) (s : State) : Out :=
  aluMem (.subsu z m) true false z m s fun a v _ => subsuRes (8 * z.bytes) a v
def execMul (z : Size) (m : MemOp 12) (s : State) : Out := aluMem (.mul z m) false true z m s fun a v _ => mulRes a v
def execMulh (z : Size) (m : MemOp 12) (s : State) : Out := aluMem (.mulh z m) false true z m s fun a v _ => mulhRes a v
def execMulhu (z : Size) (m : MemOp 12) (s : State) : Out :=
  aluMem (.mulhu z m) false false z m s fun a v _ => mulhuRes a v
def execDiv (z : Size) (m : MemOp 12) (s : State) : Out := aluMemDiv (.div z m) true z m s divRes
def execDivu (z : Size) (m : MemOp 12) (s : State) : Out := aluMemDiv (.divu z m) false z m s divuRes
def execRem (z : Size) (m : MemOp 12) (s : State) : Out := aluMemDiv (.rem z m) true z m s remRes
def execRemu (z : Size) (m : MemOp 12) (s : State) : Out := aluMemDiv (.remu z m) false z m s remuRes
def execAnd (z : Size) (m : MemOp 12) (s : State) : Out :=
  aluMem (.and z m) true false z m s fun a v _ => plainRes (a &&& v)
def execOr (z : Size) (m : MemOp 12) (s : State) : Out :=
  aluMem (.or z m) true false z m s fun a v _ => plainRes (a ||| v)
def execXor (z : Size) (m : MemOp 12) (s : State) : Out :=
  aluMem (.xor z m) true false z m s fun a v _ => plainRes (a ^^^ v)
def execAndn (z : Size) (m : MemOp 12) (s : State) : Out :=
  aluMem (.andn z m) true false z m s fun a v _ => plainRes (a &&& ~~~v)

/-- The count of a shift or rotate (04 R73). -/
def shiftCount (v : Word) : Nat := (bits v 0 6).toNat

def execShl (z : Size) (m : MemOp 12) (s : State) : Out :=
  aluMem (.shl z m) true false z m s fun a v _ => shlRes a (shiftCount v)
def execShr (z : Size) (m : MemOp 12) (s : State) : Out :=
  aluMem (.shr z m) true false z m s fun a v _ => shrRes a (shiftCount v)
def execSar (z : Size) (m : MemOp 12) (s : State) : Out :=
  aluMem (.sar z m) true false z m s fun a v _ => sarRes a (shiftCount v)
def execRol (z : Size) (m : MemOp 12) (s : State) : Out :=
  aluMem (.rol z m) true false z m s fun a v _ => rolRes a (shiftCount v)
def execRor (z : Size) (m : MemOp 12) (s : State) : Out :=
  aluMem (.ror z m) true false z m s fun a v _ => rorRes a (shiftCount v)
def execMin (z : Size) (m : MemOp 12) (s : State) : Out :=
  aluMem (.min z m) true true z m s fun a v _ => plainRes (if a.toInt ≤ v.toInt then a else v)
def execMax (z : Size) (m : MemOp 12) (s : State) : Out :=
  aluMem (.max z m) true true z m s fun a v _ => plainRes (if v.toInt ≤ a.toInt then a else v)
def execMinu (z : Size) (m : MemOp 12) (s : State) : Out :=
  aluMem (.minu z m) true false z m s fun a v _ => plainRes (if a.toNat ≤ v.toNat then a else v)
def execMaxu (z : Size) (m : MemOp 12) (s : State) : Out :=
  aluMem (.maxu z m) true false z m s fun a v _ => plainRes (if v.toNat ≤ a.toNat then a else v)
def execCmp (z : Size) (m : MemOp 12) (s : State) : Out := aluMemCmp (.cmp z m) true z m s fun a v => subRes a v false
def execTst (z : Size) (m : MemOp 12) (s : State) : Out := aluMemCmp (.tst z m) false z m s fun a v => plainRes (a &&& v)

/-! ### ALU with an immediate (04 R75, Table 4-3) -/

/-- Admission of the register-only scalar instructions (04 R75, R76, R85). -/
def admR (flow : Bool) : Adm := { flow := flow }
def simm (i : BitVec 20) : Word := i.signExtend 64
def zimm (i : BitVec 20) : Word := i.setWidth 64

def execAddi (i : BitVec 20) (s : State) : Out := regOp (.addi i) (admR true) s fun y => y.setRes (addRes y.a (simm i) false)
def execAddsi (i : BitVec 20) (s : State) : Out := regOp (.addsi i) (admR true) s fun y => y.setRes (addsRes 64 y.a (simm i))
def execRsbi (i : BitVec 20) (s : State) : Out := regOp (.rsbi i) (admR true) s fun y => y.setRes (subRes (simm i) y.a false)
def execMuli (i : BitVec 20) (s : State) : Out := regOp (.muli i) (admR false) s fun y => y.setRes (mulRes y.a (simm i))
def execAndi (i : BitVec 20) (s : State) : Out := regOp (.andi i) (admR true) s fun y => y.setRes (plainRes (y.a &&& zimm i))
def execOri (i : BitVec 20) (s : State) : Out := regOp (.ori i) (admR true) s fun y => y.setRes (plainRes (y.a ||| zimm i))
def execXori (i : BitVec 20) (s : State) : Out := regOp (.xori i) (admR true) s fun y => y.setRes (plainRes (y.a ^^^ zimm i))
def execShli (k : BitVec 6) (s : State) : Out := regOp (.shli k) (admR true) s fun y => y.setRes (shlRes y.a k.toNat)
def execShri (k : BitVec 6) (s : State) : Out := regOp (.shri k) (admR true) s fun y => y.setRes (shrRes y.a k.toNat)
def execSari (k : BitVec 6) (s : State) : Out := regOp (.sari k) (admR true) s fun y => y.setRes (sarRes y.a k.toNat)
def execRori (k : BitVec 6) (s : State) : Out := regOp (.rori k) (admR true) s fun y => y.setRes (rorRes y.a k.toNat)
def execCmpi (i : BitVec 20) (s : State) : Out := regOp (.cmpi i) (admR true) s fun y => y.setCmp (subRes y.a (simm i) false)
def execTsti (i : BitVec 20) (s : State) : Out := regOp (.tsti i) (admR true) s fun y => y.setCmp (plainRes (y.a &&& zimm i))

/-! ### Unary (04 R76, Table 4-4) -/

/-- A unary function: A replaced, with its flags. -/
def unary (i : Instr) (s : State) (f : Word → Res) : Out := regOp i (admR true) s fun y => y.setRes (f y.a)

def execNot (s : State) : Out := unary .not s fun a => plainRes (~~~a)
def execNeg (s : State) : Out := unary .neg s negRes
def execAbs (s : State) : Out := unary .abs s absRes
def execNegs (s : State) : Out := unary .negs s negsRes
def execAbss (s : State) : Out := unary .abss s abssRes
def execClz (s : State) : Out := unary .clz s fun a => plainRes (BitVec.ofNat 64 (clzGo a 64))
def execCtz (s : State) : Out := unary .ctz s fun a => plainRes (BitVec.ofNat 64 (ctzGo a 64))
def execPopc (s : State) : Out := unary .popc s fun a => plainRes (BitVec.ofNat 64 (popGo a 64))
def execBswap (s : State) : Out := unary .bswap s fun a => plainRes (swapBytes a)
def execSextb (s : State) : Out := unary .sextb s fun a => plainRes ((bits a 0 8).signExtend 64)
def execSexth (s : State) : Out := unary .sexth s fun a => plainRes ((bits a 0 16).signExtend 64)
def execSextw (s : State) : Out := unary .sextw s fun a => plainRes ((bits a 0 32).signExtend 64)
def execZextb (s : State) : Out := unary .zextb s fun a => plainRes ((bits a 0 8).setWidth 64)
def execZexth (s : State) : Out := unary .zexth s fun a => plainRes ((bits a 0 16).setWidth 64)
def execZextw (s : State) : Out := unary .zextw s fun a => plainRes ((bits a 0 32).setWidth 64)

/-! ### Scalar floating point (04 R77, Table 4-5) -/

def execFadd (m : MemOp 12) (s : State) : Out := fpu (.fadd m) .w m s fun rm a v => fpOut (fAdd .f32 rm a (f32 v))
def execFsub (m : MemOp 12) (s : State) : Out := fpu (.fsub m) .w m s fun rm a v => fpOut (fSub .f32 rm a (f32 v))
def execFrsub (m : MemOp 12) (s : State) : Out := fpu (.frsub m) .w m s fun rm a v => fpOut (fSub .f32 rm (f32 v) a)
def execFmul (m : MemOp 12) (s : State) : Out := fpu (.fmul m) .w m s fun rm a v => fpOut (fMul .f32 rm a (f32 v))
def execFdiv (m : MemOp 12) (s : State) : Out := fpu (.fdiv m) .w m s fun rm a v => fpOut (fDiv .f32 rm a (f32 v))
def execFmin (m : MemOp 12) (s : State) : Out :=
  fpu (.fmin m) .w m s fun rm a v => fpOut (FFmt.pack .f32 rm (FVal.min a (f32 v)))
def execFmax (m : MemOp 12) (s : State) : Out :=
  fpu (.fmax m) .w m s fun rm a v => fpOut (FFmt.pack .f32 rm (FVal.max a (f32 v)))

/-- `FCMP`: flags only (04 R78). -/
def execFcmp (m : MemOp 12) (s : State) : Out :=
  operand (.fcmp m) (admL false) .w m s fun v _ y =>
    let f := fcmpFlags (FVal.cmp (fpA y) (f32 v))
    s.retire ((((y.setFlag stZ f.1).setFlag stN f.2.1).setFlag stC f.2.2.1).setFlag stV f.2.2.2)

def execFsqrt (m : MemOp 12) (s : State) : Out := fpu (.fsqrt m) .w m s fun rm _ v => fpOut (fSqrt .f32 rm (f32 v))
def execFcvtbf (m : MemOp 12) (s : State) : Out :=
  fpu (.fcvtbf m) .h m s fun rm _ v => fpOut (FFmt.pack .f32 rm (FFmt.unpack .bf16 v.toNat))
def execFcvthf (m : MemOp 12) (s : State) : Out :=
  fpu (.fcvthf m) .h m s fun rm _ v => fpOut (FFmt.pack .f32 rm (FFmt.unpack .f16 v.toNat))
def execFrndbf (m : MemOp 12) (s : State) : Out := fpu (.frndbf m) .w m s fun rm _ v => fpOut (FFmt.pack .bf16 rm (f32 v))
def execFrndhf (m : MemOp 12) (s : State) : Out := fpu (.frndhf m) .w m s fun rm _ v => fpOut (FFmt.pack .f16 rm (f32 v))

/-- `FCVTI`: INT32 sign-extended, Q on a clamp or a NaN (03 R58). -/
def execFcvti (m : MemOp 12) (s : State) : Out :=
  operand (.fcvti m) (admL false) .w m s fun v _ y =>
    let r := floatToInt y.rm 32 (f32 v)
    s.retire ((if r.2 then y.setFlag stQ true else y).setA (BitVec.ofInt 64 r.1))

def execFcvtf (m : MemOp 12) (s : State) : Out :=
  fpu (.fcvtf m) .w m s fun rm _ v => fpOut (FFmt.pack .f32 rm (FVal.int (bits v 0 32).toInt))
def execFcvtuf (m : MemOp 12) (s : State) : Out :=
  fpu (.fcvtuf m) .w m s fun rm _ v => fpOut (FFmt.pack .f32 rm (FVal.int v.toNat))

/-! ### Pointers (04 R80, Table 4-7) -/

/-- A pointer image of a stride and an address. -/
def pointer (stride : BitVec 16) (a : Addr) : Word := (stride ++ a : BitVec 64)

def execPmov (n m : PReg) (s : State) : Out := regOp (.pmov n m) (admR false) s fun y => y.setPtr n (y.ptr m)
def execPaddi (n m : PReg) (i : BitVec 16) (s : State) : Out :=
  regOp (.paddi n m i) (admR false) s fun y => y.setPtr n (withAddr (y.ptr m) (addrOf (y.ptr m) + i.signExtend 48))
def execPadda (n m : PReg) (s : State) : Out :=
  regOp (.padda n m) (admR false) s fun y => y.setPtr n (withAddr (y.ptr m) (addrOf (y.ptr m) + addrOf y.a))
def execPstr (n : PReg) (i : BitVec 16) (s : State) : Out :=
  regOp (.pstr n i) (admR false) s fun y => y.setPtr n (pointer i (addrOf (y.ptr n)))
def execPget (n : PReg) (s : State) : Out := regOp (.pget n) (admR false) s fun y => y.setA (y.ptr n)
def execPset (n : PReg) (s : State) : Out := regOp (.pset n) (admR false) s fun y => y.setPtr n y.a
def execPsub (n m : PReg) (s : State) : Out :=
  regOp (.psub n m) (admR false) s fun y =>
    let d : Word := (addrOf (y.ptr n) - addrOf (y.ptr m)).signExtend 64
    (y.setZN d).setA d

/-! ### Branches, jumps, loops, constants (04 R81 to R84, 02 R46) -/

/-- A control transfer: what the context becomes, its PC set by the rule itself. -/
def transfer (i : Instr) (adm : Adm) (s : State) (f : Ctx → Ctx) : Out :=
  run i adm s.here s fun s => .done (s.setMe (f s.me))

/-- The target of a word offset (02 R35). -/
def Ctx.target {n : Nat} (y : Ctx) (o : BitVec n) : Addr := y.pc + (o.signExtend 48 <<< 2)

def execB (c : Cond) (o : BitVec 22) (s : State) : Out :=
  transfer (.b c o) (admR true) s fun y => if condHolds c y.st then y.goto (y.target o) else y.advance
def execCall (o : BitVec 22) (s : State) : Out :=
  transfer (.call o) (admR false) s fun y => (y.setPtr 7 ((y.pc + 4).setWidth 64)).goto (y.target o)

/-- A jump to a computed target: MISALIGN where it is no multiple of 4 (02 R35, 04 R83). -/
def jump (i : Instr) (s : State) (t : Ctx → Addr) : Out :=
  run i (admR false) s.here s fun s =>
    if bits (t s.me) 0 2 = 0 then .done (s.setMe (s.me.goto (t s.me)))
    else s.fault i causeMisalign ((t s.me).setWidth 64)

def execJmp (n : PReg) (i : BitVec 16) (s : State) : Out := jump (.jmp n i) s fun y => addrOf (y.ptr n) + i.signExtend 48
def execRet (s : State) : Out := jump .ret s fun y => addrOf (y.ptr 7)

/-- LC0 or LC1. -/
def Ctx.lc (y : Ctx) (k : Bool) : BitVec 16 := if k then y.lc1 else y.lc0
def Ctx.setLc (y : Ctx) (k : Bool) (v : BitVec 16) : Ctx := if k then { y with lc1 := v } else { y with lc0 := v }

def execLoop (k : Bool) (o : BitVec 16) (s : State) : Out :=
  transfer (.loop k o) (admR true) s fun y =>
    let n := bits y.a 0 16
    if n = 0 then (y.setLc k n).goto (y.target o) else (y.setLc k n).advance
def execDbnz (k : Bool) (o : BitVec 16) (s : State) : Out :=
  transfer (.dbnz k o) (admR true) s fun y =>
    let n := y.lc k - 1
    if n = 0 then (y.setLc k n).advance else (y.setLc k n).goto (y.target o)

def execLi (i : BitVec 20) (s : State) : Out := regOp (.li i) (admR true) s fun y => y.setA (simm i)
def execLih (i : BitVec 20) (s : State) : Out := regOp (.lih i) (admR true) s fun y => y.setA (y.a <<< 20 ||| zimm i)

end Sys2Proof.Machine
end

