-- ==== Sys2Proof/Machine/Threads.lean ====
section
/-! DEFINITION. Helpers, groups, barriers and flow phases (10): the thread, group and flow instructions, and the
events of barriers and phases. -/

namespace Sys2Proof.Machine

/-- The partition of the core that executes. -/
def State.myPart (s : State) : Nat := (s.partOf s.k).getD 0

/-! ### Helpers (10 R188 to R193) -/

/-- ST of a new helper: RM, BTO and SUP of the control context, HLP, and MIG for `START.M` (01 R13). -/
def helperSt (st : Word) (mig : Bool) : Word := (st &&& 0xFFFF1060) ||| (if mig then 0x300 else 0x100)

/-- The state a helper starts with (01 R13). -/
def Ctx.helper (y : Ctx) (pc : Addr) (mig : Bool) : Ctx :=
  { pc := pc, a := y.a, p := y.p, st := helperSt y.st mig, live := true }

/-- `START` and `START.M` (10 R188). -/
def startOp (i : Instr) (mig : Bool) (h : BitVec 4) (o : BitVec 16) (s : State) : Out :=
  run i { helper := false, twin := !mig } (h.setWidth 64) s fun s =>
    let y := s.me
    let x := s.ctx s.k h.toNat
    if x.guest.isSome then .wait .held s
    else if x.live then s.fault i causeIllop (h.setWidth 64)
    else (s.setCtx s.k h.toNat (y.helper (y.target o) mig)).retire y

def execStart (h : BitVec 4) (o : BitVec 16) (s : State) : Out := startOp (.start h o) false h o s
def execStartM (h : BitVec 4) (o : BitVec 16) (s : State) : Out := startOp (.startM h o) true h o s

/-- Z and N of a small status (10 R190, R191, R194, R204). -/
def Ctx.status (y : Ctx) (v : Word) : Ctx := ((y.setFlag stZ (v == 0)).setFlag stN false).setA v

/-- `HWAIT`: held until the helper is not live, then its reason (10 R190). -/
def execHwait (h : BitVec 4) (s : State) : Out :=
  run (.hwait h) { helper := false, mig := true } (h.setWidth 64) s fun s =>
    let x := s.ctx s.k h.toNat
    if x.live && x.guest.isNone then .wait .held s
    else s.retire (s.me.status (((s.core s.k).reasons.get 2 h.toNat).setWidth 64))

/-- `HKILL` (10 R191): an instruction that has changed state finishes first; then the helper's log drains, and its
failed entries are counted and discarded. -/
def execHkill (h : BitVec 4) (s : State) : Out :=
  run (.hkill h) { helper := false, mig := true } (h.setWidth 64) s fun s =>
    let x := s.ctx s.k h.toNat
    let drain (s1 : State) : Act :=
      let x1 := s1.ctx s1.k h.toNat
      if x1.anyPosted then .wait .draining s1
      else
        (s1.setCtx s1.k h.toNat x1.discardFailed).retire (s1.me.status (BitVec.ofNat 64 x1.failedCount))
    match s.me.hold with
    | some { phase := .draining, .. } => drain s
    | _ =>
      if !x.live || x.guest.isSome then s.retire (s.me.status 0)
      else if s.helperMidway s.k h.toNat then .wait .held s
      else drain (s.stopHelper s.k h.toNat)

/-- The end of a helper (10 R189): it is not live, its reason is 0; a guest leaves its context. -/
def State.endHelper (s : State) : State :=
  match s.me.guest with
  | some (home, h) =>
    let s1 := s.setMe (ctxInit s.k)
    let s2 := s1.setCtx home h ((s1.ctx home h).stopped)
    let x := s2.core home
    s2.setCore home { x with reasons := x.reasons.put h 0 }
  | none =>
    let s1 := s.setMe s.me.stopped
    let x := s1.core s.k
    s1.setCore s.k { x with reasons := x.reasons.put s.c 0 }

/-- The core leaves its groups and closes its slots, and its task ends once the drain sets are performed (10 R189, items 4 and
5, 06 R122). -/
def State.endCore (s : State) : Act :=
  let s1 := match s.partOf s.k with
    | some p => s.leaveAll p s.k
    | none => s
  let s2 := s1.closeSlots s.k
  if s2.unitsOn s.k then .wait .draining s2 else .done (s2.endTask s.k)

/-- The end of the control context (10 R189): helpers stop, its log drains, with a late fault taken at the `END`, commands
complete, then the core leaves its groups and its slots are released. In a handler its failed entries are discarded. -/
def State.endControl (s : State) : Act :=
  let hs := (s.core s.k).liveHelpers
  if hs.any fun h => s.helperMidway s.k h then .wait .stopping s
  else
    let s1 := hs.foldl (fun s h => s.stopHelper s.k h) s
    match (if s1.me.flag stTRP then none else failedEntry s1.me) with
    | some e => .trap (s1.me.lateRec e) s1
    | none =>
      let s2 := if s1.me.flag stTRP then (s1.setMe s1.me.discardFailed).sendHeld s1.k s1.c else s1
      if (s2.core s2.k).anyPosted || !(s2.core s2.k).enginesIdle then .wait .draining s2
      else if (s2.core s2.k).task.isSome then s2.endCore
      else .done (s2.setMe s2.me.stopped)

/-- `END` (10 R189). In a handler the failed entries are discarded. -/
def execEndT (s : State) : Out :=
  run .endT {} 0 s fun s =>
    if s.c = 0 then s.endControl
    else
      let s1 := if s.me.flag stTRP then (s.setMe s.me.discardFailed).sendHeld s.k s.c else s
      if s1.me.anyPosted then .wait .draining s1 else .done s1.endHelper

def execYield (s : State) : Out :=
  run .yield {} 0 s fun s => s.retire s.me

/-- A after `SELF` (10 Table 10-3): a guest has its own helper number and is away. -/
def State.selfWord (s : State) : Word :=
  let n := match s.me.guest with
    | some (_, h) => h
    | none => s.c
  BitVec.ofNat 64 (n % 16 + bitNat (s.me.flag stMIG) * 16 + bitNat s.me.guest.isSome * 32 +
    (if s.k < sites then clocOf s.k else 0) * 2 ^ 8 + clusOf s.k * 2 ^ 14)

def execSelf (s : State) : Out := run .self {} 0 s fun s => s.retire (s.me.setA s.selfWord)

/-! ### Spawned tasks (10 R194) -/

/-- The record's checks: status 2 where they fail (10 R194). -/
def State.spawnBad (s : State) (v : Nat) (rc : Nat) : Bool :=
  let entry := natBits rc 0 48
  let data := natBits rc 64 48
  let done := natBits rc 192 48
  natBits rc 48 16 != 0 || natBits rc 112 16 != 0 || natBits rc 240 16 != 0 || entry % 4 != 0 || done % 8 != 0 ||
    (s.xlateCluster (clusOf s.k) v (BitVec.ofNat 48 data) false).isNone ||
    (done != 0 && (s.xlateCluster (clusOf s.k) v (BitVec.ofNat 48 done) true).isNone)

/-- The task a record describes, in the launch of the spawning task. -/
def spawnTask (t : Task) (rc : Nat) : Task :=
  { vdev := t.vdev, part := t.part, launch := t.launch,
    spawn := some (BitVec.ofNat 48 (natBits rc 0 48), BitVec.ofNat 48 (natBits rc 64 48), BitVec.ofNat 64 (natBits rc 128 64)),
    done := BitVec.ofNat 48 (natBits rc 192 48) }

/-- The command processor that places the tasks of a launch (18 R266). -/
def State.placer (s : State) (t : Task) : Nat :=
  match s.launches.find t.launch with
  | some l => ((s.vdev l.vdev).streams.get {} l.stream).proc
  | none => 0

/-- What a `SPAWN` looks up and sends: the record, read from its slice, the pages it names, and its placement
(10 R194, 19 R290, 21 R309). -/
def State.spawnSent (s : State) (v pa : Nat) (t : Task) (rc : Nat) : State :=
  let me : List Nat := s.homeOf s.k s.c :: s.partner.toList
  let cl := clusOf s.k
  let s1 := s.exchange me (.slice (sliceOf pa)) .req .rsp
  let s2 := s1.useCluster cl v (BitVec.ofNat 48 (natBits rc 64 48))
  let s3 := if natBits rc 192 48 = 0 then s2 else s2.useCluster cl v (BitVec.ofNat 48 (natBits rc 192 48))
  s3.exchange me (.processor (s.placer t)) .ctrl .ctrl

/-- A task queued for placement, and counted in its launch (10 R194, 18 R266). -/
def State.queueSpawn (s : State) (t : Task) : State :=
  let x := s.part t.part
  let s1 := s.setPart t.part { x with spawned := x.spawned ++ [t] }
  match s1.launches.find t.launch with
  | some l => { s1 with launches := s1.launches.put t.launch { l with spawned := l.spawned + 1 } }
  | none => s1

/-- No slice: a request whose translation fails is sent to none. -/
def noSlice : Nat := 1024

/-- `SPAWN` (10 R194). -/
def execSpawn (s : State) : Out :=
  run .spawn {} 0 s fun s =>
    let y := s.me
    let a := addrOf y.a
    let v := s.vdevOf s.k s.c
    if bits a 0 5 ≠ 0 then s.fault .spawn causeMisalign (a.setWidth 64)
    else if !s.releasable s.k s.c .dev || s.fenced s.k s.c then .wait .held s
    else
      match s.xlateCluster (clusOf s.k) v a false with
      | none => if s.twinHolds then s.twinWait noSlice else (s.useCluster (clusOf s.k) v a).answerBad .spawn causePagefatal a
      | some pa =>
        if s.twinHolds then s.twinWait (sliceOf pa)
        else if !s.sliceFree pa || !s.quiet (.core (s.homeOf s.k s.c)) (.slice (sliceOf pa)) .req .rsp then .wait .held s else
        match s.sliceCheck v pa with
        | some c => (s.useCluster (clusOf s.k) v a).answerBad .spawn c a
        | none =>
          let rc := Memory.readN s.mem pa 32
          match s.taskOf s.k s.c with
          | none => s.retire (y.status 2)
          | some t =>
            let s1 := (s.useCluster (clusOf s.k) v a).spawnSent v pa t rc
            if s.spawnBad v rc then s1.answer fun y => y.status 2
            else if 4096 ≤ (s.part t.part).spawned.length then s1.answer fun y => y.status 1
            else (s1.queueSpawn (spawnTask t rc)).answer fun y => y.status 0

/-! ### Groups and barriers (10 R195 to R200) -/

/-- Admission of the group instructions (10 Table 10-2, 23 R361). -/
def admGrp : Adm := { helper := false, twin := false }

def execJoin (g : BitVec 8) (s : State) : Out :=
  run (.join g) admGrp (g.setWidth 64) s fun s => (s.joinGroup s.myPart g.toNat s.k).retire s.me
def execLeave (g : BitVec 8) (s : State) : Out :=
  run (.leave g) admGrp (g.setWidth 64) s fun s =>
    let s1 := s.leaveGroup s.myPart g.toNat s.k
    s1.retire s1.me

/-- An arrival: the context is held as arrived, and the episode ends with it if it is the last (10 R196). -/
def State.arriveHere (s : State) (i : Instr) (g : Nat) (a : Arrival) : State :=
  let y := s.me
  let s1 := s.setMe { y with hold := some { instr := i, since := s.cyc.toNat, phase := .arrived false false } }
  s1.arrive s.myPart g s.k a

/-- `BAR`: checks, release, arrival, and the episode's end (10 R196). -/
def execBar (g : BitVec 8) (s : State) : Out :=
  run (.bar g) admGrp (g.setWidth 64) s fun s =>
    match s.me.hold with
    | some { phase := .arrived d b, .. } => if d then s.retire s.me else .wait (.arrived d b) s
    | _ =>
      if !((s.part s.myPart).group g.toNat).members.contains s.k then s.fault (.bar g) causeIllop (g.setWidth 64)
      else if !s.releasable s.k s.c .part then .wait .held s
      else
        let s1 := s.arriveHere (.bar g) g.toNat .bar
        if s1.me.phase = some (.arrived true false) then s1.retire s1.me else .done s1

/-- The first ABSENT slot of a core. -/
def Core.absentSlot (x : Core) : Option Nat := (List.range 12).find? fun n => decide ((x.slot n).state = .absent)

/-- `FLOW`: checks, preparation, release, arrival, and the phase opened once the episode has ended (10 R198). -/
def execFlow (g : BitVec 8) (n : BitVec 14) (s : State) : Out :=
  run (.flow g n) { helper := false, mig := false, twin := false } s.here s fun s =>
    match s.me.hold with
    | some { phase := .arrived true true, .. } => s.fault (.flow g n) causeIllop (g.setWidth 64)
    | some { phase := .arrived d b, .. } => .wait (.arrived d b) s
    | _ =>
      let p := s.part s.myPart
      if !(p.group g.toNat).members.contains s.k || decide (p.flowmax.toNat < n.toNat) then
        s.fault (.flow g n) causeIllop (g.setWidth 64)
      else
        match (s.core s.k).absentSlot with
        | some sl => .wait (.bankMiss sl) s
        | none =>
          if !s.releasable s.k s.c .part || s.lockMoves s.k s.c (s.me.pc + 4) then .wait .held s
          else
            let fl : Flow := { group := g.toNat, n := n.toNat, base := s.me.pc + 4, words := s.lockFrom s.k s.c (s.me.pc + 4) }
            let s0 := s.useLocked s.k s.c (s.me.pc + 4)
            let s1 := s0.setCore s.k { s0.core s.k with flow := some fl }
            let s2 := s1.arriveHere (.flow g n) g.toNat (.flow n.toNat)
            match s2.me.phase with
            | some (.arrived true true) => s2.fault (.flow g n) causeIllop (g.setWidth 64)
            | _ => .done s2

/-! ### The wire fabric (10 R201, R202) -/

/-- Admission of the flow instructions (10 Table 10-2). -/
def admFlow : Adm := { flow := true, helper := false, mig := false, flowOnly := true }

/-- The output that feeds an input, and the core it lies on (10 R201, 21 R321). -/
def linkSource (k : Nat) : Link → Option (Nat × Link)
  | .n => if rowOf k = 0 then none else some (k - 1024, .s)
  | .s => if rowOf k = 639 then none else some (k + 1024, .n)
  | .w => if colOf k = 0 then none else some (k - 1, .e)
  | .e => if colOf k = 1023 then none else some (k + 1, .w)
  | .xw => if colOf k < 4 then none else some (k - 4, .xe)
  | .xe => if 1019 < colOf k then none else some (k + 4, .xw)

/-- What an input carries in the running c-cycle: nothing from a core that is out of service or whose partition is
another (10 R201). -/
def State.input (s : State) (k : Nat) (d : Link) : Option (Granule × Bool) :=
  match linkSource k d with
  | some (j, o) =>
    if s.inService k && s.inService j && decide (s.partOfSite j = s.partOfSite k) then
      ((s.core j).outs.find? fun e => decide (e.1 = o)).map (·.2)
    else none
  | none => none

/-- A granule sent on an output, carried in the next c-cycle (10 R201). -/
def State.send (s : State) (d : Link) (g : Granule × Bool) : State :=
  let x := s.core s.k
  s.setCore s.k { x with outsNext := (d, g.1, g.2) :: x.outsNext.filter fun e => !decide (e.1 = d) }

/-- A flow instruction: admission, then its slot against `FLOWCYC` (10 R203). -/
def flowOp (i : Instr) (sl : BitVec 16) (s : State) (body : State → Act) : Out :=
  run i admFlow s.here s fun s =>
    let t := (s.core s.k).flowcyc
    if t.toNat = sl.toNat then body s
    else .trap { tpc := s.me.pc, cause := causeSlot, addr := sl.setWidth 64, val := t.setWidth 64 } s

/-- A pointer after a transfer: its address advanced by its stride (10 R202). -/
def Ctx.stride (y : Ctx) (p : PReg) : Ctx := y.setPtrAddr p (addrOf (y.ptr p) + strideOf (y.ptr p))

/-- A granule of L space: zeros out of range (10 R202). -/
def State.lGranule (s : State) (k : Nat) (ea : Addr) : Got Granule :=
  if outOfRange ea then .ok 0
  else
    match s.lBank k true ea with
    | .ok b =>
      let bk := s.bank (clusOf k) b
      if bk.isPoison (granuleOf ea) then .bad causeEccunc ea else .ok (bk.granule (granuleOf ea))
    | .bad c a => .bad c a
    | .wait p => .wait p

def execXmit (l : Link) (p : PReg) (sl : BitVec 16) (s : State) : Out :=
  flowOp (.xmit l p sl) sl s fun s =>
    let y := s.me
    let ea := addrOf (y.ptr p)
    if bits ea 0 4 ≠ 0 then s.fault (.xmit l p sl) causeMisalign (ea.setWidth 64)
    else
      (s.lGranule s.k ea).elim s (.xmit l p sl) (ea.setWidth 64) fun g =>
        (s.send l (g, false)).retire ((y.stride p).noteRange ea)

def execMuxs (l : Link) (sl : BitVec 16) (s : State) : Out :=
  flowOp (.muxs l sl) sl s fun s =>
    (s.setCore s.k { s.core s.k with sel := some l }).retire s.me

/-- Whether a fault of the phase has occurred at or before a `FLOWCYC` (10 R203). -/
def State.phaseSpoiled (s : State) (k : Nat) : Bool :=
  match (s.core k).flow, s.partOf k with
  | some f, some p =>
    match ((s.part p).group f.group).phase with
    | some r => r.faults.any fun e => decide (e.1 ≤ (s.core k).flowcyc.toNat)
    | none => false
  | _, _ => false

/-- A granule latched by `RECV`: whole, set full, its latch event raised (10 R202, 11 R215); poisoned when it
arrived so (21 R321), undefined after a fault of the phase (10 R203). -/
def State.latchGranule (s : State) (ea : Addr) (b : Nat) (g : Granule × Bool) : State :=
  let spoiled := s.phaseSpoiled s.k
  let v := if spoiled then Config.freeGranule s.fresh else g.1
  let bk := s.bank (clusOf s.k) b
  let s1 := s.setBank (clusOf s.k) b (((bk.setGranule (granuleOf ea) v).setFull (granuleOf ea) true).setPoison (granuleOf ea) g.2)
  let s0 : State := { s1 with fresh := if spoiled then s.fresh + 1 else s.fresh }
  let s2 := s0.feFilled (clusOf s.k) b (granuleOf ea) (bk.isFull (granuleOf ea))
  let x := s2.core s.k
  (s2.setCore s.k { x with flow := x.flow.map fun f => { f with latched := some (b, granuleOf ea) } }).latchCore s.k 2

/-- A `RECV` that finds no valid granule counts (10 R202). -/
def State.missedGranule (s : State) : State :=
  let x := s.core s.k
  s.setCore s.k { x with flow := x.flow.map fun f =>
    { f with nrxe := f.nrxe + 1, misses := f.misses ++ [x.flowcyc.toNat] } }

/-- `RECV` (10 R202). Its address counts for the out-of-range record whether or not it has found a granule to write (01 R21;
DESIGN CHOICE, entry 64). -/
def execRecv (p : PReg) (sl : BitVec 16) (s : State) : Out :=
  flowOp (.recv p sl) sl s fun s =>
    let y := s.me
    let ea := addrOf (y.ptr p)
    match (s.core s.k).sel with
    | none => s.fault (.recv p sl) causeIllop (ea.setWidth 64)
    | some d =>
      if bits ea 0 4 ≠ 0 then s.fault (.recv p sl) causeMisalign (ea.setWidth 64)
      else
        let go (s1 : State) : Act := s1.retire (((s1.me).stride p).noteRange ea)
        if outOfRange ea then go (match s.input s.k d with
          | some _ => s
          | none => s.missedGranule)
        else
          (s.lBank s.k true ea).elim s (.recv p sl) (ea.setWidth 64) fun b =>
            match s.input s.k d with
            | some g => go (s.latchGranule ea b g)
            | none => go s.missedGranule

def execXfwd (l : Link) (sl : BitVec 16) (s : State) : Out :=
  flowOp (.xfwd l sl) sl s fun s =>
    match (s.core s.k).sel with
    | none => s.fault (.xfwd l sl) causeIllop 0
    | some d =>
      match s.input s.k d with
      | some g => (s.send l g).retire s.me
      | none => s.retire s.me

/-! ### The end of a phase (10 R204) -/

/-- The first fault of a phase: lowest `FLOWCYC`, then cluster, then CLOC (10 R204). -/
def firstFault (l : List (Nat × Nat × Nat × Byte)) : Option (Nat × Nat × Nat × Byte) :=
  l.foldl (fun b e =>
    match b with
    | none => some e
    | some f =>
      if e.1 < f.1 ∨ (e.1 = f.1 ∧ (e.2.1 < f.2.1 ∨ (e.2.1 = f.2.1 ∧ e.2.2.1 < f.2.2.1))) then some e else some f) none

/-- A after `FLEND` (10 Table 10-5). -/
def flendWord (f : Flow) (r : PhaseRec) : Word :=
  match firstFault r.faults with
  | some e =>
    BitVec.ofNat 64 (1 + e.2.2.2.toNat * 2 ^ 8 + e.1 % 65536 * 2 ^ 16 +
      (f.misses.filter fun t => decide (t < e.1)).length % 65536 * 2 ^ 32)
  | none => BitVec.ofNat 64 (f.nrxe.toNat * 2 ^ 32)

/-- The phase record of the group of a core's flow. -/
def State.phaseOf (s : State) (k : Nat) : Option (Flow × PhaseRec) :=
  match (s.core k).flow, s.partOf k with
  | some f, some p => ((s.part p).group f.group).phase.map fun r => (f, r)
  | _, _ => none

/-- The closing at one member: every member has ended its phase, and the status is written (10 R204). -/
def State.closePhase (s : State) (k : Nat) : Option State :=
  match s.phaseOf k with
  | some (f, r) =>
    if r.going.isEmpty then
      let s1 := s.setCore k { s.core k with flow := none }
      some (s1.setCtx k 0 ((s1.ctx k 0).status (flendWord f r)).advance)
    else none
  | none =>
    let s1 := s.setCore k { s.core k with flow := none }
    some (s1.setCtx k 0 ((s1.ctx k 0).status 0).advance)

/-- The end of a phase on its core: ST.FLW clears, a held stop takes place (10 R204, 11 R222). -/
def State.endPhase (s : State) : State :=
  let x := s.core s.k
  let fl := x.flow.map fun f => { f with opened := false }
  let x1 : Core := { x with flow := fl }
  let s1 := s.setCore s.k (x1.setCtx s.c (s.me.setFlag stFLW false))
  let s2 := match x.flow, s1.partOf s.k with
    | some f, some p =>
      let g := (s1.part p).group f.group
      let ph := g.phase.map fun (r : PhaseRec) => { r with going := r.going.filter (· != s.k) }
      s1.setPart p ((s1.part p).setGroup f.group { g with phase := ph })
    | _, _ => s1
  s2.takeStop s.k

def execFlend (s : State) : Out :=
  match s.me.hold with
  | some { phase := .closing, .. } =>
    match s.closePhase s.k with
    | some s1 => .next s1
    | none => .next s
  | _ =>
    run .flend admFlow s.here s fun s =>
      let s1 := s.endPhase
      match s1.closePhase s1.k with
      | some s2 => .done s2
      | none => .wait .closing s1

/-! ### Events of barriers and phases -/

/-- The barrier unit takes what has reached it: episodes of the core's groups that are complete end (10 R196). -/
def execBarrierArrival (k : Nat) (s : State) : Out :=
  match s.partOf k with
  | some p => .next ((s.part p).groups.foldl (fun s e => if e.2.members.contains k then s.endEpisode p e.1 else s) s)
  | none => .next s

/-- A `BAR` release reaches a member, and its `BAR` completes (10 R196). -/
def execBarrierRelease (k : Nat) (s : State) : Out :=
  let y := s.ctx k 0
  match y.hold with
  | some { instr := .bar _, phase := .arrived true _, .. } => .next (s.setCtx k 0 y.advance)
  | _ => .next s

def execFlowRelease (p g : Nat) (s : State) : Out := .next (s.flowOpen p g)

/-- `FLOWCYC` has reached n before the `FLEND`: the instruction due faults with SLOT (10 R203). -/
def State.overrun (s : State) (k : Nat) : Option Nat :=
  match (s.core k).flow with
  | some f => if f.opened && decide (f.n ≤ (s.core k).flowcyc.toNat) then some f.n else none
  | none => none

def execFlowSlotOverrun (k : Nat) (s : State) : Out :=
  match s.overrun k with
  | some n =>
    .next (s.takeTrap k 0
      { tpc := (s.ctx k 0).pc, cause := causeSlot, addr := BitVec.ofNat 64 n, val := BitVec.ofNat 64 n })
  | none => .next s

/-- The members know of a fault from its record, which the barrier network carries at once: nothing is left to
do when the report arrives, but the closing may now be due (10 R203, R204). -/
def execFlowFaultReport (k : Nat) (s : State) : Out :=
  match (s.ctx k 0).hold with
  | some { phase := .closing, .. } => .next ((s.closePhase k).getD s)
  | _ => .next s

def execFlendClosing (k : Nat) (s : State) : Out :=
  match (s.ctx k 0).hold with
  | some { phase := .closing, .. } => .next ((s.closePhase k).getD s)
  | _ => .next s

end Sys2Proof.Machine
end

