-- ==== Sys2Proof/Machine/Vector.lean ====
section
/-! DEFINITION. The vector unit (08): its instructions, the commands as the unit executes them, element by element,
and the grant and completion events (20 R303, R304). -/

namespace Sys2Proof.Machine

/-! ### Registers (08 Table 8-3) -/

/-- The bits of each register that software may write; `VC7` is written by W1C. -/
def vcMask (k : Nat) : Word :=
  match k with
  | 0 => 0x3FFFFF
  | 1 => 0xFFFFFFFFFFFFFFFF
  | 2 => 0xFFFFFFFF
  | 3 => 0xFF
  | 4 => 0xFFFFFFFFFFFF
  | 5 => 0xFFFFFFFF
  | 6 => 0xFFFFFFFF
  | _ => 0

def vcGet (vc : Vector Word 8) (k : Nat) : Word := vc.getD k 0
def vcSet (vc : Vector Word 8) (k : Nat) (v : Word) : Vector Word 8 := vc.setIfInBounds k v

/-- A register write when it reaches the unit (08 R152, R153). -/
def vcWrite (vc : Vector Word 8) (k : Nat) (v : Word) : Vector Word 8 :=
  if k = 7 then vcSet vc 7 (vcGet vc 7 &&& ~~~(v &&& 0x3E))
  else vcSet vc k ((v &&& vcMask k) ||| (vcGet vc k &&& ~~~vcMask k))

def vcWrites (vc : Vector Word 8) (q : Cmd) : Vector Word 8 :=
  match q.instr with
  | .vwr k _ => vcWrite vc k.toNat q.pa
  | .vwrg k _ _ => (q.vals.zipIdx.foldl fun m e => vcWrite m (k.toNat + e.2) e.1) vc
  | _ => vc

/-- The register values left by every write queued before (07 R129, 08 R154). -/
def State.vcAhead (s : State) (k : Nat) : Vector Word 8 :=
  ((s.core k).vx.queue.filter fun q => !q.moved).foldl vcWrites (s.core k).vx.vc

def vcLen (vc : Vector Word 8) : Nat := (bits (vcGet vc 0) 0 16).toNat
def vcFmt (vc : Vector Word 8) : Nat := (bits (vcGet vc 0) 16 4).toNat
def vcDfmt (vc : Vector Word 8) : Nat := (bits (vcGet vc 0) 20 2).toNat
def vcTlen (vc : Vector Word 8) : Nat := (bits (vcGet vc 1) 48 16).toNat
def vcTfmt (vc : Vector Word 8) : Nat := (bits (vcGet vc 3) 0 4).toNat
def vcDelta (vc : Vector Word 8) : Nat := (bits (vcGet vc 3) 4 4).toNat
def vcScal (vc : Vector Word 8) : FVal := FFmt.unpack .f32 (bits (vcGet vc 2) 0 32).toNat
/-- A stride of `VC4`. -/
def vcStride (vc : Vector Word 8) (lo : Nat) : Int := (bits (vcGet vc 4) lo 16).toInt

def Vx.err (x : Vx) : Bool := getBit (vcGet x.vc 7) 1
def Vx.ecause (x : Vx) : Byte := bits (vcGet x.vc 7) 8 8
def Vx.epc (x : Vx) : Addr := bits (vcGet x.vc 7) 16 48
def Vx.setErr (x : Vx) (cause : Byte) (epc : Addr) : Vx :=
  { x with vc := vcSet x.vc 7 ((vcGet x.vc 7 &&& 0xFC) ||| 2 ||| (cause.setWidth 64 <<< 8) ||| (epc.setWidth 64 <<< 16)) }

/-! ### Operands (08 R154) -/

/-- Float, integer (with its bits) and BX formats by their codes (08 Table 8-3). -/
def vFloat (f : Nat) : Option FFmt := if f = 0 then some .f32 else if f = 1 then some .bf16 else if f = 2 then some .f16 else none
def vInt (f : Nat) : Option Nat := if f = 3 then some 32 else if f = 4 then some 16 else if f = 5 then some 8 else none
def vBx (f : Nat) : Option BxFmt := if f = 6 then some .bx8 else if f = 7 then some .bx6 else if f = 8 then some .bx4 else none

/-- The element size of a format. -/
def vBytes (f : Nat) : Nat :=
  match vFloat f, vInt f with
  | some g, _ => g.bytes
  | _, some n => n / 8
  | _, _ => 1

/-- A vector operand: base, stride as its register holds it, element size, elements, alignment. -/
structure VOp where
  base : Addr
  stride : Int
  e : Nat
  n : Nat
  align : Nat
  deriving DecidableEq, Repr

/-- The address of element i. -/
def VOp.pos (o : VOp) (i : Nat) : Nat :=
  (((o.base.toNat : Int) + i * (if o.stride = 0 then (o.e : Int) else o.stride)) % 2 ^ 48).toNat

/-- The bytes of an operand. -/
def VOp.foot (o : VOp) : List (Nat × Nat) := (List.range o.n).map fun i => (o.pos i, o.e)

/-- Whether operands hold every byte of the granule at an address. -/
def vCover (os : List VOp) (a : Nat) : Bool :=
  (List.range 16).all fun b => os.any fun o =>
    (List.range o.n).any fun i => decide (o.pos i ≤ a + b) && decide (a + b < o.pos i + o.e)

/-- Whether an element after the i-th lies in the granule at an address. -/
def VOp.later (o : VOp) (i a : Nat) : Bool :=
  (List.range 16).any fun j => decide (i + 1 + j < o.n) && decide (o.pos (i + 1 + j) / 16 * 16 = a)

/-- Whether base and stride are aligned. -/
def VOp.aligned (o : VOp) : Bool :=
  decide (o.n = 0) || (decide (o.base.toNat % o.align = 0) && decide (o.stride % (o.align : Int) = 0))

/-- A plane of bytes of a BX conversion. -/
def vPlane (base : Addr) (n align : Nat) : VOp := { base := base, stride := 0, e := 1, n := n, align := align }

/-- Destination, source and second source under a register file (08 R154). -/
def vDst (vc : Vector Word 8) (a : Word) (f : Nat) : VOp :=
  { base := addrOf a, stride := vcStride vc 0, e := vBytes f, n := vcLen vc, align := vBytes f }
def vSrc (vc : Vector Word 8) (b : Word) (f : Nat) : VOp :=
  { base := addrOf b, stride := vcStride vc 16, e := vBytes f, n := vcLen vc, align := vBytes f }
def vSecond (vc : Vector Word 8) (f : Nat) : VOp :=
  { base := addrOf (vcGet vc 1), stride := vcStride vc 32, e := vBytes f, n := vcLen vc, align := vBytes f }
def vTable (vc : Vector Word 8) : VOp :=
  { base := addrOf (vcGet vc 1), stride := vcStride vc 32, e := vBytes (vcFmt vc), n := vcTlen vc, align := vBytes (vcFmt vc) }

/-- The single destination element of a `VRED` (08 R161). -/
def vOne (vc : Vector Word 8) (a : Word) : VOp := { vDst vc a (vcDfmt vc) with stride := 0, n := 1 }

/-- Whether a command reads the `VC1` vector. -/
def vUsesSecond : Instr → Bool
  | .vadd _ _ sc => !sc
  | .vsub _ _ sc => !sc
  | .vmul _ _ sc => !sc
  | .vfma _ _ sc => !sc
  | .vmin _ _ sc => !sc
  | .vmax _ _ sc => !sc
  | .vsel _ _ sc => !sc
  | .vcmp _ _ _ sc => !sc
  | .vafs _ _ _ => true
  | _ => false

/-- The operands of a command; `none` where it rejects a register value (08 R154 to R164). -/
def vOperands (i : Instr) (vc : Vector Word 8) (a b : Word) : Option (List VOp) :=
  let f := vcFmt vc
  let d := vcDfmt vc
  let t := vcTfmt vc
  let n := vcLen vc
  match i with
  | .vcvt _ _ =>
    match vBx f, vBx t with
    | some g, none =>
      if (vFloat t).isSome && decide (n % 32 = 0) then
        some [vDst vc a t, vPlane (addrOf b) (n / 32 * g.blockBytes) 16, vPlane (addrOf (vcGet vc 1)) (n / 32 * 2) 2]
      else none
    | none, some g =>
      if (vFloat f).isSome && decide (n % 32 = 0) then
        some [vPlane (addrOf a) (n / 32 * g.blockBytes) 16, vSrc vc b f, vPlane (addrOf (vcGet vc 1)) (n / 32 * 2) 2]
      else none
    | none, none => if f < 6 && t < 6 then some [vDst vc a t, vSrc vc b f] else none
    | some _, some _ => none
  | .vgath _ _ =>
    if f < 6 then some (if n = 0 then [] else [vDst vc a f, { vSrc vc b 3 with e := 4, align := 4 }, vTable vc]) else none
  | .vscat _ _ =>
    if f < 6 then some (if n = 0 then [] else [{ vDst vc a 3 with e := 4, align := 4 }, vSrc vc b f, vTable vc]) else none
  | .vred _ _ _ rv => if f < 3 && d ≠ 3 then some ((if rv then [] else [vOne vc a]) ++ [vSrc vc b f]) else none
  | _ => if f < 3 && d ≠ 3 then some ([vDst vc a d, vSrc vc b f] ++ if vUsesSecond i then [vSecond vc f] else []) else none

/-! ### The instructions (08 Table 8-1) -/

/-- Every vector command except `VRD`, `VWR` and `VWRG` traps while an engine error is pending (08 R156). -/
def vxTraps : Instr → Bool
  | .vrd _ => false
  | .vwr _ _ => false
  | .vwrg _ _ _ => false
  | _ => true

/-- A vector instruction: admission, the context present, a pending engine error (08 R151, R156). -/
def vxOp (i : Instr) (s : State) (body : State → Act) : Out :=
  engineOp i .vx admE s fun s =>
    let x := (s.core s.k).vx
    if vxTraps i && x.err then s.fault i x.ecause (x.epc.setWidth 64) else body s

/-- A vector command with operands, checked as R154 says; one with a rejected register value has no footprint. Of several that
are not aligned, TADDR names the first in the order destination, source, second source (DESIGN CHOICE, entry 64). -/
def vxCommand (i : Instr) (a b : PReg) (returns : Bool) (s : State) : Out :=
  vxOp i s fun s =>
    let q := s.cmd i a b
    if Engine.depth .vx ≤ (s.core s.k).vx.queue.length then .wait .held s
    else if returns && (s.me.flag stRVF || s.me.owed.isSome) then .wait .held s
    else
      match vOperands i (s.vcAhead s.k) q.pa q.pb with
      | none => s.enqueue .vx q returns
      | some os =>
        match os.find? (fun o => !o.aligned) with
        | some o => s.fault i causeMisalign (o.base.setWidth 64)
        | none => s.withFoot i (os.map VOp.foot).flatten fun bk => s.enqueue .vx { q with banks := bk } returns

def execVadd (a b : PReg) (sc : Bool) (s : State) : Out := vxCommand (.vadd a b sc) a b false s
def execVsub (a b : PReg) (sc : Bool) (s : State) : Out := vxCommand (.vsub a b sc) a b false s
def execVmul (a b : PReg) (sc : Bool) (s : State) : Out := vxCommand (.vmul a b sc) a b false s
def execVfma (a b : PReg) (sc : Bool) (s : State) : Out := vxCommand (.vfma a b sc) a b false s
def execVmin (a b : PReg) (sc : Bool) (s : State) : Out := vxCommand (.vmin a b sc) a b false s
def execVmax (a b : PReg) (sc : Bool) (s : State) : Out := vxCommand (.vmax a b sc) a b false s
def execVabs (a b : PReg) (s : State) : Out := vxCommand (.vabs a b) a b false s
def execVneg (a b : PReg) (s : State) : Out := vxCommand (.vneg a b) a b false s
def execVexp2 (a b : PReg) (s : State) : Out := vxCommand (.vexp2 a b) a b false s
def execVlog2 (a b : PReg) (s : State) : Out := vxCommand (.vlog2 a b) a b false s
def execVrcp (a b : PReg) (s : State) : Out := vxCommand (.vrcp a b) a b false s
def execVrsq (a b : PReg) (s : State) : Out := vxCommand (.vrsq a b) a b false s
def execVtanh (a b : PReg) (s : State) : Out := vxCommand (.vtanh a b) a b false s
def execVcvt (a b : PReg) (s : State) : Out := vxCommand (.vcvt a b) a b false s
def execVred (a b : PReg) (r : ROp) (rv : Bool) (s : State) : Out := vxCommand (.vred a b r rv) a b rv s
def execVscan (a b : PReg) (s : State) : Out := vxCommand (.vscan a b) a b false s
def execVafs (a b : PReg) (upd : Bool) (s : State) : Out := vxCommand (.vafs a b upd) a b false s
def execVsel (a b : PReg) (sc : Bool) (s : State) : Out := vxCommand (.vsel a b sc) a b false s
def execVclamp (a b : PReg) (s : State) : Out := vxCommand (.vclamp a b) a b false s
def execVcmp (a b : PReg) (c : VCond) (sc : Bool) (s : State) : Out := vxCommand (.vcmp a b c sc) a b false s
def execVgath (a b : PReg) (s : State) : Out := vxCommand (.vgath a b) a b false s
def execVscat (a b : PReg) (s : State) : Out := vxCommand (.vscat a b) a b false s
def execVwr (k : BitVec 4) (a : PReg) (s : State) : Out :=
  vxOp (.vwr k a) s fun s => s.enqueue .vx (s.cmd (.vwr k a) a 0) false
def execVwrg (k : BitVec 4) (n : BitVec 5) (a : PReg) (s : State) : Out := groupWrite (.vwrg k n a) .vx admE 8 0 k n a s
def execVrd (k : BitVec 4) (s : State) : Out :=
  vxOp (.vrd k) s fun s => s.enqueue .vx (s.cmd (.vrd k) 0 0) true
def execVwait (s : State) : Out := vxOp .vwait s fun s => s.untilDone .vx

/-! ### Execution, element by element (08 R155) -/

/-- A command under way: the state, whether it met an uncorrectable error, the sticky bits of `VC7`, the values that it carries
from element to element, and the bytes it has written of granules that it will write more of, by L address. -/
structure VRun where
  s : State
  bad : Bool := false
  sticky : Word := 0
  carry : List FVal := []
  wrote : Sparse Byte := []

def stickySAT : Word := 4
def stickyNANB : Word := 8
def stickyOOR : Word := 16
def stickyNANO : Word := 32

def VRun.note (r : VRun) (b : Bool) (w : Word) : VRun := if b then { r with sticky := r.sticky ||| w } else r

/-- Bytes read, those that the command has written as it wrote them (08 R155); `none` where a granule is poisoned. -/
def VRun.bytes (r : VRun) (k : Nat) (q : Cmd) (ea n : Nat) : Option (List Byte) :=
  (r.s.cmdRead k q ea n).map fun bs => bs.zipIdx.map fun e => (r.wrote.find (ea + e.2)).getD e.1

/-- An element read. -/
def VRun.read (r : VRun) (k : Nat) (q : Cmd) (o : VOp) (i : Nat) : Option Nat := (r.bytes k q (o.pos i) o.e).map leNat

/-- Bytes written that wait for the rest of their granule. -/
def VRun.keep (r : VRun) (ea : Nat) (bs : List Byte) : VRun :=
  { r with wrote := bs.zipIdx.foldl (fun m e => m.put (ea + e.2) e.1) r.wrote }

/-- The granule at an address takes the bytes that wait for it, in one step with its full bit; a poisoned one is good when every
byte of it was written, and waits until then (08 R155, R156, 12 R226, 19 R296). -/
def VRun.commit (r : VRun) (k : Nat) (q : Cmd) (a : Nat) : VRun :=
  let cl := clusOf k
  let b := (q.bankOf (a / 4096)).getD noBank
  let g := a % 4096 / 16
  let bk := r.s.bank cl b
  let l := (List.range 16).filterMap fun o => (r.wrote.find (a + o)).map fun v => (o, v)
  if bk.isPoison g && decide (l.length < 16) then r
  else
    let b1 := (bk.setGranule g (l.foldl (fun v e => granulePut v e.1 [e.2]) (bk.granule g))).setFull g true
    let b2 := if l.length = 16 then b1.setPoison g false else b1
    { r with
      s := ((r.s.setBank cl b b2).feFilled cl b g (bk.isFull g)).latchBank cl b
      wrote := r.wrote.filter fun e => decide (e.1 / 16 * 16 ≠ a) }

/-- Every granule that waits takes its bytes, in ascending order. -/
def VRun.commitAll (r : VRun) (k : Nat) (q : Cmd) : VRun :=
  (r.wrote.map fun e => e.1 / 16 * 16).eraseDups.foldl (fun r a => r.commit k q a) r

/-- Bytes of one granule written as a part of the destination `o`, of which `i` is the last element among them; `os` are the
command's destinations. A poisoned granule takes them only where the command writes every byte of it (08 R156). -/
def VRun.piece (r : VRun) (k : Nat) (q : Cmd) (os : List VOp) (o : VOp) (i ea : Nat) (bs : List Byte) : VRun :=
  let a := ea / 16 * 16
  if (r.s.bank (clusOf k) ((q.bankOf (ea / 4096)).getD noBank)).isPoison (ea % 4096 / 16) && !vCover os a then { r with bad := true }
  else if o.later i a then r.keep ea bs
  else (r.keep ea bs).commit k q a

/-- An element written: its alignment keeps it within a granule. -/
def VRun.write (r : VRun) (k : Nat) (q : Cmd) (o : VOp) (i v : Nat) : VRun := r.piece k q [o] o i (o.pos i) (leBytes o.e v)

/-- Bytes from byte `i` of a plane on written, granule by granule. -/
def VRun.writePlane (r : VRun) (k : Nat) (q : Cmd) (os : List VOp) (o : VOp) : Nat → Nat → List Byte → VRun
  | 0, _, _ => r
  | fuel + 1, i, bs =>
    if bs.isEmpty || r.bad then r
    else
      let n := min (16 - o.pos i % 16) bs.length
      (r.piece k q os o (i + n - 1) (o.pos i) (bs.take n)).writePlane k q os o fuel (i + n) (bs.drop n)

/-- A float written, a NaN noted. -/
def VRun.writeF (r : VRun) (k : Nat) (q : Cmd) (o : VOp) (f : FFmt) (i w : Nat) : VRun :=
  let r1 := r.write k q o i w
  r1.note (!r1.bad && f.unpack w == .nan) stickyNANO

/-- The elements of n that a command handles before its next checkpoint: 16 (08 R167). -/
def Cmd.span (q : Cmd) (n : Nat) : List Nat := ((List.range 16).map (q.row + ·)).filter fun i => decide (i < n)

/-- Elements in turn, until an error. -/
def VRun.loop (r : VRun) (l : List Nat) (f : VRun → Nat → VRun) : VRun :=
  l.foldl (fun r i => if r.bad then r else f r i) r

/-- A value read, or the error. -/
def VRun.with (r : VRun) (x : Option Nat) (f : Nat → VRun) : VRun :=
  match x with
  | some v => f v
  | none => { r with bad := true }

/-- The conditions of `VCMP` (08 R157). -/
def vHolds (c : VCond) (s t : FVal) : Bool :=
  match c, FVal.cmp s t with
  | .ne, none => true
  | .unord, none => true
  | _, none => false
  | .eq, some o => o == .eq
  | .ne, some o => o != .eq
  | .lt, some o => o == .lt
  | .le, some o => o != .gt
  | .gt, some o => o == .gt
  | .ge, some o => o != .lt
  | .ord, some _ => true
  | .unord, some _ => false

/-- The result of an element-wise function, rounded once (08 Tables 8-4, 8-5). -/
def vElement (i : Instr) (vc : Vector Word 8) (f : FFmt) (s t d : FVal) : Nat :=
  match i with
  | .vadd _ _ _ => fAdd f .rne s t
  | .vsub _ _ _ => fSub f .rne s t
  | .vmul _ _ _ => fMul f .rne s t
  | .vfma _ _ _ => fFma f .rne s t d
  | .vmin _ _ _ => f.pack .rne (FVal.min s t)
  | .vmax _ _ _ => f.pack .rne (FVal.max s t)
  | .vabs _ _ => f.pack .rne s.abs
  | .vneg _ _ => f.pack .rne s.neg
  | .vexp2 _ _ => fExp2 f s
  | .vlog2 _ _ => fLog2 f s
  | .vrcp _ _ => fRcp f s
  | .vrsq _ _ => fRsqrt f s
  | .vtanh _ _ => fTanh f s
  | .vsel _ _ _ => f.pack .rne (if d.isZero then t else s)
  | .vclamp _ _ =>
    f.pack .rne (FVal.min (FVal.max s (FFmt.unpack .f32 (bits (vcGet vc 5) 0 32).toNat))
      (FFmt.unpack .f32 (bits (vcGet vc 6) 0 32).toNat))
  | .vcmp _ _ c _ => if vHolds c s t then f.round .rne false 1 1 0 else 0
  | _ => 0

/-- Whether a function reads the old destination. -/
def vReadsDst : Instr → Bool
  | .vfma _ _ _ => true
  | .vsel _ _ _ => true
  | _ => false

/-- The element-wise functions (08 R157, R158). -/
def VRun.elements (r : VRun) (k : Nat) (q : Cmd) (vc : Vector Word 8) (f g : FFmt) : VRun :=
  let d := vDst vc q.pa (vcDfmt vc)
  let a := vSrc vc q.pb (vcFmt vc)
  let b := vSecond vc (vcFmt vc)
  r.loop (q.span (vcLen vc)) fun r i =>
    r.with (r.read k q a i) fun x =>
      r.with (if vUsesSecond q.instr then r.read k q b i else some 0) fun y =>
        r.with (if vReadsDst q.instr then r.read k q d i else some 0) fun z =>
          let t := if vUsesSecond q.instr then f.unpack y else vcScal vc
          r.writeF k q d g i (vElement q.instr vc g (f.unpack x) t (g.unpack z))

/-- An FP32 sum (03 R68). -/
def addF32 (a b : FVal) : FVal := FFmt.unpack .f32 (fAdd .f32 .rne a b)

/-- The partials of `VRED` combined pairwise (03 R68). -/
def pairUp : List FVal → List FVal
  | a :: b :: t => addF32 a b :: pairUp t
  | l => l

/-- The 16 partials, in ascending element order; one that has none counts as -0. -/
def partials (vs : List FVal) : List FVal :=
  (List.range 16).map fun p =>
    match (vs.zipIdx.filter fun e => decide (e.2 % 16 = p)).map Prod.fst with
    | [] => .fin true 0 0
    | x :: t => t.foldl addF32 x

def redSum (vs : List FVal) : FVal := ((pairUp (pairUp (pairUp (pairUp (partials vs))))).head?).getD .nan

/-- The result of `VRED` (08 R161). -/
def vReduce (o : ROp) (vs : List FVal) : FVal :=
  match o with
  | .sum => redSum vs
  | .asum => redSum (vs.map FVal.abs)
  | .max => vs.foldl FVal.max (.inf true)
  | .min => vs.foldl FVal.min (.inf false)

/-- The source elements gathered in order. -/
def VRun.collect (r : VRun) (k : Nat) (q : Cmd) (vc : Vector Word 8) (f : FFmt) : VRun :=
  r.loop (q.span (vcLen vc)) fun r i =>
    r.with (r.read k q (vSrc vc q.pb (vcFmt vc)) i) fun x => { r with carry := r.carry ++ [f.unpack x] }

/-- `VSCAN` (08 R162): the running sum is carried. -/
def VRun.scan (r : VRun) (k : Nat) (q : Cmd) (vc : Vector Word 8) (f g : FFmt) : VRun :=
  r.loop (q.span (vcLen vc)) fun r i =>
    r.with (r.read k q (vSrc vc q.pb (vcFmt vc)) i) fun x =>
      let v := match r.carry with
        | y :: _ => addF32 y (f.unpack x)
        | [] => f.unpack x
      ({ r with carry := [v] }).writeF k q (vDst vc q.pa (vcDfmt vc)) g i (g.pack .rne v)

/-- `VAFS` (08 R163): h is carried in FP32. -/
def VRun.affine (r : VRun) (k : Nat) (q : Cmd) (vc : Vector Word 8) (f g : FFmt) : VRun :=
  ({ r with carry := if q.row = 0 then [vcScal vc] else r.carry }).loop (q.span (vcLen vc)) fun r i =>
    r.with (r.read k q (vSrc vc q.pb (vcFmt vc)) i) fun x =>
      r.with (r.read k q (vSecond vc (vcFmt vc)) i) fun y =>
        let h := FFmt.unpack .f32 (fFma .f32 .rne (f.unpack x) (r.carry.headD .nan) (f.unpack y))
        ({ r with carry := [h] }).writeF k q (vDst vc q.pa (vcDfmt vc)) g i (g.pack .rne h)

/-- A signed element of an integer format. -/
def vSigned (n v : Nat) : Int := if 2 ^ (n - 1) ≤ v then (v : Int) - 2 ^ n else v
def vUnsigned (n : Nat) (v : Int) : Nat := (v % 2 ^ n).toNat

/-- `VCVT` between float and integer formats (08 Table 8-6). -/
def VRun.convert (r : VRun) (k : Nat) (q : Cmd) (vc : Vector Word 8) : VRun :=
  let f := vcFmt vc
  let t := vcTfmt vc
  let d := vDst vc q.pa t
  r.loop (q.span (vcLen vc)) fun r i =>
    r.with (r.read k q (vSrc vc q.pb f) i) fun x =>
      match vFloat f, vInt f, vFloat t, vInt t with
      | some a, _, some b, _ => r.writeF k q d b i (b.pack .rne (a.unpack x))
      | some a, _, _, some n =>
        let v := floatToInt .rne n (a.unpack x)
        (r.write k q d i (vUnsigned n v.1)).note v.2 stickySAT
      | _, some m, some b, _ => r.writeF k q d b i (b.pack .rne (FVal.int (vSigned m x)))
      | _, some m, _, some n =>
        let v := clampInt (-2 ^ (n - 1)) (2 ^ (n - 1) - 1) (vSigned m x)
        (r.write k q d i (vUnsigned n v)).note (decide (v ≠ vSigned m x)) stickySAT
      | _, _, _, _ => r

/-- Blocks of 32 elements converted to BX (08 R160, 03 R62), each when the command reaches its first element. -/
def VRun.toBx (r : VRun) (k : Nat) (q : Cmd) (vc : Vector Word 8) (f : FFmt) (g : BxFmt) : VRun :=
  let es := vPlane (addrOf q.pa) (vcLen vc / 32 * g.blockBytes) 16
  let hs := vPlane (addrOf (vcGet vc 1)) (vcLen vc / 32 * 2) 2
  r.loop ((q.span (vcLen vc)).filter fun i => decide (i % 32 = 0)) fun r e =>
    match (List.range 32).mapM fun i => r.read k q (vSrc vc q.pb (vcFmt vc)) (e + i) with
    | none => { r with bad := true }
    | some xs =>
      let j := e / 32
      let b := g.convert (vcDelta vc) (xs.map f.unpack)
      let r1 := r.writePlane k q [es, hs] es 4 (j * g.blockBytes) (leBytes g.blockBytes b.elems)
      let r2 := r1.writePlane k q [es, hs] hs 2 (2 * j) (leBytes 2 b.header)
      (r2.note (!r2.bad && b.saturated) stickySAT).note (!r2.bad && b.nanBlock) stickyNANB

/-- Elements converted from BX (08 R160, 03 R63). -/
def VRun.fromBx (r : VRun) (k : Nat) (q : Cmd) (vc : Vector Word 8) (g : BxFmt) (f : FFmt) : VRun :=
  r.loop (q.span (vcLen vc)) fun r i =>
    match r.bytes k q ((addrOf q.pb).toNat + i / 32 * g.blockBytes) g.blockBytes,
      r.bytes k q ((addrOf (vcGet vc 1)).toNat + 2 * (i / 32)) 2 with
    | some es, some hs =>
      r.writeF k q (vDst vc q.pa (vcTfmt vc)) f i (f.pack .rne (g.value (leNat hs) (g.elem (leNat es) (i % 32))))
    | _, _ => { r with bad := true }

/-- `VGATH` and `VSCAT` (08 R164). Which granules of its table a scatter writes, and whether whole, only its indices tell: what it
writes waits for its last element (DESIGN CHOICE, entry 64). -/
def VRun.moveBy (r : VRun) (k : Nat) (q : Cmd) (vc : Vector Word 8) (scatter : Bool) : VRun :=
  let f := vcFmt vc
  let idx : VOp := if scatter then { vDst vc q.pa 3 with e := 4, align := 4 } else { vSrc vc q.pb 3 with e := 4, align := 4 }
  r.loop (q.span (vcLen vc)) fun r i =>
    r.with (r.read k q idx i) fun w =>
      let j := vSigned 32 w
      let inside := decide (0 ≤ j) && decide (j < vcTlen vc)
      let r1 := r.note (!inside) stickyOOR
      if scatter then
        r1.with (r1.read k q (vSrc vc q.pb f) i) fun x => if inside then r1.keep ((vTable vc).pos j.toNat) (leBytes (vBytes f) x) else r1
      else
        r1.with (if inside then r1.read k q (vTable vc) j.toNat else some 0) fun x => r1.write k q (vDst vc q.pa f) i x

/-- The next 16 elements of a command with operands (08 R155). -/
def VRun.run (r : VRun) (k : Nat) (q : Cmd) (vc : Vector Word 8) : VRun :=
  match q.instr, vFloat (vcFmt vc), vFloat (vcDfmt vc) with
  | .vcvt _ _, _, _ =>
    match vBx (vcFmt vc), vBx (vcTfmt vc), vFloat (vcFmt vc), vFloat (vcTfmt vc) with
    | some g, none, _, some f => r.fromBx k q vc g f
    | none, some g, some f, _ => r.toBx k q vc f g
    | _, _, _, _ => r.convert k q vc
  | .vgath _ _, _, _ => r.moveBy k q vc false
  | .vscat _ _, _, _ => r.moveBy k q vc true
  | .vred _ _ _ _, some f, some _ => r.collect k q vc f
  | .vscan _ _, some f, some g => r.scan k q vc f g
  | .vafs _ _ _, some f, some g => r.affine k q vc f g
  | _, some f, some g => r.elements k q vc f g
  | _, _, _ => r

/-- The result of a `VRED`, once every element has been read (08 R161). -/
def VRun.result (r : VRun) (k : Nat) (q : Cmd) (vc : Vector Word 8) : VRun :=
  match q.instr, vFloat (vcDfmt vc) with
  | .vred _ _ o rv, some g =>
    if r.bad then r
    else
      let w := g.pack .rne (vReduce o r.carry)
      if rv then { r with s := r.s.giveRv k q (BitVec.ofNat 64 w) } else r.writeF k q (vOne vc q.pa) g 0 w
  | _, _ => r

/-- Where a context that is held takes an error of the vector unit (08 R156). -/
def vxWaits : Instr → Bool
  | .vwait => true
  | _ => false

/-- An engine error of the vector unit (08 R156). -/
def State.vxFail (s : State) (k : Nat) (q : Cmd) (c : Byte) : State :=
  let x := s.core k
  (s.setCore k { x with vx := x.vx.setErr c q.pc }).discardFrom k .vx q vxWaits c

/-- The last h of a `VAFS` kept in `VC2`, where it asks for it (08 R163). -/
def vcAfter (q : Cmd) (vc : Vector Word 8) (r : VRun) : Vector Word 8 :=
  let vc1 := vcSet vc 7 (vcGet vc 7 ||| r.sticky)
  match q.instr with
  | .vafs _ _ true =>
    if vcLen vc = 0 then vc1 else vcSet vc1 2 (BitVec.ofNat 64 (FFmt.pack .f32 .rne (r.carry.headD .nan)))
  | _ => vc1

/-- Values carried from element to element, as FP32, which holds them exactly. -/
def carryOf (l : List Word) : List FVal := l.map fun w => FFmt.unpack .f32 (w.toNat % 2 ^ 32)
def carryWords (l : List FVal) : List Word := l.map fun v => BitVec.ofNat 64 (FFmt.pack .f32 .rne v)

/-- The registers of a core's vector context. -/
def State.setVc (s : State) (k : Nat) (vc : Vector Word 8) : State :=
  let y := s.core k
  s.setCore k { y with vx := { y.vx with vc := vc } }

/-- A granted command starts, or goes on from its checkpoint. Register accesses are done at once. -/
def State.vxExec (s : State) (k : Nat) (q : Cmd) : State :=
  let x := s.core k
  let vc := x.vx.vc
  let go : Cmd := { q with ran := true, started := true }
  let fin : Cmd := { go with moved := true }
  if q.started then s.setCmd k .vx go
  else
    match q.instr with
    | .vwr _ _ => (s.setVc k (vcWrites vc q)).setCmd k .vx fin
    | .vwrg _ _ _ => (s.setVc k (vcWrites vc q)).setCmd k .vx fin
    | .vrd j =>
      let busy : Word := if j = 7 ∧ 1 < x.vx.queue.length then 1 else 0
      (s.giveRv k q (vcGet vc j.toNat ||| busy)).setCmd k .vx fin
    | _ =>
      match vOperands q.instr vc q.pa q.pb with
      | none => s.vxFail k q causeIllop
      | some _ => s.setCmd k .vx go

/-- The next 16 elements of a running command (08 R155, R167); the last of them complete it. A granule that then still waits is a
poisoned one written in part. -/
def State.vxStep (s : State) (k : Nat) (q : Cmd) : State :=
  if q.moved then s.complete k .vx q
  else
    let vc := (s.core k).vx.vc
    let last := decide (vcLen vc ≤ q.row + 16)
    let r0 := ({ s := s, carry := carryOf q.vals, wrote := q.wrote } : VRun).run k q vc
    let r1 := if last then r0.result k q vc else r0
    let r2 := if last || r1.bad then r1.commitAll k q else r1
    let r := if last && !r2.wrote.isEmpty then { r2 with bad := true } else r2
    if r.bad then (r.s.setVc k (vcSet vc 7 (vcGet vc 7 ||| r.sticky))).vxFail k q causeEccunc
    else if last then (r.s.setVc k (vcAfter q vc r)).complete k .vx q
    else
      (r.s.setVc k (vcSet vc 7 (vcGet vc 7 ||| r.sticky))).setCmd k .vx { q with row := q.row + 16, vals := carryWords r.carry, wrote := r.wrote }

/-- The bytes that a vector command holds are performed, where they can be, before its banks are saved (08 R167). -/
def State.vxFlush (s : State) (k : Nat) : State :=
  (s.core k).vx.queue.foldl (fun s q =>
    if q.wrote.isEmpty then s
    else
      let r := ({ s := s, wrote := q.wrote } : VRun).commitAll k q
      r.s.setCmd k .vx { q with wrote := r.wrote }) s

/-! ### Grant and completion (20 R304) -/

/-- The command of a core that could be granted now: the unit takes one at a time (08 R151). -/
def State.vxNext (s : State) (quad k : Nat) : Option Cmd :=
  let x := s.core k
  let busy := (quadCores quad).any fun j => (s.core j).vx.queue.any Cmd.ran
  match x.vx.queue with
  | c :: _ => if !s.throttled && s.enginesRun k && !x.vx.absent && c.present && !c.ran && !busy then some c else none
  | [] => none

def execVectorCommandGrant (quad : Nat) (s : State) : Out :=
  match (quadTurn quad (s.quad quad).lastVx).findSome? fun e => (s.vxNext quad e.2).map fun c => (e, c) with
  | some ((i, k), c) => .next ((s.setQuad quad { s.quad quad with lastVx := i }).vxExec k c)
  | none => .next s

/-- The vector command granted on a core handles its next 16 elements, or completes. -/
def execVectorCommandComplete (k : Nat) (s : State) : Out :=
  match (s.core k).vx.queue.find? Cmd.ran with
  | some c => .next (if s.enginesRun k && c.present then s.vxStep k c else s)
  | none => .next s

end Sys2Proof.Machine
end

