-- ==== Sys2Proof/Machine/Preempt.lean ====
section
/-! DEFINITION. Pre-emption (11 R221, 23 R351 to R359): `CTXSV` and `CTXLD`, the order of a save, the save area, the
load onto a core, the micro-traps that restore what was left absent, and the end of a `DOUBLE` stop. -/

namespace Sys2Proof.Machine

/-! ### The save area (23 R354, entry 8) -/

/-- The name of a save area: its virtual device and G address. -/
def areaKey (v : Nat) (a : Addr) : Nat := v * 2 ^ 48 + a.toNat

def areaVdev (key : Nat) : Nat := key / 2 ^ 48
def areaAddr (key : Nat) : Addr := BitVec.ofNat 48 (key % 2 ^ 48)

/-- The addresses of the pages of a save area. -/
def areaVas (key : Nat) : List Addr := (List.range 4).map fun i => areaAddr key + BitVec.ofNat 48 (32768 * i)

/-- The physical pages of a save area: aligned, mapped and pinned, and for a save writable; owned by the device or by none
(11 R221, 22 R336, 23 R356). -/
def State.areaPages (s : State) (key : Nat) (wr : Bool) : Option (List Nat) :=
  if (areaAddr key).toNat % 32768 ≠ 0 then none
  else
    (areaVas key).mapM fun a =>
      match s.xlateWalk (areaVdev key) a wr with
      | some pa =>
        let o := (s.frame (frameOf pa)).owner
        if o = none ∨ o = some (areaVdev key) then some pa else none
      | none => none

/-- The walks of a save area's pages counted, and a malformed entry told to the host (19 R289, 22 R331). -/
def State.walkArea (s : State) (key : Nat) : State := (areaVas key).foldl (fun s a => s.walked (s.deviceNode (areaVdev key)) (areaVdev key) a) s

/-- The traffic of a save or load of a core with the slices of its area; one exchange stands for a page (21 R309; entry 32). -/
def State.areaUsed (s : State) (k key : Nat) : State :=
  ((s.areaPages key false).getD []).foldl (fun s pa => s.asks (.core k) (.slice (sliceOf pa)) .ctrl .ctrl) (s.walkArea key)

/-- Whether a page of a save area moves, so that an access of it waits (19 R295). -/
def State.areaMoves (s : State) (key : Nat) (wr : Bool) : Bool :=
  (s.areaPages key wr).any fun l => l.any fun pa => (s.frame (frameOf pa)).moving

/-- The header of a save area (23 Table 23-4). -/
def Saved.header (e : Saved) : Nat :=
  (coreWord e.saver).toNat + e.vdev * 2 ^ 64 + e.mask.toNat * 2 ^ 80 + e.cyc.toNat * 2 ^ 96 +
    (Config.saveCheck e.seed).toNat * 2 ^ 160

/-- The byte at an offset of a save area (23 Table 23-3): the device's own form is free. -/
def Saved.byte (e : Saved) (i : Nat) : Byte :=
  if i < 256 then BitVec.ofNat 8 (e.header / 2 ^ (8 * i)) else if i < 0x1C800 then Config.freeByte (e.seed + i) else 0

/-- Where the line `i` of a save area lies. -/
def areaLine (pages : List Nat) (i : Nat) : Nat := pages.getD (i / 512) 0 + i % 512 * 64

/-- A save area written. -/
def State.writeArea (s : State) (pages : List Nat) (e : Saved) : State :=
  (List.range 2048).foldl (fun s i =>
    let pa := areaLine pages i
    ((s.setLine (lineOf pa) { s.line (lineOf pa) with poison := false }).gStore e.vdev pa 64
      (leNat ((List.range 64).map fun j => e.byte (64 * i + j)))).noteThrough nobody (.ctx 0) pa false) s

/-- Whether a save area still reads as it was written, so that its header and check are good (23 R354). -/
def State.areaGood (s : State) (key : Nat) (e : Saved) : Bool :=
  match s.areaPages key false with
  | none => false
  | some pages =>
    (List.range 2048).all fun i =>
      let pa := areaLine pages i
      (s.sliceCheck e.vdev pa).isNone &&
        decide (Memory.readN s.mem pa 64 = leNat ((List.range 64).map fun j => e.byte (64 * i + j)))

/-! ### Saving (23 R352, R353) -/

/-- The helpers of a core that are away come home, but for one whose request is under way (10 R193). -/
def State.recallAll (s : State) (k : Nat) : State :=
  (s.core k).liveHelpers.foldl (fun s h => if s.helperMidway k h then s else s.recallHelper k h) s

/-- A save requested of a core: its helpers that are away come home (10 R193). -/
def State.beginSave (s : State) (k key : Nat) : State :=
  let s1 := (s.wake (clusOf k)).recallAll k
  s1.setCore k { s1.core k with stopReq := some (.save key) }

/-- Whether a context has a store under way that a save waits for: not a release that is held back by an earlier store which
has failed, which only the context's handler can end (23 R350; DESIGN CHOICE, entry 26). -/
def Ctx.storesPending (y : Ctx) : Bool :=
  y.log.toList.any fun e => e.busy && !(decide (e.state = .held) &&
    y.log.toList.any fun o => decide (o.state = .failed) && decide (o.order < e.order))

/-- Whether every context of a core stands at its stop point (23 Table 23-2), its helpers are home, its posted stores have
completed or failed, and its copy engine stands at the end of a transfer unit (09 R185). -/
def State.saveReady (s : State) (k : Nat) : Bool :=
  !s.coreFlows k && !(s.core k).copyBusy && !((s.core k).ctxs.any fun e => e.2.guest.isNone && (e.2.midway || e.2.away.isSome || e.2.storesPending))

/-- What a context keeps of the instruction it stood in (23 Table 23-2): an arrival, a wait for a command, a log that
drains, a trap it still owes; anything else starts anew after the load. -/
def Ctx.saved (y : Ctx) : Ctx :=
  let keep := match y.phase with
    | some (.arrived _ _) => true
    | some (.until _) => true
    | some (.verdict _) => true
    | some (.abandoned _ _) => true
    | some .closing => true
    | some .draining => true
    | _ => false
  if keep then y else { y with hold := none }

/-- The engines of a core at a save: commands that have moved everything complete, running ones stop at their checkpoints, and
values owed to RV arrive (07 R149, 08 R167, 23 R353, step 2). -/
def State.saveEngines (s : State) (k : Nat) : State :=
  let fin (q : Cmd) : Bool := q.moved
  let s1 := ((s.core k).mx.queue.filter fin).foldl (fun s q => s.complete k .mx q) s
  let s2 := ((s1.core k).vx.queue.filter fin).foldl (fun s q => s.complete k .vx q) s1
  let s3 := s2.setCore k (s2.core k).yields
  (List.range (s3.core k).returns.length).foldl (fun s _ => s.rvStep k) s3

/-- A core whose work is held where it stands, as a save keeps it: by `DROWSE` or by a migration (22 R344, R346). -/
def State.atRest (s : State) (k : Nat) : State :=
  let s1 := s.saveEngines k
  let x := s1.core k
  s1.setCore k { x with ctxs := x.ctxs.map fun e => if e.2.guest.isSome then e else (e.1, e.2.saved) }

/-- The cores of a cluster with a task that is not saved. -/
def State.clusterLive (s : State) (cl : Nat) : List Nat :=
  (s.cores.filter fun e => decide (clusOf e.1 = cl) && e.2.task.isSome && e.2.savedAt.isNone && decide (e.2.stop ≠ .double)).map Prod.fst

/-- What is fetched on first use is marked absent (23 R356); engine contexts with pending commands are whole. -/
def Core.lazy (x : Core) : Core :=
  { x with
    ctxs := x.ctxs.map fun e => if e.2.guest.isSome then e else (e.1, { e.2 with absent := true })
    mx := { x.mx with absent := x.mx.queue.isEmpty }
    vx := { x.vx with absent := x.vx.queue.isEmpty }
    cx := { x.cx with absent := x.cx.queue.isEmpty } }

/-- A `DROWSE` that was requested takes place once the cluster's contexts stand: they are saved as `CTXSV` saves them, but
for their banks, which the state keeps, and are restored on first use (22 R344). -/
def State.drowse (s : State) (cl : Nat) : State :=
  if (s.cluster cl).request = some .drowse && (s.clusterLive cl).all fun k => s.saveReady k then
    let s1 := (s.clusterLive cl).foldl (fun s k =>
      let t := s.atRest k
      t.setCore k { (t.core k).lazy with drowsed := true }) s
    s1.setCluster cl { s1.cluster cl with power := .drowse, request := none }
  else s

/-- The slots a save writes out: attached and closed, slot 0 never (01 Table 1-9). -/
def Core.savedSlots (x : Core) : List Nat :=
  (List.range 12).filter fun n =>
    decide (0 < n) && decide ((x.slot n).state = .attached) && !(x.slot n).opened

/-- A command's pair of a slot renamed. -/
def Cmd.rebank (q : Cmd) (slot bank : Nat) : Cmd :=
  { q with banks := q.banks.map fun e => if e.1 = slot then (slot, bank) else e }

def Core.rebank (x : Core) (slot bank : Nat) : Core :=
  { x with
    mx := { x.mx with queue := x.mx.queue.map fun q => q.rebank slot bank }
    vx := { x.vx with queue := x.vx.queue.map fun q => q.rebank slot bank }
    cx := { x.cx with queue := x.cx.queue.map fun q => q.rebank slot bank } }

/-- A closed bank leaves its core: freed clean, its slot ABSENT (23 R353, step 5). -/
def State.saveSlot (s : State) (k n : Nat) : State :=
  let sl := s.slot k n
  let s1 := s.returnBank (clusOf k) sl.bank .clean true
  s1.setCore k (((s1.core k).rebank n noBank).setSlot n { sl with state := .absent, bank := 0x3FF, opened := false })

/-- The pieces of an earlier save that are still absent go into the next one (23 R356): its banks, with their slots. -/
def State.stillAbsent (s : State) (k : Nat) : Sparse Bank :=
  match (s.core k).restoreFrom.bind fun a => s.saved.find a with
  | some e => e.banks.filter fun b => decide ((s.slot k b.1).state = .absent)
  | none => []

/-- The save itself, once the core stands. -/
def State.saveNow (s : State) (k key : Nat) (pages : List Nat) : State :=
  let s1 := (s.vxFlush k).saveEngines k
  let x := s1.core k
  let ns := x.savedSlots
  let bs := ns.foldl (fun m n => m.put n (s1.bank (clusOf k) (x.slot n).bank)) (s1.stillAbsent k)
  let e : Saved :=
    { saver := k, part := (s1.partOf k).getD 0, vdev := areaVdev key, banks := bs
      mask := bs.foldl (fun m b => m ||| BitVec.twoPow 12 b.1) 0, cyc := s1.cyc, seed := s1.fresh }
  let s2 := ns.foldl (fun s n => s.saveSlot k n) s1
  let s3 := s2.writeArea pages e
  let old := match x.restoreFrom with
    | some a => s3.saved.drop a
    | none => s3.saved
  let s4 : State := { s3 with saved := old.put key e, fresh := s1.fresh + 0x20000 }
  let y := s4.core k
  s4.setCore k { y with
    ctxs := y.ctxs.map fun c => if c.2.guest.isSome then c else (c.1, c.2.saved)
    stop := .running, stopReq := none, savedAt := some key, restoreFrom := none, drowsed := false }

/-- How far a save has come. -/
inductive SaveRes where
  | done (s : State)
  | bad (s : State)
  | waits (s : State)

/-- A save under way goes on if it can: its area must still be good, and none of its pages move. Answers to stores that a stopped
core has parked are taken for it (23 R353, R359). -/
def State.saveStep (s0 : State) (k key : Nat) : SaveRes :=
  let s := (s0.recallAll k).drainAcks k
  match s.areaPages key true with
  | none => .bad ((s.setCore k { s.core k with stopReq := none }).walkArea key)
  | some pages =>
    if s.saveReady k && !s.areaMoves key true then .done ((s.areaUsed k key).saveNow k key pages) else .waits s

/-- The virtual device in which `P5` names a save area: the task's, else that of the partition. -/
def State.areaDevice (s : State) (k : Nat) : Nat :=
  match (s.core k).task with
  | some t => t.vdev
  | none => ((s.partOf k).map fun p => (s.part p).vdev).getD 0

/-- `CTXSV` (11 R221). -/
def execCtxsv (c : BitVec 6) (s : State) : Out :=
  serviceOp (.ctxsv c) c s fun s t =>
    let x := s.core t
    let key := areaKey (s.areaDevice t) (addrOf (s.me.ptr 5))
    let ends (s : State) (a : Word) : Act := s.retire (s.me.setA a)
    let step (s : State) : Act :=
      match s.saveStep t key with
      | .done s1 => ends s1 0
      | .bad s1 => ends s1 2
      | .waits s1 => .wait .stopping s1
    if x.savedAt = some key ∧ s.me.phase = some .stopping then ends s 0
    else if x.stop = .double then ends s 3
    else if x.task.isNone || x.savedAt.isSome then ends s 1
    else if x.stopReq = some (.save key) then step s
    else if x.stopReq.isSome || x.revoking then .wait .stopping s
    else if (s.areaPages key true).isNone then ends (s.walkArea key) 2
    else if !s.settled (.core s.k) (.core t) .ctrl then .wait .held s
    else step ((s.pass (.core s.k) (.core t) .ctrl).beginSave t key)

/-! ### Loading (11 R221, 23 R356, R358) -/

/-- A group with one member named as another (23 R358). -/
def Group.rename (g : Group) (a b : Nat) : Group :=
  let f (k : Nat) : Nat := if k = a then b else k
  { g with
    members := g.members.map f
    arrived := g.arrived.map fun e => (f e.1, e.2)
    phase := g.phase.map fun r => { r with members := r.members.map f, going := r.going.map f } }

/-- A packet of a reduction whose command has moved. -/
def CollItem.rename (i : CollItem) (a b : Nat) : CollItem :=
  match i with
  | .add core t c pa bf det n id v => .add (if core = a then b else core) t c pa bf det n id v
  | .flush core c v pa bf => .flush (if core = a then b else core) c v pa bf

/-- What stays on a core when its saved context has left: its guests, and what is the core's own. `FLOWCYC` keeps its value until
the next `FLOW` (01 R23). -/
def Core.vacated (x : Core) : Core :=
  { x with
    ctxs := x.ctxs.filter fun e => e.2.guest.isSome
    tvec := 0, slots := [], reasons := [], inbox := [], mx := {}, vx := {}, cx := {}, cmdSeq := 0,
    returns := [], task := none, savedAt := none, restoreFrom := none, drowsed := false, flow := none, sel := none, outsNext := [] }

/-- A core that receives a saved context. -/
def Core.receive (y x : Core) : Core :=
  { y with
    ctxs := x.ctxs.filter fun e => e.2.guest.isNone
    tvec := x.tvec, flowcyc := x.flowcyc, slots := x.slots, reasons := x.reasons, inbox := x.inbox, icache := x.icache, mx := x.mx,
    vx := x.vx, cx := x.cx, cmdSeq := x.cmdSeq, returns := x.returns, task := x.task, flow := x.flow, sel := x.sel }

/-- A twin's partner told of the move. -/
def State.retwin (s : State) (n : Nat) : State :=
  match (s.core n).task.bind Task.twin with
  | some w =>
    let y := s.core w.partner
    s.setCore w.partner { y with task := y.task.map fun t => { t with twin := t.twin.map fun u => { u with partner := n } } }
  | none => s

/-- The guests of a core return to their tasks' cores (10 R193). -/
def State.guestsHome (s : State) (k : Nat) : State :=
  (s.core k).ctxs.foldl (fun s e => if e.2.guest.isSome then (s.bringHome k e.1).1 else s) s

def Part.rename (x : Part) (a b : Nat) : Part :=
  { x with groups := x.groups.map fun g => (g.1, g.2.rename a b) }

/-- Contributions that a task made on another core of its cluster are its own after its load (09 R181, R185). -/
def RAcc.rename (x : RAcc) (a b uid : Nat) : RAcc :=
  { x with parts := x.parts.map fun p => if p.2.1 = (a, uid) then (p.1, (b, uid), p.2.2) else p }

def Slice.rename (x : Slice) (a b uid : Nat) : Slice :=
  { x with
    coll := x.coll.map fun i => i.rename a b
    accs := x.accs.map fun e => (e.1, e.2.rename a b uid) }

/-- Reduction packets under way, and tier-1 lines behind, that were a core's. -/
def State.renameCore (s : State) (a b : Nat) : State :=
  { s with
    packets := s.packets.map fun e => match e.2.payload with
      | .coll i => (e.1, { e.2 with payload := .coll (i.rename a b) })
      | .done k q n st => (e.1, { e.2 with payload := .done (if k = a then b else k) q n st })
      | _ => e
    through := s.through.map fun t => if t.core = a then { t with core := b } else t }

/-- Everything the save left attached to core `a` moves with the context to core `b` of the cluster (23 R358). -/
def State.moveSaved (s0 : State) (a b : Nat) : State :=
  let s := s0.guestsHome b
  let x := s.core a
  let s1 := ((List.range 11).foldl (fun s c => s.renameStores a c b c) s)
  let s2 := (s1.setCore a x.vacated).setCore b ((s1.core b).receive x)
  let s3 := (List.range 12).foldl (fun s n =>
    let sl := x.slot n
    if sl.state = .attached then s.setBank (clusOf b) sl.bank { s.bank (clusOf b) sl.bank with state := .held b n } else s) s2
  let s4 := match x.task with
    | some t => s3.setPart t.part ((s3.part t.part).rename a b)
    | none => s3
  let uid := (x.task.map Task.uid).getD 0
  State.retwin (State.renameCore { s4 with slices := s4.slices.map fun e => (e.1, e.2.rename a b uid) } a b) b

/-- A saved context loaded onto a core. -/
def State.loadOnto (s : State) (k key : Nat) (e : Saved) : State :=
  let s1 := if e.saver = k then s else s.moveSaved e.saver k
  (s1.setCore k { (s1.core k).lazy with savedAt := none, restoreFrom := some key }).drainInbox k

/-- Whether a core may load a save: it is free and takes work alone, or holds this one (11 R221, 23 R363). -/
def State.mayLoad (s : State) (k key : Nat) : Bool :=
  let x := s.core k
  decide (x.savedAt = some key) || (x.task.isNone && x.savedAt.isNone && !x.testing && !x.quarantined)

/-- `CTXLD` (11 R221). -/
def execCtxld (c : BitVec 6) (s : State) : Out :=
  serviceOp (.ctxld c) c s fun s t =>
    let key := areaKey (s.areaDevice t) (addrOf (s.me.ptr 5))
    if !s.mayLoad t key then s.retire (s.me.setA 1)
    else
      match s.saved.find key with
      | none => s.retire (s.me.setA 2)
      | some e =>
        if s.areaMoves key false || !s.settled (.core s.k) (.core t) .ctrl then .wait .held s
        else if (s.core e.saver).savedAt ≠ some key || clusOf e.saver ≠ clusOf t || s.partOfSite t ≠ some e.part || !s.areaGood key e then
          let s1 := s.walkArea key
          s1.retire (s1.me.setA 2)
        else
          let s1 := ((s.areaUsed t key).pass (.core s.k) (.core t) .ctrl).loadOnto t key e
          s1.retire (s1.me.setA 0)

/-! ### Micro-traps (23 R356) -/

/-- The words of a prepared `FLOW` locked again (10 R200). -/
def State.relock (s : State) (k : Nat) : State :=
  let x := s.core k
  match x.flow with
  | some f =>
    if f.opened then s
    else
      let s1 := s.useLocked k 0 f.base
      s1.setCore k { s1.core k with flow := some { f with words := s.lockFrom k 0 f.base } }
  | none => s

/-- After a restore: a member that waits in `FLOW` is prepared again and may be released; a save of which nothing is
left is done with. -/
def State.restored (s : State) (k : Nat) : State :=
  let x := s.core k
  let slotsLeft := (List.range 12).any fun n => decide ((x.slot n).state = .absent)
  let left := slotsLeft || (x.ctxs.any fun e => e.2.absent) || x.mx.absent || x.vx.absent || x.cx.absent
  let s1 := if !slotsLeft && !(x.ctx k 0).absent && x.flow.isSome then
      match x.flow, s.partOf k with
      | some f, some p => (s.relock k).flowOpen p f.group
      | _, _ => s
    else s
  match x.restoreFrom with
  | some key => if left then s1 else
      { s1.setCore k { s1.core k with restoreFrom := none } with saved := s1.saved.drop key }
  | none => if left then s1 else s1.setCore k { s1.core k with drowsed := false }

/-- Whether a restore has to wait: a page of the save area moves, or one that a prepared `FLOW` locks again (19 R295). -/
def State.restoreWaits (s : State) (k : Nat) : Bool :=
  ((s.core k).restoreFrom.any fun key => s.areaMoves key false) ||
    (s.core k).flow.any fun f => !f.opened && s.lockMoves k 0 f.base

/-- A micro-trap of a core: the save area must still be readable and its check good, else the task is aborted. What a
`DROWSE` left absent lies in no area. -/
def State.microTrap (s : State) (k : Nat) (f : State → Saved → State) : State :=
  if s.restoreWaits k then s
  else match (s.core k).restoreFrom with
  | some key =>
    let s1 := s.walkArea key
    match s.saved.find key with
    | some e => if s.areaGood key e then (f s1 e).restored k else s1.abortTask k
    | none => s1.abortTask k
  | none =>
    if (s.core k).drowsed then
      (f s { saver := k, part := 0, vdev := 0 }).restored k
    else s

/-- The commands of a core that a granted turn may reach next: the head of each queue, and what may run beside a load
(01 R30, 07 R128). -/
def Core.reachable (x : Core) : List Cmd :=
  x.vx.queue.take 1 ++ x.cx.queue.take 1 ++ (match x.mx.queue with
    | q :: p :: _ => (match q.instr with
      | .mxls _ _ => if q.ran then [q, p] else [q]
      | _ => [q])
    | l => l)

/-- Whether something waits for an ABSENT slot: an instruction that reaches it, a `FLOW` that prepares or waits, or a command
whose turn has come and that has it in its footprint (01 R27, 23 R356). -/
def State.slotWanted (s : State) (k n : Nat) : Bool :=
  let x := s.core k
  (x.ctxs.any fun e => match e.2.hold with
    | some { phase := .bankMiss m, .. } => decide (m = n)
    | some { instr := .flow _ _, .. } => true
    | _ => false) ||
    x.reachable.any fun q => q.banks.any fun b => decide (b.1 = n)

/-- The slot restored into a bank of the pool; with none free it waits (19 R386). -/
def execBankMissMicrotrap (k n : Nat) (s : State) : Out :=
  if (s.slot k n).state = .absent && s.slotWanted k n then
    .next (s.microTrap k fun s e =>
      match (s.cluster (clusOf k)).pick (quadIn k), e.banks.find n with
      | some b, some bk =>
        let s1 := s.attach k n b { bk with marked := (s.bank (clusOf k) b).marked, corrected := (s.bank (clusOf k) b).corrected }
          (s.slot k n).tag
        let s2 := s1.setCore k ((s1.core k).rebank n b)
        { s2 with saved := match (s.core k).restoreFrom with
            | some key => s2.saved.put key { e with banks := e.banks.drop n }
            | none => s2.saved }
      | _, _ => s)
  else .next s

/-- The engine an instruction names. -/
def engineOf : Instr → Option Engine
  | .mxls _ _ => some .mx | .mxflip => some .mx | .mxst _ _ => some .mx | .mxzero => some .mx | .mxswap => some .mx
  | .mxdrn _ _ => some .mx | .mxckl => some .mx | .mxckf => some .mx | .mxrty => some .mx | .mxwait => some .mx
  | .mxrd _ => some .mx | .mxwr _ _ => some .mx | .mxwrg _ _ _ => some .mx
  | .vadd _ _ _ => some .vx | .vsub _ _ _ => some .vx | .vmul _ _ _ => some .vx | .vfma _ _ _ => some .vx
  | .vmin _ _ _ => some .vx | .vmax _ _ _ => some .vx | .vabs _ _ => some .vx | .vneg _ _ => some .vx
  | .vexp2 _ _ => some .vx | .vlog2 _ _ => some .vx | .vrcp _ _ => some .vx | .vrsq _ _ => some .vx
  | .vtanh _ _ => some .vx | .vcvt _ _ => some .vx | .vred _ _ _ _ => some .vx | .vscan _ _ => some .vx
  | .vafs _ _ _ => some .vx | .vsel _ _ _ => some .vx | .vclamp _ _ => some .vx | .vcmp _ _ _ _ => some .vx
  | .vgath _ _ => some .vx | .vscat _ _ => some .vx | .vwr _ _ => some .vx | .vwrg _ _ _ => some .vx
  | .vrd _ => some .vx | .vwait => some .vx
  | .cg2l _ _ => some .cx | .cl2g _ _ => some .cx | .cl2c _ _ => some .cx | .cc2l _ _ => some .cx
  | .cw2l _ _ => some .cx | .cl2w _ _ => some .cx | .cx2g _ _ => some .cx | .cg2x _ _ => some .cx
  | .cwr _ _ => some .cx | .cwrg _ _ _ => some .cx | .cwait => some .cx | .rdadd _ _ => some .cx
  | .rdflush _ => some .cx | .rdwait => some .cx
  | _ => none

/-- An engine context present again. -/
def Core.present (x : Core) : Engine → Core
  | .mx => { x with mx := { x.mx with absent := false } }
  | .vx => { x with vx := { x.vx with absent := false } }
  | .cx => { x with cx := { x.cx with absent := false } }

/-- The registers of a context, or the idle engine that its held instruction names, are restored. -/
def execRegisterMissMicrotrap (k c : Nat) (s : State) : Out :=
  let y := s.ctx k c
  if y.absent then .next (s.microTrap k fun s _ => s.setCtx k c { s.ctx k c with absent := false })
  else
    match y.hold with
    | some { instr := i, phase := .engineMiss, .. } =>
      (match engineOf i with
      | some e => .next (s.microTrap k fun s _ => s.setCore k ((s.core k).present e))
      | none => .next s)
    | _ => .next s

/-! ### The progress of stops, and `DOUBLE` -/

/-- A save under way goes on, of the core or of its cluster. -/
def execSaveSequence (k : Nat) (s : State) : Out :=
  match (s.core k).stopReq with
  | some (.save key) =>
    match s.saveStep k key with
    | .done s1 => .next s1
    | .bad s1 => .next s1
    | .waits s1 => .next s1
  | _ => .next (s.drowse (clusOf k))

/-- A requested stop takes place at the core (11 R222, R223); a thermal stop reaches here a core that was being saved (23 R359,
24 R377). -/
def execCoreStopReached (k : Nat) (s : State) : Out :=
  if s.thermal = true ∧ k < sites ∧ (s.core k).saving = false then .next (s.stopCore k .thermal) else .next (s.takeStop k)

/-- A core stopped by `DOUBLE` is aborted (23 R349); under debug state `HALT` it first waits for its release. -/
def execDoubleAbortTimer (k : Nat) (s : State) : Out :=
  let x := s.core k
  if x.stop = .double ∧ (s.debug ≠ .halt ∨ x.doubleReleased = true) then
    let dr := if (bits s.drel 0 14).toNat = clusOf k ∧ (bits s.drel 14 6).toNat = clocOf k then putBit s.drel 63 false else s.drel
    .next { s.abortTask k with drel := dr }
  else .next s

end Sys2Proof.Machine
end

