-- ==== Sys2Proof/Machine/Events.lean ====
section
/-! DEFINITION. Events of a core's own accesses: stores at their slices and their reports (05 R93 to R98, 21 R324),
translation misses (19 R290), expired bounds (05 R100), event latches sent to helpers that are away, and helper
migration (10 R193, 18 R270, R271). -/

namespace Sys2Proof.Machine

/-! ### Stores under way -/

/-- Why a store fails at its slice (05 R97, R98, 22 R337, R338, 23 R364). -/
def State.storeFails (s : State) (v : Nat) (x : LogEntry) (poisoned : Bool) : Option Byte :=
  (if x.space then s.grantFails v x.pa true else none).or (if poisoned then some causeEccunc else s.accessFails x.space v x.pa true)

/-- A store taken by its slice is performed or refused (21 R324), and the slice answers (05 R98). -/
def State.performStore (s : State) (k c e : Nat) (poisoned : Bool) : State :=
  let x := s.logEntry k c e
  let v := s.vdevOf k c
  let s1 := match s.storeFails v x poisoned with
    | some cause => s.setBoth k c e fun y => { y with state := .refused, cause := cause }
    | none =>
      ((s.gStore v x.pa x.size.bytes x.data.toNat).noteThrough k (.ctx c) x.pa (x.ar && decide (x.scope = Scope.sys))).setBoth k c e
        fun y => { y with state := .performed }
  s1.inject
    { src := .slice (sliceOf x.pa), dst := .core (s.homeOf k c), cls := .rsp, seq := 0, level := 0, payload := .ack k c e }

/-- A store whose core was reset is performed all the same where nothing is against it (23 R366); its failure is reported to
no one. -/
def State.performLone (s : State) (k v : Nat) (x : LogEntry) (poisoned : Bool) : State :=
  let s1 := match s.storeFails v x poisoned with
    | some _ => s
    | none => (s.gStore v x.pa x.size.bytes x.data.toNat).noteThrough nobody (.ctx 0) x.pa false
  s1.inject { src := .slice (sliceOf x.pa), dst := .core k, cls := .rsp, seq := 0, level := 0, payload := .plain }

/-- A load or atomic taken by its slice is performed, and the slice answers (05 R93, 21 R309). A poisoned request fails as a
poisoned response would (23 R364; DESIGN CHOICE, entry 56). -/
def State.performAsk (s : State) (r : Request) (poisoned : Bool) : State :=
  let x := if poisoned then (s, some causeEccunc, 0) else s.serve r
  x.1.inject
    { src := .slice (sliceOf r.pa), dst := .core r.home, cls := .rsp, seq := 0, level := 0,
      payload := .answer r.core r.ctx r.tag x.2.1 x.2.2 }

/-- Whether a slice may serve a taken packet now: none that it took before is for the line (21 R324), the page does not move,
and an acquire at SYS does not meet a tier-1 line that is not written through (05 R96). -/
def State.servable (s : State) (sl : Nat) (t : Taken) : Bool :=
  let before := (s.slice sl).taken.takeWhile fun u => decide (u ≠ t)
  let behind := match t.ask with
    | some r => let x := accessOf r.instr; orderAcq x.order && decide (x.scope = Scope.sys) && s.lineBehind r.pa
    | none => false
  !(before.any fun u => decide (lineOf (s.takenPa u) = lineOf (s.takenPa t))) && !(s.frame (frameOf (s.takenPa t))).moving && !behind

/-- The slice at which a store of a log entry, or the request of a context (entry 8), has been taken. -/
def State.takenAt (s : State) (k c e : Nat) : Option (Nat × Taken) :=
  s.slices.findSome? fun x =>
    (x.2.taken.find? fun t => decide (t.core = k) && decide (t.ctx = c) && decide (t.entry = e)).map fun t => (x.1, t)

def execSliceAccess (k c e : Nat) (s : State) : Out :=
  match s.takenAt k c e with
  | some (sl, t) =>
    if s.servable sl t then
      let x := s.slice sl
      let s1 := s.setSlice sl { x with taken := x.taken.filter fun u => !decide (u = t) }
      .next (match t.ask, t.lone with
        | some r, _ => s1.performAsk r t.poisoned
        | none, some (v, x) => s1.performLone k v x t.poisoned
        | none, none => s1.performStore k c e t.poisoned)
    else .next s
  | none => .next s

/-! ### The late-fault trap (05 R98) -/

/-- A hand-over that still drains is undone: the slot is ATTACHED again, OPEN as before (06 R119). -/
def State.undoHov (s : State) (k c : Nat) : State :=
  let y := s.ctx k c
  match y.hovOf, y.phase with
  | some n, some .hovDrain =>
    let sl := s.slot k n
    s.setSlot k n { sl with state := .attached, opened := sl.wasOpen }
  | _, _ => s

def execLateFaultTrap (k c : Nat) (s : State) : Out :=
  let y := s.ctx k c
  match y.lateEntry with
  | some e => .next ((s.undoHov k c).takeTrap k c (y.lateRec e))
  | none => .next s

/-! ### Responses and misses -/

/-- A `TLBW` operand that faults with ILLOP (11 R218). -/
def tlbwBad (p5 a : Word) : Bool :=
  bits p5 0 15 != 0 || bits p5 59 5 != 0 || bits a 0 15 != 0 || bits a 52 12 != 0 ||
    (match (bits p5 57 2).toNat with
     | 0 => false
     | 1 => bits p5 15 6 != 0 || bits a 15 6 != 0
     | 2 => bits p5 15 13 != 0 || bits a 15 13 != 0
     | _ => true)

/-- The entry of a `TLBW` (11 Table 11-4). -/
def tlbwEntry (p5 a : Word) : TlbEntry where
  vdev := (bits p5 48 9).toNat
  vpn := (bits p5 15 33).toNat
  size := (bits p5 57 2).toNat
  ppn := (bits a 15 33).toNat
  tier1 := getBit a 48
  wr := getBit a 49
  ex := getBit a 50

/-- A context suspended on a miss that an entry covers. -/
def Ctx.missing (y : Ctx) (e : TlbEntry) : Bool :=
  match y.phase with
  | some (.miss v va _ _) => e.covers v va
  | _ => false

/-- A context that waits for the translation of a fetch which an entry covers: neither a cache nor a TLB has it. -/
def State.missingCode (s : State) (k c : Nat) (e : TlbEntry) : Bool :=
  let y := s.ctx k c
  let v := s.vdevOf k c
  y.live && y.hold.isNone && y.away.isNone && !s.fetchable k c && (codeFind (s.cluster (clusOf k)).codeCache v y.pc).isNone &&
    (s.lookup k v y.pc).isNone && e.covers v y.pc

/-- The G addresses that a piece of a copy or reduction translates next, of its source and then of its destination, and its
cluster's TLB does not hold: the engine is suspended on them (19 R290). -/
def State.copyMisses (s : State) (k : Nat) (q : Cmd) (e : Nat × Nat) : List (Nat × Addr) :=
  let cv := (s.core k).cx.cv
  let v := s.vdevOf k 0
  let need (side : Side) (a : Addr) : List (Nat × Addr) :=
    match side with
    | .g u => if (tlbFind (s.cluster (clusOf k)).tlb u a).isNone then [(u, a)] else []
    | _ => []
  let (dst, src) := copySides q.instr v cv
  match (srcGranules cv q src e).filter fun g => (q.srcs.find g).isNone with
  | [] => need dst (copyDst cv q e.1)
  | l => l.flatMap fun g => need src (BitVec.ofNat 48 (16 * g))

/-- The pieces of a copy or reduction that are suspended on a miss which has no mapping fail (11 R218, 09 R175). -/
def State.copyUnmapped (s : State) (k : Nat) (e : TlbEntry) : State :=
  match s.copyHead k with
  | some q =>
    let gone (p : Nat × Nat) : Bool := !q.started && (s.copyMisses k q p).any fun m => e.covers m.1 m.2
    if q.todo.any gone then s.putTurn k q (q.failing gone (copyStatus causePagefatal)) else s
  | none => s

/-- The misses a `TLBW` resolves as having no mapping: those of one core, or of its cluster (11 R218). -/
def State.unmapped (s : State) (k : Nat) (wide : Bool) (e : TlbEntry) : State :=
  let s1 := s.cores.foldl (fun s x => if (if wide then decide (clusOf x.1 = clusOf k) else decide (x.1 = k)) then s.copyUnmapped x.1 e else s) s
  { s1 with cores := s1.cores.map fun x =>
      if (if wide then decide (clusOf x.1 = clusOf k) else decide (x.1 = k)) then
        (x.1, { x.2 with
          ctxs := x.2.ctxs.map fun y =>
            if y.2.missing e then (y.1, { y.2 with tlbBad := true })
            else if s.missingCode x.1 y.1 e then (y.1, { y.2 with codeBad := some y.2.pc })
            else y })
      else x }

def execTlbw (cl : Bool) (c : BitVec 6) (s : State) : Out :=
  run (.tlbw cl c) admS s.here s fun s =>
    let k := s.target c
    let p5 := s.me.ptr 5
    let a := s.me.a
    if !cl && !s.inService k then s.retire (s.me.setA 1)
    else if tlbwBad p5 a then s.fault (.tlbw cl c) causeIllop s.here
    else
      let e := tlbwEntry p5 a
      let x := s.cluster (clusOf s.k)
      let s1 :=
        if !getBit a 51 then s.unmapped k cl e
        else if cl then s.setCluster (clusOf s.k) { x with tlb := tlbInsert 2048 x.tlb e }
        else s.setCore k { s.core k with tlb := tlbInsert 32 (s.core k).tlb e }
      s1.retire s1.me

/-- A held G or W load or atomic of a context goes on when its response may come (05 R93, R105). -/
def execHeldAccess (i : Instr) (s : State) : Out :=
  match i with
  | .ldg z sx m => execLdg z sx m s
  | .ldgOrdered z sx o sc m => execLdgOrdered z sx o sc m s
  | .ldw z sx m => execLdw z sx m s
  | .ldwOrdered z sx o m => execLdwOrdered z sx o m s
  | .amogAdd d o sc m => execAmogAdd d o sc m s
  | .amogAnd d o sc m => execAmogAnd d o sc m s
  | .amogOr d o sc m => execAmogOr d o sc m s
  | .amogXor d o sc m => execAmogXor d o sc m s
  | .amogMin d o sc m => execAmogMin d o sc m s
  | .amogMax d o sc m => execAmogMax d o sc m s
  | .amogMinu d o sc m => execAmogMinu d o sc m s
  | .amogMaxu d o sc m => execAmogMaxu d o sc m s
  | .amogSwap d o sc m => execAmogSwap d o sc m s
  | .amogCas d o sc m => execAmogCas d o sc m s
  | _ => .next s

/-- An outcome with the turn given back. -/
def giveBack (cur : Nat × Nat) (o : Out) : Out :=
  match o with
  | .next s => .next { s with cur := cur }
  | o => o

/-- A request under way whose answer has come, or a twin's that has been compared. -/
def Phase.isAnswer : Phase → Bool
  | .answered _ _ => true
  | .twinGo _ => true
  | _ => false

def execGResponse (k c : Nat) (s : State) : Out :=
  let y := s.ctx k c
  match y.hold with
  | some h =>
    if y.lateEntry.isNone && s.enabled k c && (h.phase = .held || h.phase.isAnswer) then giveBack s.cur (execHeldAccess h.instr { s with cur := (k, c) }) else .next s
  | none => .next s

/-- The service core walks for a suspended access (19 R289, R290): the entry is written into the TLBs, or the miss is
resolved as having no mapping, a malformed table being told to the host. -/
def execTlbMissRequest (k c : Nat) (s : State) : Out :=
  let y := s.ctx k c
  match y.phase with
  | some (.miss v va _ _) =>
    let sv : Node := .core (serviceOf (clusOf k))
    let s1 := (s.asks (.core k) sv .ctrl .ctrl).walked sv v va
    if !s.quiet (.core k) sv .ctrl .ctrl then .next s
    else (match s.walk v va with
    | .leaf e => .next (s1.fillTlb k e)
    | _ => .next (s1.setCtx k c { s1.ctx k c with tlbBad := true }))
  | _ => .next s

/-- An I-cache miss of a context that may issue is served: the line is filled, or the context takes the fetch fault, with
`TPC` and `TADDR` at the address and `TVAL` 0 (02 R35); so does one whose miss has no mapping (11 R218). The return sentinel
is not fetched (02 R34). -/
def execFetchRefill (k c : Nat) (s : State) : Out :=
  let y := s.ctx k c
  let bad (s : State) (cause : Byte) : Out :=
    .next (s.takeTrap k c { tpc := y.pc, cause := cause, addr := y.pc.setWidth 64, val := 0 })
  if !s.enabled k c || y.hold.isSome || y.absent || s.coreFlows k || s.fetchable k c then .next s
  else if y.codeBad = some y.pc then bad s causePagefatal
  else if s.lineMoves k (s.vdevOf k c) y.pc then .next s
  else
    let s1 := s.useLine k (s.vdevOf k c) y.pc
    match s.readLine k (s.vdevOf k c) y.pc with
    | .inr (x, fresh) => .next (s1.fillLine k x fresh)
    | .inl cause => bad s1 cause

/-- The bound of a wait has run out (05 R100, 06 R115): the context faults, or returns 0, when it next issues. -/
def execBtoTimeout (k c : Nat) (s : State) : Out :=
  let y := s.ctx k c
  match y.hold with
  | some { instr := i, since := t, phase := .poll a } =>
    if 0 < y.bound ∧ t + y.bound ≤ s.cyc.toNat then
      .next (s.setCtx k c (match i with
        | .waite _ => y.setPhase .expired
        | _ => y.abandon causeTimeout (addrOf a)))
    else .next s
  | _ => .next s

/-! ### Helpers that are away (10 R193) -/

/-- Latches set at home for a helper that is away leave as one message (10 R193). -/
def execEventLatchMessage (k h : Nat) (s : State) : Out :=
  let y := s.ctx k h
  match y.away with
  | some (a, _) =>
    if y.latches = 0 then .next s
    else
      .next ((s.setCtx k h { y with latches := 0 }).inject
        { src := .core k, dst := .core a, cls := .ctrl, seq := 0, level := 0, payload := .latch k h y.latches })
  | none => .next s

/-! ### Cluster load and migration (18 R270, R271) -/

/-- The load of a core: its ready contexts, guests included; none that a flow phase suspends or that misses its fetch
(18 R268, R270). -/
def State.loadOf (s : State) (k : Nat) : Nat := ((s.core k).ctxs.filter fun e => s.standsReady k e.1).length

/-- The in-service cores of a cluster with their loads, by CLOC. -/
def State.loads (s : State) (cl : Nat) : List (Nat × Nat) :=
  (List.range 64).filterMap fun i => if s.inService (coreAt cl i) then some (i, s.loadOf (coreAt cl i)) else none

def leastLoad (l : List (Nat × Nat)) : Nat × Nat :=
  (l.foldl (fun b e => match b with
    | none => some e
    | some m => if e.2 < m.2 then some e else some m) none).getD (0, 0)
def greatestLoad (l : List (Nat × Nat)) : Nat × Nat :=
  (l.foldl (fun b e => match b with
    | none => some e
    | some m => if m.2 < e.2 then some e else some m) none).getD (0, 0)

/-- `CLOAD` of a cluster (18 Table 18-4). -/
def cloadWord (l : List (Nat × Nat)) : Word :=
  BitVec.ofNat 64 ((leastLoad l).1 + (leastLoad l).2 * 2 ^ 6 + (greatestLoad l).1 * 2 ^ 10 + (greatestLoad l).2 * 2 ^ 16 +
    (l.map Prod.snd).sum % 4096 * 2 ^ 20)

/-- A helper that may migrate where it stands ready (10 R193). -/
def Ctx.mayMove (y : Ctx) : Bool :=
  y.flag stMIG && !y.flag stTRP && !y.flag stRVF &&
    y.owed.isNone && (y.log.toList.all fun e => decide (e.state = .free)) && !y.oorf

/-- A context of a core that no helper uses. -/
def State.freeContext (s : State) (k : Nat) : Option Nat :=
  ((List.range 11).drop 1).find? fun c => !(s.ctx k c).live && (s.ctx k c).guest.isNone && (s.ctx k c).away.isNone &&
      (s.ctx k c).log.toList.all fun e => decide (e.state = .free)

/-- The home and number of a helper that stands in a context. -/
def Ctx.identity (y : Ctx) (k c : Nat) : Nat × Nat := y.guest.getD (k, c)

/-- A helper sent to another core: away, its state in the message, and the tier-1 lines it wrote kept under its name at home
(18 R271, 12 R239). Latches that its home holds for it still follow by message. -/
def State.sendHelper (s : State) (k c dst : Nat) : State :=
  let y := s.ctx k c
  let id := y.identity k c
  let key := (Node.core k, Node.core dst, PClass.ctrl)
  let m : Migration :=
    { src := k, dst := dst, home := id.1, helper := id.2, ctx := { y with guest := none }, seq := seqGet s.seqOut key }
  let x := s.cluster (clusOf k)
  let s1 := (s.setCluster (clusOf k) { x with moving := x.moving ++ [m] }).renameStores k c id.1 id.2
  let s2 := if y.guest.isSome then s1.setCtx k c (ctxInit k) else s1
  let z := s2.ctx id.1 id.2
  let s3 := s2.setCtx id.1 id.2 { z with away := some (dst, 0), latches := if y.guest.isSome then z.latches else 0 }
  State.countTx { s3.setCore k { s3.core k with lastMig := some s.cyc.toNat } with
    seqOut := seqPut s.seqOut key (seqGet s.seqOut key + 1) } (.core k)

/-- Whether helpers may be sent to or from a core: it is not stopped, nor is its cluster; whose task it holds, and whether that
one is saved, does not matter (10 R193, 18 R271). -/
def State.migrates (s : State) (k : Nat) : Bool :=
  decide ((s.core k).stop = .running) && decide ((s.cluster (clusOf k)).power = .run) && (s.cluster (clusOf k)).request.isNone

/-- Whether the task of a helper is not being stopped or saved, so that it need not be recalled (10 R193). -/
def State.homeMigrates (s : State) (k c : Nat) : Bool :=
  let h := s.homeOf k c
  decide ((s.core h).stop = .running) && (s.core h).stopReq.isNone && (s.core h).savedAt.isNone && !(s.core h).revoking &&
    !s.deviceStopping (s.vdevOf k c)

/-- One core's test at a sample (18 R271). A core that is tested or quarantined takes no work (23 R363). -/
def State.testMigration (s : State) (cl : Nat) (l : List (Nat × Nat)) (e : Nat × Nat) : State :=
  let ctl := (s.cluster cl).migctl
  let thr := (bits ctl 1 4).toNat
  let gap := max 1 (bits ctl 5 4).toNat
  let mn := leastLoad l
  let k := coreAt cl e.1
  let d := coreAt cl mn.1
  if getBit ctl 0 && decide (1 ≤ thr) && decide (thr ≤ 11) && decide (thr ≤ e.2) && decide (mn.2 + gap ≤ e.2) &&
      ((s.core k).lastMig.all fun t => decide (t + (bits ctl 16 16).toNat ≤ s.cyc.toNat)) && decide (k ≠ d) &&
      decide (s.partOfSite k = s.partOfSite d) && (s.freeContext d).isSome && s.migrates k && s.migrates d &&
      !(s.core d).testing && !(s.core d).quarantined && s.windowOpen (.core k) (.core d) .ctrl then
    match ((List.range 11).drop 1).find? fun c => (s.ctx k c).mayMove && s.standsReady k c && s.homeMigrates k c with
    | some c => s.sendHelper k c d
    | none => s
  else s

def execCloadSample (cl : Nat) (s : State) : Out :=
  let l := s.loads cl
  .next (l.foldl (fun s e => s.testMigration cl l e) (s.setCluster cl { s.cluster cl with cload := cloadWord l }))

/-- The oldest helper on its way reaches its destination, once every earlier `CTRL` packet between the two cores has
(21 R314); it goes home where no context is left for it. -/
def execHelperMigrationArrival (cl : Nat) (s : State) : Out :=
  let x := s.cluster cl
  match x.moving with
  | [] => .next s
  | m :: t =>
    let key := (Node.core m.src, Node.core m.dst, PClass.ctrl)
    if seqGet s.seqIn key ≠ m.seq then .next s
    else
      let s1 := State.countRx { s.setCluster cl { x with moving := t } with seqIn := seqPut s.seqIn key (m.seq + 1) } (.core m.dst)
      let home := s1.setCtx m.home m.helper ((s1.ctx m.home m.helper).mergeMessage m.ctx)
      if m.dst = m.home || m.recalled || !s1.inService m.dst then .next home
      else
        match s1.freeContext m.dst with
        | none => .next home
        | some c =>
          let s2 := (s1.renameStores m.home m.helper m.dst c).setCtx m.dst c { m.ctx with guest := some (m.home, m.helper) }
          .next (s2.setCtx m.home m.helper { s2.ctx m.home m.helper with away := some (m.dst, c) })

end Sys2Proof.Machine
end

