-- ==== Sys2Proof/Machine/Mesh.lean ====
section
/-! DEFINITION. The routed and the express mesh (21 R310 to R319): routers, elevators and their buffers, the path of a packet,
the arbitration of a link, and the route tables. Outputs and inputs of a router are 0 N, 1 E, 2 S, 3 W, 4 XE and 5 XW (the skip
links), 6 to 9 the cores by QIDX, 10 the slice, 11 the elevator, 12 the service core, 13 the copy engine, 14 the command
processor, 15 the Trarum port; those of an elevator are 0 N, 1 E, 2 S, 3 W and 4 its router. -/

namespace Sys2Proof.Machine

/-! ### Hops (21 R310, R311, R317) -/

/-- Routers of the module. -/
def routerCount : Nat := 163840

/-- The port of an endpoint at its router. -/
def nodePort : Node → Nat
  | .core k => if k < sites then 6 + qidxOf k else 12
  | .slice _ => 10
  | .copyEngine _ => 13
  | .processor _ => 14
  | .port _ => 15

/-- The input at which what leaves by an output arrives. -/
def across (out : Nat) : Nat :=
  match out with
  | 0 => 2
  | 1 => 3
  | 2 => 0
  | 3 => 1
  | 4 => 5
  | _ => 4

/-- The router that an output of a router leads to. -/
def neighbour (r out : Nat) : Nat :=
  match out with
  | 0 => r - 512
  | 1 => r + 1
  | 2 => r + 512
  | 3 => r - 1
  | 4 => r + 4
  | 5 => r - 4
  | _ => r

/-- The output toward a router, `last` once there: the row first, by skip links of four columns (21 R311); an escape takes
single hops only (21 R316). -/
def towards (esc : Bool) (r t last : Nat) : Nat :=
  let c := r % 512
  let d := t % 512
  if c ≠ d then
    if !esc && decide (4 ≤ absDiff c d) then (if c < d then 4 else 5) else if c < d then 1 else 3
  else if r / 512 ≠ t / 512 then if r / 512 < t / 512 then 2 else 0
  else last

/-- The output toward an elevator's cluster, in dimension order, row first (21 R317). -/
def liftTowards (cl w : Nat) : Nat :=
  if cl % 128 ≠ w % 128 then if cl % 128 < w % 128 then 1 else 3 else if cl / 128 < w / 128 then 2 else 0

/-- The elevator that an output of an elevator leads to. -/
def liftNeighbour (cl out : Nat) : Nat :=
  match out with
  | 0 => cl - 128
  | 1 => cl + 1
  | 2 => cl + 128
  | _ => cl - 1

/-- The output that a packet takes at a router, and at an elevator (21 R317). -/
def Packet.routerOut (p : Packet) (r : Nat) : Nat :=
  match p.enter with
  | some e => towards false r (clusterRouter e) 11
  | none => towards p.esc r (nodeRouter p.dst) (nodePort p.dst)
def Packet.liftOut (p : Packet) (cl : Nat) : Nat :=
  match p.legs with
  | w :: _ => liftTowards cl w
  | [] => 4

/-- The link that a packet in a buffer waits for: its node, elevators from `routerCount` on, and the output. -/
def Packet.link (p : Packet) : Option (Nat × Nat) :=
  match p.place with
  | .router r _ => some (r, p.routerOut r)
  | .elevator cl _ => some (routerCount + cl, p.liftOut cl)
  | _ => none

/-- Where its link brings it. -/
def Packet.next (p : Packet) : Place :=
  match p.place with
  | .router r _ =>
    let o := p.routerOut r
    if o < 6 then .router (neighbour r o) (across o) else if o = 11 then .elevator (routerCluster r) 4 else .there
  | .elevator cl _ =>
    let o := p.liftOut cl
    if o < 4 then .elevator (liftNeighbour cl o) (across o) else .router (clusterRouter cl) 11
  | x => x

/-- A packet at its next place: past the elevators that it has reached. -/
def Packet.at (p : Packet) (x : Place) : Packet :=
  match x with
  | .elevator cl _ => { p with place := x, enter := none, legs := p.legs.dropWhile (· == cl) }
  | _ => { p with place := x }

/-- Bytes of data in a packet, and its flits: a header and up to eight data flits of 32 bytes (21 R310). -/
def Payload.dataBytes : Payload → Nat
  | .copyData _ _ _ bs => bs.length
  | .copyWrite _ _ _ w => w.bytes.length
  | .store _ _ _ => 8
  | .lone _ _ _ _ _ => 8
  | .ask _ => 16
  | .answer _ _ _ _ _ => 8
  | .coll _ => 16
  | _ => 0
def Packet.flits (p : Packet) : Nat := 1 + (p.payload.dataBytes + 31) / 32

/-! ### Buffers (21 R312, R316) -/

/-- Whether a packet stands in an input buffer of a router or an elevator, and whether two stand in the same one: each class
has its own, and so has `ESC`. -/
def Packet.buffered (p : Packet) : Bool :=
  match p.place with
  | .router _ _ => true
  | .elevator _ _ => true
  | _ => false
def Packet.sharesBuffer (p q : Packet) : Bool :=
  p.buffered && decide (p.place = q.place) && decide (p.cls = q.cls) && decide (p.esc = q.esc)

/-- Whether a packet is the oldest of its buffer. -/
def State.heads (s : State) (p : Packet) : Bool :=
  p.buffered && s.packets.all fun e => !(p.sharesBuffer e.2) || decide (p.stamp ≤ e.2.stamp)

/-- Whether a place has room for a packet: a buffer holds `bufferDepth + 1` (entry 59). -/
def State.placeRoom (s : State) (p : Packet) (x : Place) : Bool :=
  let y := p.at x
  !y.buffered || decide ((s.packets.filter fun e => y.sharesBuffer e.2).length ≤ Config.bufferDepth)

def State.setPacket (s : State) (id : Nat) (p : Packet) : State := { s with packets := s.packets.put id p }

/-- The packet that has come to the head of a buffer which another left has stood there from now on. -/
def State.newHead (s : State) (p : Packet) : State :=
  match s.packets.find? fun e => p.sharesBuffer e.2 && s.heads e.2 with
  | some e => s.setPacket e.1 { e.2 with since := s.cyc.toNat }
  | none => s

/-- A packet comes to a place, the last of its buffer. -/
def State.movePacket (s : State) (id : Nat) (p : Packet) (x : Place) : State :=
  State.newHead { s.setPacket id { p.at x with stamp := s.arrivals, since := s.cyc.toNat } with arrivals := s.arrivals + 1 } p

/-! ### Sources (21 R314, R315, R319) -/

/-- Whether a packet is the first that its source holds of its destination and class, and within its window. -/
def State.firstHeld (s : State) (p : Packet) : Bool :=
  decide (p.seq < seqGet s.seqIn (p.src, p.dst, p.cls) + 64) &&
    s.packets.all fun e => !(decide (e.2.place = .source) && decide (e.2.src = p.src) && decide (e.2.dst = p.dst) &&
      decide (e.2.cls = p.cls) && decide (e.2.seq < p.seq))

/-- Whether a hint makes a source hold what goes to a destination: until its cluster's GEN has increased (21 R319). -/
def State.hintHolds (s : State) (src dst : Node) : Bool :=
  s.hints.any fun h => decide (h.1 = src) && decide ((s.cluster (nodeCluster src)).gen ≤ h.2.2) && (s.wayPath src dst).contains h.2.1

/-- Whether the routers of a fenced cluster take nothing from an endpoint (23 R366). -/
def State.fencedNode (s : State) : Node → Bool
  | .core k => decide (k < sites) && (s.cluster (clusOf k)).fenced
  | .copyEngine cl => (s.cluster cl).fenced
  | _ => false

/-- A packet leaves its source for its first router, on the path that its cluster's entry then gives (21 R317). -/
def State.enterMesh (s : State) (id : Nat) : State :=
  match s.packets.find id with
  | some p =>
    let x : Place := .router (nodeRouter p.src) (nodePort p.src)
    let w := s.entryOf p.src p.dst
    if p.checked && decide (p.place = .source) && decide (p.state = .flying) && s.firstHeld p && !s.hintHolds p.src p.dst &&
        !s.fencedNode p.src && s.placeRoom p x then
      let q : Packet := if p.esc then { p with enter := none, legs := [] }
        else { p with enter := w.bind routeEnter, legs := (w.map routeLegs).getD [] }
      s.movePacket id q x
    else s
  | none => s

/-- The virtual device of a packet, for its counters (22 R331). -/
def State.packetVdev (s : State) (p : Packet) : Nat :=
  match p.payload with
  | .store k c _ => s.vdevOf k c
  | .lone _ _ _ v _ => v
  | .ack k c _ => s.vdevOf k c
  | .ask r => r.vdev
  | .answer k c _ _ _ => s.vdevOf k c
  | .coll (.add k _ _ _ _ _ _ _ _) => s.vdevOf k 0
  | .coll (.flush _ _ v _ _) => v
  | .copyRead _ _ v _ _ _ => v
  | .copyData k _ _ _ => s.vdevOf k 0
  | .copyWrite _ _ v _ => v
  | .done k _ _ _ => s.vdevOf k 0
  | .latch k _ _ => s.vdevOf k 0
  | .plain => 0

/-- A packet refused goes back to its source (21 R315). -/
def State.refuse (s : State) (id : Nat) (p : Packet) (st : PState) (hint : Option Nat) : State :=
  (State.newHead (s.setPacket id { p with state := st, place := .source, enter := none, legs := [], hint := hint }) p).count
    (s.packetVdev p) 9 1

/-- A refusal with a reroute hint that names an elevator (21 R319). -/
def State.refuseHint (s : State) (id : Nat) (p : Packet) (cl : Nat) : State :=
  let s1 := s.refuse id p .hinted (some cl)
  { s1 with hints := (p.src, cl, (s.cluster (nodeCluster p.src)).gen) :: s1.hints }

/-- A refused packet is sent again, the first of its destination and class, and a hinted one once its cluster has published
(21 R315, R319). -/
def execPacketNackResend (id : Nat) (s : State) : Out :=
  match s.packets.find id with
  | some p =>
    if p.state = .flying ∨ s.firstHeld p = false ∨ s.fencedNode p.src = true ∨
        (p.state = .hinted ∧ s.hintHolds p.src p.dst = true) then .next s
    else
      let x : Place := if s.meshIdle && s.wayOpen p.src p.dst then .there else .source
      .next (s.setPacket id { p with state := .flying, hint := none, place := x, since := s.cyc.toNat })
  | none => .next s

/-! ### The arbitration of a link (21 R312) -/

/-- The input at which a packet stands. -/
def Packet.input (p : Packet) : Nat :=
  match p.place with
  | .router _ i => i
  | .elevator _ i => i
  | _ => 0

/-- `REQ`, `COPY` and `COLL` packets of a level. -/
def atLevel (l : List (Nat × Packet)) (n : Nat) : List (Nat × Packet) :=
  l.filter fun e => decide (e.2.cls ≠ .ctrl) && decide (e.2.cls ≠ .rsp) && decide (e.2.level.toNat = n)

/-- A number put before the first of a list that is passed over less often. -/
def byNeed (skip : Nat → Nat) (n : Nat) : List Nat → List Nat
  | [] => [n]
  | h :: t => if skip h < skip n then n :: h :: t else h :: byNeed skip n t

/-- The lower level that must be served for each to have one grant in eight: that which was passed over longest, once it or
another would otherwise wait for a ninth. The highest level that waits is no lower one. It goes before every class (DESIGN CHOICE,
entry 59). -/
def LinkArb.starved (a : LinkArb) (has : Nat → Bool) : Option Nat :=
  let skip (n : Nat) : Nat := a.skip.toList.getD n 0
  let l := ([0, 1, 2].filter fun n => has n && [1, 2, 3].any fun m => decide (n < m) && has m).foldl (fun l n => byNeed skip n l) []
  if (l.zip (List.range 4)).any fun e => decide (7 ≤ skip e.1 + e.2) then l.head? else none

/-- The packets among which the link chooses. -/
def LinkArb.choice (a : LinkArb) (l : List (Nat × Packet)) : List (Nat × Packet) :=
  let ctrl := l.filter fun e => decide (e.2.cls = .ctrl)
  let rsp := l.filter fun e => decide (e.2.cls = .rsp)
  match a.starved fun n => !(atLevel l n).isEmpty with
  | some n => atLevel l n
  | none =>
    if !ctrl.isEmpty then ctrl
    else if !rsp.isEmpty then rsp
    else (([3, 2, 1, 0].map (atLevel l)).find? fun x => !x.isEmpty).getD []

/-- Whether input `i` comes before input `j`, after the one served last; and of two packets of one input the older does. -/
def LinkArb.before (a : LinkArb) (p q : Packet) : Bool :=
  let turn (i : Nat) : Nat := if a.last < i then i - a.last else i + 16 - a.last
  decide (turn p.input < turn q.input) || (decide (p.input = q.input) && decide (p.stamp < q.stamp))

/-- The packet that the link takes. -/
def LinkArb.pick (a : LinkArb) (l : List (Nat × Packet)) : Option (Nat × Packet) :=
  (a.choice l).foldl (fun b e => match b with
    | none => some e
    | some x => if a.before e.2 x.2 then some e else some x) none

/-- The arbiter after a grant to a packet, among those that wait. -/
def LinkArb.granted (a : LinkArb) (l : List (Nat × Packet)) (p : Packet) : LinkArb :=
  let served (n : Nat) : Bool := decide (p.cls ≠ .ctrl) && decide (p.cls ≠ .rsp) && decide (p.level.toNat = n)
  { last := p.input,
    skip := Vector.ofFn fun n => if served n.val || (atLevel l n.val).isEmpty then 0 else a.skip.get n + 1 }

/-- The elevator that a packet would enter and that takes nothing any more (21 R319). -/
def State.shutLift (s : State) (p : Packet) : Option Nat :=
  match p.next with
  | .elevator cl _ => if s.lifts cl then none else some cl
  | _ => none

/-- A link takes its next packet, or what would enter a closing elevator is refused (21 R312, R319). -/
def State.linkMoves (s : State) (node out : Nat) : State :=
  let l := s.packets.filter fun e => decide (e.2.link = some (node, out)) && s.heads e.2
  match l.findSome? fun e => (s.shutLift e.2).map fun cl => (e, cl) with
  | some (e, cl) => s.refuseHint e.1 e.2 cl
  | none =>
    let a := s.links.get {} (16 * node + out)
    match a.pick (l.filter fun e => s.placeRoom e.2 e.2.next) with
    | some e => { s.movePacket e.1 e.2 e.2.next with links := s.links.put (16 * node + out) (a.granted l e.2) }
    | none => s

/-! ### Escapes (21 R316) -/

/-- The router at which an escape begins: where the packet stands, or that of its elevator. -/
def Packet.escapePlace (p : Packet) : Place :=
  match p.place with
  | .elevator cl _ => .router (clusterRouter cl) 11
  | x => x

/-- The cluster of a place. -/
def Place.cluster : Place → Nat
  | .router r _ => routerCluster r
  | .elevator cl _ => cl
  | _ => 0

/-- A packet that has stood at the head of a buffer for `ESCT` c-cycles passes into `ESC`: counted for its cluster, and told to
the host. -/
def execPacketEscape (id : Nat) (s : State) : Out :=
  match s.packets.find id with
  | some p =>
    let q : Packet := { p with esc := true, enter := none, legs := [] }
    if !p.esc && s.heads p && decide (p.since + s.esct ≤ s.cyc.toNat) && s.placeRoom q p.escapePlace then
      let cl := p.place.cluster
      let s1 := (s.setPacket id { q with place := p.escapePlace, stamp := s.arrivals, since := s.cyc.toNat }).newHead p
      let x := s1.cluster cl
      .next { s1.setCluster cl { x with escapes := x.escapes + 1 } with arrivals := s.arrivals + 1, host := s1.host ++ [.escapes cl] }
    else .next s
  | none => .next s

/-! ### Route tables and the retirement of an elevator (21 R318, R319) -/

/-- Whether every elevator of an entry's path takes packets. -/
def State.pathGood (s : State) (w : Word) : Bool := (routePath w).all s.lifts

/-- The clusters within 4 of one. -/
def near (c : Nat) : List Nat := (List.range clusterCount).filter fun a => decide (clusDist a c ≤ 4)

/-- An entry past a waypoint. -/
def wayEntry (e l w : Nat) : Word := BitVec.ofNat 64 (e + l * 2 ^ 14 + w * 2 ^ 28 + 2 ^ 42)

/-- An entry whose path avoids every elevator that takes nothing: a plain one, one past a waypoint, else the routed mesh alone
(21 R319, Table 21-2). -/
def State.reroute (s : State) (own dst : Nat) : Word :=
  let first (l : List Word) : Option Word := l.find? s.pathGood
  let plain := (near own).findSome? fun e => first ((near dst).map fun l => BitVec.ofNat 64 (e + l * 2 ^ 14))
  let ways := (near own).findSome? fun e => (near dst).findSome? fun l =>
    if s.lifts e && s.lifts l then first ((List.range clusterCount).map (wayEntry e l)) else none
  (plain.or ways).getD (BitVec.ofNat 64 (own + dst * 2 ^ 14 + 2 ^ 43))

/-- A cluster's entries with those rewritten whose paths meet an elevator that takes nothing. -/
def State.rewritten (s : State) (cl : Nat) (x : Cluster) : Sparse Word :=
  if s.clusters.all fun e => decide (e.2.elevator = .good) then x.routes
  else (List.range clusterCount).foldl (fun r dst =>
    if s.pathGood (x.route cl dst) then r else r.put dst (s.reroute cl dst)) x.routes

/-- A service core rewrites its cluster's entries, and publishes them (21 R318, R319). -/
def execRouteGenUpdate (cl : Nat) (s : State) : Out :=
  let x := s.cluster cl
  .next (s.setCluster cl { x with routes := s.rewritten cl x, gen := x.gen + 1 })

/-- Whether an entry keeps the rules of 21 R318: the elevators it names are in service, ENTER within 4 clusters of its own,
LEAVE within 4 of the destination. -/
def State.entryOk (s : State) (cl dst : Nat) (w : Word) : Bool :=
  let named := [(bits w 0 14).toNat, (bits w 14 14).toNat] ++ (if getBit w 42 then [(bits w 28 14).toNat] else [])
  (named.all fun e => decide (e < clusterCount) && s.lifts e) &&
    decide (clusDist cl (bits w 0 14).toNat ≤ 4) && decide (clusDist dst (bits w 14 14).toNat ≤ 4)

/-- Firmware writes an entry, its reserved bits apart. -/
def State.writeRoute (s : State) (cl dst : Nat) (value : Word) : State :=
  let x := s.cluster cl
  let w := value &&& 0xFFFFFFFFFFF
  if cl < clusterCount ∧ dst < clusterCount ∧ s.entryOk cl dst w = true then s.setCluster cl { x with routes := x.routes.put dst w } else s

/-- Whether every cluster has published entries that avoid an elevator. -/
def State.published (s : State) (cl : Nat) : Bool :=
  (List.range clusterCount).all fun a => (List.range clusterCount).all fun b => !(routePath ((s.cluster a).route a b)).contains cl

/-- An elevator closes; once it has drained and every cluster has published, it is retired (21 R319). -/
def execElevatorRetire (cl : Nat) (s : State) : Out :=
  let x := s.cluster cl
  match x.elevator with
  | .good => .next (if cl < clusterCount then s.setCluster cl { x with elevator := .closing } else s)
  | .closing =>
    let inside := s.packets.any fun e => match e.2.place with
      | .elevator c _ => decide (c = cl)
      | _ => false
    .next (if !inside && s.published cl then s.setCluster cl { x with elevator := .retired } else s)
  | .retired => .next s

end Sys2Proof.Machine
end

