-- ==== Sys2Proof/Machine/Network.lean ====
section
/-! DEFINITION. What packets bring (21 R314, R315, R324): delivery in order, refusals for want of room, fence marks (23 R366);
and the twins' packets compared (23 R362). -/

namespace Sys2Proof.Machine

/-! ### Delivery (21 R314, R315) -/

/-- A slice takes a packet of its `REQ` input (21 R324). -/
def State.takeReq (s : State) (sl : Nat) (p : Packet) : State :=
  let put (s : State) (t : Taken) : State := s.setSlice sl { s.slice sl with taken := (s.slice sl).taken ++ [t] }
  match p.payload with
  | .store k c e =>
    put (s.setBoth k c e fun y => { y with state := .taken }) { core := k, ctx := c, entry := e, poisoned := p.poisoned }
  | .lone k c e v x => put s { core := k, ctx := c, entry := 16 + e, poisoned := p.poisoned, lone := some (v, x) }
  | .ask r => put s { core := r.core, ctx := r.ctx, entry := 8, poisoned := p.poisoned, ask := some r }
  | _ => s

/-- A slice takes a packet of its `COLL` input; a poisoned one ends its command with status 3 (23 R364). -/
def State.takeColl (s : State) (sl : Nat) (p : Packet) : State :=
  match p.payload with
  | .coll i =>
    if p.poisoned then
      match i with
      | .add k _ cmd _ _ _ _ _ _ => s.collAck sl k cmd (s.vdevOf k 0) 3
      | .flush k cmd v _ _ => s.collAck sl k cmd v 3
    else s.setSlice sl { s.slice sl with coll := (s.slice sl).coll ++ [i] }
  | _ => s

/-- What a poisoned packet brings to a core: a load response that faults (23 R364). -/
def Payload.spoilt : Payload → Payload
  | .answer k c tag _ _ => .answer k c tag (some causeEccunc) 0
  | x => x

/-- Whether a core takes a packet as it arrives: while it runs, while it is saved what its save waits for, the answers to
requests and stores, and while its task is aborted at least the answers to stores (11 R222, 23 R350, R352, R355). -/
def Core.takesNow (x : Core) (p : Payload) : Bool :=
  if x.revoking && x.freed then true
  else if x.saving then p.isAck || (match p with
    | .answer _ _ _ _ _ => true
    | _ => false)
  else decide (x.stop = .running) || (x.revoking && p.isAck)

/-- A core takes a packet: at once, or into its inbox. -/
def State.coreTakes (s : State) (k : Nat) (p : Packet) : State :=
  let s1 := s.countRx (.core k)
  let x := s1.core k
  let q : Packet := if p.poisoned then { p with payload := p.payload.spoilt } else p
  if x.takesNow p.payload then s1.takePayload q.payload else s1.setCore k { x with inbox := x.inbox ++ [q] }

/-- Entries of a queue of 64, and the four that are kept for escapes (21 R315, R316; entry 59). -/
def queueRoom (n : Nat) (esc : Bool) : Bool := decide (n < if esc then 68 else 64)

/-- Whether a destination has room. The packets of copies that a slice cannot serve yet stand at its input. -/
def State.room (s : State) (p : Packet) : Bool :=
  match p.dst with
  | .core k => (s.core k).savedAt.isNone && queueRoom (s.core k).inbox.length p.esc
  | .slice sl =>
    (match p.cls with
    | .req => queueRoom (s.slice sl).taken.length p.esc
    | .coll => collRoom (s.slice sl) p.esc
    | .copy =>
      queueRoom (s.packets.filter fun e => decide (e.2.place = .there) && decide (e.2.dst = p.dst) && decide (e.2.cls = .copy) &&
        decide (e.2.src ≠ p.src)).length p.esc
    | _ => true)
  | _ => true

/-- A packet taken at its destination; `none` where a copy's access has to wait at the slice. -/
def State.deliver (s : State) (id : Nat) (p : Packet) : Option State :=
  let s1 := s.arrived id p
  match p.dst with
  | .slice sl =>
    (match p.cls with
    | .req => some (s1.takeReq sl p)
    | .coll => some (s1.takeColl sl p)
    | .copy => s1.serveCopy sl p
    | _ => some s1)
  | .copyEngine _ => some (s1.copyTakes p)
  | .core k => some (s1.coreTakes k p)
  | .processor _ => some s1
  | .port _ => some s1

/-- What becomes of a packet that is due: one that meets a fence mark is discarded (23 R366), one without room refused. -/
def State.delivered (s : State) (id : Nat) (p : Packet) : State :=
  if s.fencedNode p.dst then s.arrived id p
  else if s.room p then (s.deliver id p).getD s
  else s.refuse id p .nacked none

/-- The delivery of a packet; the answer to a store is received by `STORE_ACKNOWLEDGE` or `LATE_FAULT_REPORT`. -/
def State.delivery (s : State) (id : Nat) (p : Packet) : State :=
  if !s.due p || p.payload.isAck then s else s.delivered id p

/-- The packet that answers a store, once it is the next of its slice to the core (21 R314). One that is poisoned is taken as it
is (DESIGN CHOICE, entry 56). -/
def State.ackOf (s : State) (k c e : Nat) : Option (Nat × Packet) :=
  s.packets.find? fun p => decide (p.2.payload = .ack k c e) && s.due p.2

/-- The answer to a store delivered, where its slice has performed or refused it (05 R98); a stopped core parks it (11 R222). -/
def State.ackArrives (s : State) (k c e : Nat) (st : LogState) : State :=
  match s.ackOf k c e with
  | some (id, p) => if (s.logEntry k c e).state = st then s.delivered id p else s
  | none => s

def execStoreAcknowledge (k c e : Nat) (s : State) : Out := .next (s.ackArrives k c e .performed)
def execLateFaultReport (k c e : Nat) (s : State) : Out := .next (s.ackArrives k c e .refused)

/-! ### Twins (23 R362) -/

/-- The other twin's packet of the same number, destination and class. -/
def State.counterpart (s : State) (j : Nat) (p : Packet) : Option (Nat × Packet) :=
  s.packets.find? fun b => !b.2.checked && decide (b.2.src = .core j) && decide (b.2.dst = p.dst) && decide (b.2.cls = p.cls) &&
    decide (b.2.seq = p.seq)

/-- The packets that the routers of a pair still hold, of one number, destination and class: the primary's and the
secondary's. -/
def State.heldPair (s : State) (k j : Nat) : Option ((Nat × Packet) × (Nat × Packet)) :=
  s.packets.findSome? fun a =>
    if !a.2.checked && decide (a.2.src = .core k) then (s.counterpart j a.2).map fun b => (a, b) else none

/-- Two packets agree: their hashes are equal, over destination, class, operation, address and payload. -/
def packetsAgree (p q : Packet) : Bool := decide (p.dst = q.dst) && decide (p.cls = q.cls) && decide (p.hash = q.hash)

/-- The store of the secondary joined to the primary's, which goes on alone. -/
def State.forwardOnce (s : State) (a b : Nat × Packet) : State :=
  let s1 := (s.setPacket a.1 { a.2 with checked := true, hash := none }).arrived b.1 b.2
  match a.2.payload, b.2.payload with
  | .store k c e, .store j d i => s1.setEntry k c e { s1.logEntry k c e with mate := some (j, d, i) }
  | _, _ => s1

/-- A request that a context holds for comparison: its number among those of the core, its slice and its instruction. -/
def Ctx.requestOf (y : Ctx) : Option (Nat × Nat × Instr) :=
  match y.hold with
  | some { instr := i, phase := .twin n sl, .. } => some (n, sl, i)
  | _ => none

/-- The requests that a core's contexts hold. -/
def State.requests (s : State) (k : Nat) : List (Nat × Nat × Nat × Instr) :=
  (List.range 11).filterMap fun c => (s.ctx k c).requestOf.map fun r => (c, r)

/-- The first request of a core to a slice. -/
def State.firstTo (s : State) (k sl : Nat) : Option (Nat × Nat × Nat × Instr) :=
  (s.requests k).find? fun r => decide (r.2.2.1 = sl) && (s.requests k).all fun q => decide (q.2.2.1 ≠ sl) || decide (r.2.1 ≤ q.2.1)

/-- The requests of a pair that have the same number to a slice: the contexts of the primary and of the secondary. -/
def State.twinRequests (s : State) (k j : Nat) : Option ((Nat × Instr) × (Nat × Instr)) :=
  (s.requests k).findSome? fun r => match s.firstTo k r.2.2.1, s.firstTo j r.2.2.1 with
    | some a, some b => some ((a.1, a.2.2.2), (b.1, b.2.2.2))
    | _, _ => none

/-- The address and data that a request sends (02 Table 2-5, 05 R103, 10 R194). -/
def requestBytes (y : Ctx) (i : Instr) : Addr × Word × Word :=
  match i with
  | .ldg _ _ m => (eaOf m y, 0, 0)
  | .ldgOrdered _ _ _ _ m => (eaOf m y, 0, 0)
  | .ldw _ _ m => (eaOf m y, 0, 0)
  | .ldwOrdered _ _ _ m => (eaOf m y, 0, 0)
  | .amogAdd d _ _ m => (eaOf m y, lowBytes y.a (amoSize d).bytes, 0)
  | .amogAnd d _ _ m => (eaOf m y, lowBytes y.a (amoSize d).bytes, 0)
  | .amogOr d _ _ m => (eaOf m y, lowBytes y.a (amoSize d).bytes, 0)
  | .amogXor d _ _ m => (eaOf m y, lowBytes y.a (amoSize d).bytes, 0)
  | .amogMin d _ _ m => (eaOf m y, lowBytes y.a (amoSize d).bytes, 0)
  | .amogMax d _ _ m => (eaOf m y, lowBytes y.a (amoSize d).bytes, 0)
  | .amogMinu d _ _ m => (eaOf m y, lowBytes y.a (amoSize d).bytes, 0)
  | .amogMaxu d _ _ m => (eaOf m y, lowBytes y.a (amoSize d).bytes, 0)
  | .amogSwap d _ _ m => (eaOf m y, lowBytes y.a (amoSize d).bytes, 0)
  | .amogCas d _ _ m => (eaOf m y, lowBytes y.a (amoSize d).bytes, lowBytes (y.ptr 6) (amoSize d).bytes)
  | .spawn => (addrOf y.a, 0, 0)
  | _ => (0, 0, 0)

/-- Whether the commands at the heads of a pair's copy queues differ as far as their packets show. -/
def State.copiesDiffer (s : State) (k j : Nat) : Bool :=
  match s.copyHead k, s.copyHead j with
  | some q, some p =>
    !s.copyLocal k q && !s.copyLocal j p && decide (q.nth = p.nth) && !q.agrees p (s.core k).cx.cv (s.core j).cx.cv
  | _, _ => false

/-- The primary's router compares the oldest packets of a pair, the requests of its contexts, or its copies (23 R362). -/
def execTwinPacketCompare (k : Nat) (s : State) : Out :=
  match (s.core k).task.bind Task.twin with
  | some w =>
    if !w.primary then .next s
    else
      let j := w.partner
      match s.heldPair k j with
      | some (a, b) => .next (if packetsAgree a.2 b.2 then s.forwardOnce a b else s.twinMismatch k)
      | none =>
        match s.twinRequests k j with
        | some (r, q) =>
          let y := s.ctx k r.1
          .next (if r.2 = q.2 ∧ requestBytes y r.2 = requestBytes (s.ctx j q.1) q.2 then s.setCtx k r.1 (y.setPhase (.twinGo q.1))
            else s.twinMismatch k)
        | none => .next (if s.copiesDiffer k j then s.twinMismatch k else s)
  | none => .next s

/-- The bound of a twin's wait for the other (23 R362). -/
def twinBound : Nat := 65536

/-- What a core of a pair has waited for too long: a packet, a request or a transfer unit without its counterpart. -/
def State.twinLate (s : State) (k j : Nat) : Bool :=
  let late (t : Nat) : Bool := decide (t + twinBound ≤ s.cyc.toNat)
  let packet := s.packets.any fun a =>
    !a.2.checked && decide (a.2.src = .core k) && late a.2.since && (s.counterpart j a.2).isNone
  let request := (List.range 11).any fun c => match (s.ctx k c).hold with
    | some { since := t, phase := .twin _ sl, .. } => late t && (s.firstTo j sl).isNone
    | _ => false
  let unit := match s.copyHead k with
    | some q => late q.since && !s.copyLocal k q && (match s.copyHead j with
      | some p => !q.agrees p (s.core k).cx.cv (s.core j).cx.cv
      | none => true)
    | none => false
  packet || request || unit

def execTwinHashTimeout (k : Nat) (s : State) : Out :=
  match (s.core k).task.bind Task.twin with
  | some w => .next (if s.twinLate k w.partner || s.twinLate w.partner k then s.twinMismatch k else s)
  | none => .next s

end Sys2Proof.Machine
end

