-- ==== Sys2Proof/Machine/Boot.lean ====
section
/-! DEFINITION. Power-on reset and the boot phases (24 R374 to R376), recovery, and the restart of a `DARK` cluster
(22 R344). -/

namespace Sys2Proof.Machine

/-- The boot is over: programs may start (24 R375). -/
def State.booted (s : State) : Bool := decide (7 ≤ s.bootPhase)

/-- The firmware images of the boot flash, in load order. -/
def State.images (s : State) : List (Nat × List Byte) :=
  (List.range Config.bootImageCount).map fun i => (i, (s.flash.find i).getD (Config.bootImages i))

/-- Whether an image is a body followed by a good signature over SHAKE256 of that body (24 R374). -/
def imageGood (image : List Byte) : Bool :=
  let n := Config.imageBodyLength image
  decide (n ≤ image.length) && Config.lomnerVerifies (shake256 (image.take n)) (image.drop n)

/-- F over the images, in load order, up to the first that fails its verification (22 R340, 24 R374). -/
def measureImages (f : List Byte) : List (Nat × List Byte) → List Byte × Option Nat
  | [] => (f, none)
  | e :: t => if imageGood e.2 then measureImages (shake256 (f ++ e.2)) t else (f, some e.1)

/-- The boot-failure interrupt, sent once: at the failure, or when `INTADDR` is first written after it (24 R375). -/
def State.tellBootFailure (s : State) : State :=
  if s.intWritten && !s.failTold && s.failStep != 0 then
    { s with host := s.host ++ [.bootFailure s.failStep.toNat], failTold := true }
  else s

/-- The boot phase under way fails: `BOOTSTAT` names it, and the host is told (24 R375). -/
def State.phaseFailed (s : State) : State :=
  State.tellBootFailure { s with failStep := BitVec.ofNat 8 (s.bootPhase + 1) }

/-- A service core whose first context begins to execute its firmware (24 R374; entry 35). -/
def State.firmwareCore (s : State) (cl : Nat) : Core :=
  let k := serviceOf cl
  let x := s.core k
  { x with ctxs := x.ctxs.put 0 { ctxInit k with live := true, pc := Config.firmwareEntry } }

/-- The service cores execute firmware, once its images have been verified, and no other core does (24 R374). -/
def State.startFirmware (s : State) : State :=
  { s with
    cores := (s.cores.filter fun e => decide (e.1 < sites)) ++
      (List.range clusterCount).map fun cl => (serviceOf cl, s.firmwareCore cl) }

/-- Phase 2: the images are verified and begin to be executed; one that fails leaves the module in recovery mode. -/
def State.loadImages (s : State) : State :=
  match measureImages s.fw s.images with
  | (f, none) => State.startFirmware { s with fw := f, bootPhase := 2 }
  | (f, some i) => State.phaseFailed { s with fw := f, badImage := i, recovery := true }

/-- Phase 3: faulty banks are mapped out, and those of the map-out list (19 R281, R283). -/
def State.mapBanks (s : State) : State :=
  (Config.faultyBanks ++ s.mapOut).foldl (fun s e => s.setBank e.1 e.2 { s.bank e.1 e.2 with state := .gone }) s

/-- What leaves service with a faulty core: with a service core, the cores of its cluster (19 R282). -/
def leavesWith (k : Nat) : List Nat := if k < sites then [k] else k :: clusterCores (clusOf k)

/-- The cores that this part has lost: never so many that fewer than 650,000 are in service (00 R1). -/
def lostCores : List Nat :=
  (Config.faultyCores.filter fun k => decide (k < sites + clusterCount)).foldl (fun l k =>
    let m := (l ++ leavesWith k).eraseDups
    if (m.filter fun j => decide (j < sites)).length + 650000 ≤ sites then m else l) []

/-- Phase 4: cores that fail their test leave service, and execute nothing (19 R282). -/
def State.mapCores (s : State) : State :=
  lostCores.foldl (fun s k => s.setCore k { s.core k with outOfService := true, ctxs := [] }) s

/-- `ESCT` as phase 6 writes it: 1,024 to 65,536, and 4,096 where the module configuration names no other (21 R316). -/
def escapeThreshold : Nat := (Config.escapeNamed.filter fun n => decide (1024 ≤ n) && decide (n ≤ 65536)).getD 4096

/-- The key of a trained port: none to the host, whose packets travel in plaintext, and none where the peer's attestation report
does not verify (24 R371). -/
def trainedKey (p : Nat) : Option (BitVec 256) :=
  if Config.portPeer p ≠ hostPeer ∧ Config.reportVerifies (Config.peerReport p) = true then some (Config.portKey p) else none

/-- The ports trained: each knows its peer and the key agreed with it (24 R371, R375). -/
def State.trainPorts (s : State) : State :=
  { s with
    ports := (List.range 32).foldl (fun m p => m.put p { m.get {} p with
      peer := some (Config.portPeer p), key := trainedKey p }) s.ports
    t1frames := Config.tier1Frames }

/-- Virtual device 0 is created with its keys (24 R375). -/
def State.createManagement (s : State) : State := s.setVdev 0 { keys := true, keyGen := 1 }

/-- The next boot phase; a phase that has failed is the last (24 R375). `CYC` counts from the c-cycle in which phase 6 begins (24 R376). -/
def State.bootNext (s : State) : State :=
  if s.recovery || s.failStep != 0 then s
  else
    match s.bootPhase with
    | 0 => { s with bootPhase := 1 }
    | 1 => s.loadImages
    | 2 => { s.mapBanks with bootPhase := 3 }
    | 3 => { s.mapCores with bootPhase := 4 }
    | 4 => { s with bootPhase := 5, cyc := 0 }
    | 5 => { s with bootPhase := 6, esct := escapeThreshold }
    | 6 => { s.trainPorts.createManagement with bootPhase := 7 }
    | _ => s

/-- Banks retired in service: the map-out list of the next boot (19 R283). -/
def State.goneBanks (s : State) : List (Nat × Nat) :=
  s.clusters.flatMap fun e => (e.2.banks.filter fun b => decide (b.2.state = .gone)).map fun b => (e.1, b.1)

/-- Power-on reset: everything but the boot flash, the map-out list and the fuses starts anew; the security state that the fuses
give comes into force (22 R342). -/
def execPowerOnReset (s : State) : Out :=
  .next { State.reset with
    script := s.script, fresh := s.fresh, cur := s.cur, flash := s.flash, mapOut := (s.mapOut ++ s.goneBanks).eraseDups
    fuse := s.fuse, inForce := s.fuse }

/-- In recovery mode a new signed image is written to the boot flash, in place of the one that failed (24 R375). -/
def execRecoveryImageWrite (image : List Byte) (s : State) : Out :=
  if s.recovery && imageGood image then .next { s with flash := s.flash.put s.badImage image } else .next s

/-- A bank of a cluster that starts again: clean, unless it has left the pool. -/
def Bank.restart (b : Bank) : Bank := if b.state = .gone then b else {}

/-- A core that starts again with its cluster: what its service core and firmware know of it is kept. -/
def Core.restart (x : Core) : Core :=
  { quarantined := x.quarantined, outOfService := x.outOfService, suspect := x.suspect, testing := x.testing,
    lastMismatch := x.lastMismatch, mismatchedAgain := x.mismatchedAgain, cmdSeq := x.cmdSeq }

/-- A cluster woken from `DARK` has booted: its banks are clean, its cores run, and its route entries are those of boot but for
paths that meet an elevator which takes nothing (21 R319, 22 R344). -/
def execDarkClusterBoot (cl : Nat) (s : State) : Out :=
  let x := s.cluster cl
  if x.power = .dark ∧ x.booting = true then
    let x1 : Cluster := { x with
      banks := x.banks.map fun b => (b.1, b.2.restart)
      resident := [], codeCache := [], tlb := [], cload := 0, migctl := ({} : Cluster).migctl, moving := [], power := .run, booting := false
      routes := s.rewritten cl { x with routes := [] }, copyLast := ({} : Cluster).copyLast
      copySkip := ({} : Cluster).copySkip, shadows := [], breaks := [] }
    .next ((clusterCores cl).foldl (fun s k => s.setCore k (s.core k).restart) (s.setCluster cl x1))
  else .next s

end Sys2Proof.Machine
end

