-- ==== Sys2Proof/Machine/Launch.lean ====
section
/-! DEFINITION. Launches (18 R260 to R267): the parameter block and its checks, the order of tasks, placement on cores
and on pairs, the start of a task, spawned tasks, and the end of a launch. -/

namespace Sys2Proof.Machine

/-! ### The parameter block (18 R260, Table 18-1) -/

def lpbEntry (w : BitVec 512) : Nat := natBits w.toNat 0 48
def lpbTentry (w : BitVec 512) : Nat := natBits w.toNat 64 48
def lpbResb (w : BitVec 512) : Nat := natBits w.toNat 128 48
def lpbResl (w : BitVec 512) : Nat := natBits w.toNat 176 16
def lpbArgs (w : BitVec 512) : Nat := natBits w.toNat 192 48
def lpbImg (w : BitVec 512) : Nat := natBits w.toNat 256 48
def lpbSlots (w : BitVec 512) : BitVec 12 := BitVec.ofNat 12 (natBits w.toNat 304 12)
def lpbX (w : BitVec 512) : Nat := natBits w.toNat 320 20 + 1
def lpbY (w : BitVec 512) : Nat := natBits w.toNat 340 20 + 1
def lpbZ (w : BitVec 512) : Nat := natBits w.toNat 360 20 + 1
def lpbOrder (w : BitVec 512) : Nat := natBits w.toNat 380 2
def lpbSwiz (w : BitVec 512) : Nat := natBits w.toNat 382 4
def lpbCor (w : BitVec 512) : Bool := natBits w.toNat 386 1 == 1
def lpbRed (w : BitVec 512) : Bool := natBits w.toNat 387 1 == 1

/-- The tasks of a launch, its runs, and the tasks of a run (18 R262, R264). -/
def lpbTasks (w : BitVec 512) : Nat := lpbX w * lpbY w * lpbZ w
def lpbRun (w : BitVec 512) : Nat := 2 ^ lpbSwiz w
def lpbRuns (w : BitVec 512) : Nat := (lpbTasks w + lpbRun w - 1) / lpbRun w

/-- The slots of the image, in ascending order. -/
def lpbSlotList (w : BitVec 512) : List Nat := (List.range 12).filter fun n => (lpbSlots w).getLsbD n

/-- The reserved fields of a parameter block. -/
def lpbReserved (w : BitVec 512) : Bool :=
  natBits w.toNat 48 16 == 0 && natBits w.toNat 112 16 == 0 && natBits w.toNat 240 16 == 0 &&
    natBits w.toNat 316 4 == 0 && natBits w.toNat 388 124 == 0

/-- The pages of a range, by the address at which each is reached. -/
def pagesOf (a n : Nat) : List Addr :=
  if n = 0 then [] else (List.range ((a + n - 1) / 32768 + 1 - a / 32768)).map fun i => BitVec.ofNat 48 (if i = 0 then a else (a / 32768 + i) * 32768)

/-- Whether every page of a range of a device is mapped and pinned. -/
def State.mapped (s : State) (v a n : Nat) (wr : Bool) : Bool := (pagesOf a n).all fun p => (s.xlateWalk v p wr).isSome

/-- What an endpoint that reaches a range of a device leaves: its walks, and the packets to and from the slice of each page, of
class `COPY` where more than a doubleword goes (19 R289, 21 R309, 22 R331). -/
def State.reachedBy (s : State) (by_ : Node) (v a n : Nat) : State :=
  (pagesOf a n).foldl (fun s p =>
    let s1 := s.walked by_ v p
    match s.xlateWalk v p false with
    | some pa =>
      if n ≤ 8 then s1.asks by_ (.slice (sliceOf pa)) .req .rsp else s1.asks by_ (.slice (sliceOf pa)) .copy .copy
    | none => s1) s

/-- The same of the command processor of the device. -/
def State.reached (s : State) (v a n : Nat) : State := s.reachedBy (s.deviceNode v) v a n

/-- Whether a page of a range moves, so that what reads it waits (19 R295). -/
def State.pagesMove (s : State) (v a n : Nat) : Bool :=
  (pagesOf a n).any fun p => (s.xlateWalk v p false).any fun pa => (s.frame (frameOf pa)).moving

/-- The tests of R261 that a parameter block passes. -/
def State.lpbGood (s : State) (v : Nat) (w : BitVec 512) : Bool :=
  lpbReserved w && decide (lpbSwiz w ≤ 10) && !(lpbSlots w).getLsbD 0 && decide (lpbEntry w % 4 = 0) &&
    decide (lpbResb w % 64 = 0) && decide (lpbResb w ≤ lpbTentry w) && decide (lpbTentry w < lpbResb w + 64 * lpbResl w) &&
    decide (1 ≤ lpbResl w) && decide (lpbResl w ≤ 1024) &&
    s.mapped v (lpbEntry w) 1 false && s.mapped v (lpbResb w) (64 * lpbResl w) false && s.mapped v (lpbArgs w) 1 false &&
    (lpbSlots w == 0 ||
      (decide (lpbImg w % 16 = 0) && s.mapped v (lpbImg w) (4128 * (lpbSlotList w).length) false))

/-- What testing a parameter block leaves, and whether the pages that its launch loads move. -/
def State.lpbReached (s : State) (v : Nat) (w : BitVec 512) : State :=
  let s1 := ((s.reached v (lpbEntry w) 1).reached v (lpbResb w) (64 * lpbResl w)).reached v (lpbArgs w) 1
  if lpbSlots w == 0 then s1 else s1.reached v (lpbImg w) (4128 * (lpbSlotList w).length)
def State.imagesMove (s : State) (v : Nat) (w : BitVec 512) : Bool :=
  s.pagesMove v (lpbResb w) (64 * lpbResl w) || (lpbSlots w != 0 && s.pagesMove v (lpbImg w) (4128 * (lpbSlotList w).length))

/-! ### From position to index (18 R262, R263) -/

/-- The bits of three numbers interleaved, x lowest. -/
def morton : Nat → Nat → Nat → Nat → Nat
  | 0, _, _, _ => 0
  | n + 1, x, y, z => x % 2 + 2 * (y % 2) + 4 * (z % 2) + 8 * morton n (x / 2) (y / 2) (z / 2)

/-- The least power of two that is not less than a number, as its exponent. -/
def log2Up (n : Nat) : Nat := ((List.range 21).find? fun b => decide (n ≤ 2 ^ b)).getD 20

/-- The member of a list with `q` members of smaller code. -/
def nthBy (l : List Nat) (code : Nat → Nat) (q : Nat) : Nat :=
  (l.find? fun i => decide ((l.filter fun j => decide (code j < code i)).length = q)).getD 0

/-- The point (x, y, z) of position `q`. -/
def taskPoint (w : BitVec 512) (q : Nat) : Nat × Nat × Nat :=
  let x := lpbX w
  let y := lpbY w
  match lpbOrder w with
  | 0 => (q % x, q / x % y, q / (x * y))
  | 1 => (q / y % x, q % y, q / (x * y))
  | 2 =>
    let i := nthBy (List.range (lpbTasks w)) (fun i => morton 20 (i % x) (i / x % y) (i / (x * y))) q
    (i % x, i / x % y, i / (x * y))
  | _ =>
    let b := log2Up (max x y)
    let i := nthBy (List.range (x * y)) (fun i => hilb b (i % x) (i / x)) (q % (x * y))
    (i % x, i / x, q / (x * y))

/-- The linear index of a point, and the packed index of `P1` (18 R262, 01 Table 1-12). -/
def linearIndex (w : BitVec 512) (p : Nat × Nat × Nat) : Nat := p.1 + lpbX w * (p.2.1 + lpbY w * p.2.2)
def packedIndex (p : Nat × Nat × Nat) : Word := BitVec.ofNat 64 (p.1 + p.2.1 * 2 ^ 20 + p.2.2 * 2 ^ 40)

/-! ### Positions (18 R264, 23 R360) -/

/-- The in-service cores of a partition that are not quarantined, in ascending index. -/
def State.positions (s : State) (p : Nat) : List Nat :=
  (s.part p).cores.filter fun k => s.inService k && !(s.core k).quarantined

/-- The pairs of a partition: both cores in service, at most one quarantined (23 R360). -/
def State.pairs (s : State) (p : Nat) : List (Nat × Nat) :=
  let x := s.part p
  (x.cores.filter fun k => decide (partIndex k % 16 < 8)).filterMap fun k =>
    let j := siteOfIndex (partIndex k + 8)
    if x.holds j && s.inService k && s.inService j && !((s.core k).quarantined && (s.core j).quarantined) then some (k, j)
    else none

/-- The pool's banks. -/
def Cluster.pool (x : Cluster) : Nat := ((List.range 768).filter fun b => (x.bank b).free).length

/-- The lines of resident regions in a cluster, and whether a launch's region is there or fits (19 R284). -/
def Cluster.residentLines (x : Cluster) : Nat := (x.resident.map Resident.lines).sum
def Cluster.fits (x : Cluster) (l : Nat) (w : BitVec 512) : Bool :=
  (x.resident.any fun r => decide (r.launch = l)) || decide (x.residentLines + lpbResl w ≤ 4096)

/-- A free core: no task and no saved context, tested, in a cluster that runs and that can hold the region
(18 R264, 22 R344, 23 R363). -/
def State.freeCore (s : State) (k l : Nat) (w : BitVec 512) : Bool :=
  let x := s.core k
  x.task.isNone && x.savedAt.isNone && !x.testing && decide ((s.cluster (clusOf k)).power = .run) &&
    (s.cluster (clusOf k)).fits l w

/-- Cores that can all start together with `need` banks each (19 R386). -/
def State.canStart (s : State) (ks : List Nat) (l need : Nat) (w : BitVec 512) : Bool :=
  ks.all fun k =>
    s.freeCore k l w &&
      decide ((ks.filter fun j => decide (clusOf j = clusOf k)).length * need ≤ (s.cluster (clusOf k)).pool)

/-! ### The start of a task (01 R33) -/

/-- Bytes of a device's G space as the loader reads them; a byte that can no longer be read is free. -/
def State.loadBytes (s : State) (v a n : Nat) : List Byte :=
  (cuts 64 (n / 64 + 2) a n).flatMap fun e =>
    match s.xlateWalk v (BitVec.ofNat 48 e.1) false with
    | some pa =>
      if (s.sliceCheck v pa).isNone then (List.range e.2).map fun i => Memory.read s.mem (pa + i)
      else (List.range e.2).map fun i => Config.freeByte (s.fresh + (e.1 - a) + i)
    | none => (List.range e.2).map fun i => Config.freeByte (s.fresh + (e.1 - a) + i)

/-- Little-endian pieces of a list of bytes. -/
def pieces (n : Nat) : Nat → List Byte → List (List Byte)
  | 0, _ => []
  | f + 1, l => if l.isEmpty then [] else l.take n :: pieces n f (l.drop n)

/-- A bank loaded from a record of the slot image: 4,096 bytes and a full map (18 R260). -/
def Bank.load (b : Bank) (rec : List Byte) : Bank :=
  let gs := pieces 16 256 (rec.take 4096)
  let b1 := ((List.range 256).zip gs).foldl (fun b e => b.setGranule e.1 (BitVec.ofNat 128 (leNat e.2))) b.zeroed
  { b1 with full := BitVec.ofNat 256 (leNat ((rec.drop 4096).take 32)) }

/-- The resident region loaded with the first task in a cluster (19 R284). -/
def State.loadResident (s : State) (cl l : Nat) (v : Nat) (w : BitVec 512) : State :=
  let x := s.cluster cl
  if x.resident.any fun r => decide (r.launch = l) then s
  else
    let n := 64 * lpbResl w
    let ws := (pieces 4 (16 * lpbResl w) (s.loadBytes v (lpbResb w) n)).map fun b => BitVec.ofNat 32 (leNat b)
    let r : Resident :=
      { launch := l, base := lpbResb w, lines := lpbResl w,
        words := ((List.range ws.length).zip ws).foldl (fun m e => m.putD 0 e.1 e.2) [] }
    State.reached { s.setCluster cl { x with resident := x.resident ++ [r] } with fresh := s.fresh + n } v (lpbResb w) n

/-- A bank of the pool taken for a slot of a core, with its content. -/
def State.giveBank (s : State) (k n : Nat) (f : Bank → Bank) : State :=
  match (s.cluster (clusOf k)).pick (quadIn k) with
  | some b => s.attach k n b (f (s.bank (clusOf k) b)) 0
  | none => s

/-- The registers of a task's control context (01 Table 1-12, 10 R194). -/
def startCtx (w : BitVec 512) (t : Task) : Ctx :=
  match t.spawn with
  | some (entry, data, arg) =>
    { pc := entry, a := arg, p := #v[data.setWidth 64, 0, 0, 0, 0, 0, 0, sentinel.setWidth 64], live := true }
  | none =>
    let pt := taskPoint w t.index
    { pc := BitVec.ofNat 48 (lpbEntry w), a := BitVec.ofNat 64 (linearIndex w pt),
      p := #v[BitVec.ofNat 64 (lpbArgs w), packedIndex pt, 0, 0, 0, 0, 0, sentinel.setWidth 64], live := true }

/-- A core with a task's start state. -/
def Core.begin (x : Core) (w : BitVec 512) (t : Task) : Core :=
  { x with
    ctxs := (0, startCtx w t) :: x.ctxs.filter fun e => e.2.guest.isSome && decide (e.1 ≠ 0)
    tvec := BitVec.ofNat 64 (lpbTentry w), slots := [], reasons := [], mx := {}, vx := {}, cx := {}, returns := [],
    task := some t }

/-- A task started on a core: its region, its trap bank and the banks of its image (01 R33, 19 R284, R386). -/
def State.startOn (s : State) (k l : Nat) (w : BitVec 512) (t : Task) : State :=
  let s1 := s.loadResident (clusOf k) l t.vdev w
  let s2 := s1.setCore k ((s1.core k).begin w t)
  let s3 := s2.giveBank k 0 Bank.zeroed
  if t.spawn.isSome then s3
  else
    let ns := lpbSlotList w
    let s4 := ((List.range ns.length).zip ns).foldl (fun s e =>
      s.giveBank k e.2 fun b => b.load (s.loadBytes t.vdev (lpbImg w + 4128 * e.1) 4128)) s3
    State.reached { s4 with fresh := s4.fresh + 4128 * ns.length } t.vdev (lpbImg w) (4128 * ns.length)

/-- A task started on a core, or on a pair, by its command processor (21 R309, 23 R360). -/
def State.startTask (s : State) (ks : List Nat) (l : Nat) (w : BitVec 512) (t : Task) : State :=
  let t1 := { t with uid := s.taskSeq }
  let s0 := { s with taskSeq := s.taskSeq + 1 }
  match ks with
  | [k] => (s0.pass (.processor (s.placer t)) (.core k) .ctrl).startOn k l w { t1 with twin := none }
  | [k, j] =>
    (((s0.pass (.processor (s.placer t)) (.core k) .ctrl).pass (.processor (s.placer t)) (.core j) .ctrl).startOn k l w { t1 with twin := some { partner := j, primary := true } }).startOn j l w
      { t1 with twin := some { partner := k, primary := false } }
  | _ => s

/-! ### Runs (18 R264) -/

/-- The places of a launch: single cores, or pairs whose cores are free (23 R360). -/
def State.places (s : State) (l : Nat) (x : Launch) : List (List Nat) :=
  if lpbRed x.lpb then
    ((s.pairs x.part).filter fun e => s.freeCore e.1 l x.lpb && s.freeCore e.2 l x.lpb).map fun e => [e.1, e.2]
  else (s.positions x.part).map fun k => [k]

/-- The least start at which `m` consecutive places can all take a task. -/
def State.findRun (s : State) (l : Nat) (x : Launch) (m : Nat) : Option (List (List Nat)) :=
  let ps := s.places l x
  let need := 1 + (lpbSlotList x.lpb).length
  (List.range (ps.length + 1 - m)).findSome? fun c =>
    let run := (ps.drop c).take m
    if run.length = m ∧ s.canStart run.flatten l need x.lpb = true then some run else none

/-- The task of a position of a launch. -/
def Launch.task (x : Launch) (l q : Nat) : Task := { vdev := x.vdev, part := x.part, launch := l, index := q }

/-- The next run of a launch placed, or `none`; what it loads must not be on pages that move (19 R295). -/
def State.placeRun (s : State) (l : Nat) (x : Launch) : Option State :=
  let r := lpbRun x.lpb
  let m := min r (lpbTasks x.lpb - x.nextRun * r)
  if s.imagesMove x.vdev x.lpb then none
  else (s.findRun l x m).map fun run =>
    let s1 := ((List.range m).zip run).foldl (fun s e => s.startTask e.2 l x.lpb (x.task l (x.nextRun * r + e.1))) s
    { s1 with launches := s1.launches.put l { x with nextRun := x.nextRun + 1, started := x.started + m } }

/-- A task that is queued again goes to a pair of other cores (23 R362). -/
def State.placeAgain (s : State) (l : Nat) (x : Launch) (t : Task) : Option State :=
  let need := 1 + (lpbSlotList x.lpb).length
  if s.imagesMove x.vdev x.lpb then none
  else ((s.places l x).find? fun ks => s.canStart ks l need x.lpb && ks.all fun k => !t.avoid.contains k).map fun ks =>
    let s1 := s.startTask ks l x.lpb t
    { s1 with launches := s1.launches.put l { x with requeued := x.requeued.erase t } }

/-! ### The order of placement (18 R265, R267) -/

/-- Whether a launch has a run or a task waiting. -/
def Launch.waiting (x : Launch) : Bool :=
  !x.killed && (decide (x.nextRun < lpbRuns x.lpb) || !x.requeued.isEmpty)

/-- The oldest live launch of a partition that has a run waiting. -/
def State.headLaunch (s : State) (p : Nat) : Option (Nat × Launch) :=
  s.launches.find? fun e => decide (e.2.part = p) && e.2.waiting

/-- A co-resident launch at the head of the order holds the partition's free cores (18 R267). -/
def State.markHolding (s : State) (p : Nat) : State :=
  match s.headLaunch p with
  | some (l, x) =>
    if lpbCor x.lpb && (s.part p).spawned.isEmpty && !x.holding then
      { s with launches := s.launches.put l { x with holding := true } }
    else s
  | none => s

/-- No task starts in a partition while a save of it is in force, or its device is being moved (22 R346, 23 R351). -/
def State.partHeld (s : State) (p : Nat) : Bool := (s.part p).held || s.deviceStopping (s.part p).vdev

/-- Whether the partition's cores are held for a co-resident launch: an older launch that has a task queued again goes before
it, and the cores stay held. -/
def State.coresHeld (s : State) (p : Nat) : Bool :=
  s.launches.any fun e => decide (e.2.part = p) && e.2.holding && e.2.waiting

/-- The place nearest to a spawned task's data (18 R266): the lower position on a tie. -/
def State.nearest (s : State) (l : Nat) (x : Launch) (t : Task) : Option (List Nat) :=
  let data := match t.spawn with
    | some (_, d, _) => d
    | none => 0
  let dist (ks : List Nat) : Nat := match s.xlateWalk t.vdev data false with
    | some pa => sliceDist (ks.headD 0) (sliceOf pa)
    | none => 0
  ((s.places l x).filter fun ks => s.canStart ks l 1 x.lpb && ks.all fun k => !t.avoid.contains k).foldl
    (fun b ks => match b with
      | none => some ks
      | some c => if dist ks < dist c then some ks else some c) none

/-- The oldest spawned task of a partition placed, or `none`. -/
def State.placeSpawned (s : State) (p : Nat) : Option State :=
  match (s.part p).spawned with
  | t :: rest =>
    (match s.launches.find t.launch with
    | some x =>
      if s.partHeld p || s.coresHeld p || s.imagesMove x.vdev x.lpb then none
      else (s.nearest t.launch x t).map fun ks =>
        let s1 := s.walked (.processor (s.placer t)) t.vdev ((t.spawn.map fun e => e.2.1).getD 0)
        (s1.setPart p { s1.part p with spawned := rest }).startTask ks t.launch x.lpb t
    | none => none)
  | [] => none

def execSpawnPlacement (p : Nat) (s : State) : Out :=
  match s.placeSpawned p with
  | some s1 => .next (s1.markHolding p)
  | none => .next s

/-- The next run of a launch, or a task of it that is queued again, is placed when its turn has come (18 R264, R265). -/
def execTaskPlacement (l : Nat) (s : State) : Out :=
  match s.launches.find l with
  | some x =>
    if s.partHeld x.part || lpbCor x.lpb && x.requeued.isEmpty || (s.placeSpawned x.part).isSome ||
        (s.headLaunch x.part).map Prod.fst ≠ some l then .next s
    else
      let r := match x.requeued with
        | t :: _ => s.placeAgain l x t
        | [] => s.placeRun l x
      (match r with
      | some s1 => .next (s1.markHolding x.part)
      | none => .next s)
  | none => .next s

/-- All the runs of a co-resident launch placed together, or `none` (18 R267). -/
def State.placeAll (l : Nat) : Nat → State → Option State
  | 0, s => some s
  | n + 1, s =>
    match s.launches.find l with
    | some x => if x.nextRun < lpbRuns x.lpb then (s.placeRun l x).bind (State.placeAll l n) else some s
    | none => some s

def execCoresidentLaunchStart (l : Nat) (s : State) : Out :=
  match s.launches.find l with
  | some x =>
    if !lpbCor x.lpb || s.partHeld x.part || (s.headLaunch x.part).map Prod.fst ≠ some l || !x.holding then
      .next (s.markHolding x.part)
    else
      (match State.placeAll l (lpbRuns x.lpb) s with
      | some s1 => .next (s1.markHolding x.part)
      | none => .next s)
  | none => .next s

/-! ### The start and the end of a launch -/

/-- Places that a launch can count on at all: `C` of R264, pairs for RED = 1. -/
def State.capacity (s : State) (p : Nat) (w : BitVec 512) : Nat :=
  if lpbRed w then (s.pairs p).length else (s.positions p).length

/-- The clusters of a partition. -/
def State.partClusters (s : State) (p : Nat) : List Nat := ((s.part p).cores.map clusOf).eraseDups

/-- Why a launch cannot start: its DETAIL (18 R261, R264, R267). Virtual device 0 runs no tasks (22 R329): its launches fail
with a DETAIL that the manual does not give (DESIGN CHOICE, entry 62). -/
def State.launchFails (s : State) (v p : Nat) (w : BitVec 512) : Option Byte :=
  if v = 0 then some (Config.freeByte s.fresh)
  else if !s.lpbGood v w then some 0x02
  else if s.capacity p w < lpbRun w then some 0x02
  else if lpbCor w && (decide (s.capacity p w < lpbTasks w) ||
      (lpbRed w && decide ((s.positions p).length < 2 * lpbTasks w))) then some 0x03
  else if (s.partClusters p).any fun cl => !(s.cluster cl).fits s.launchSeq w then some 0x03
  else none

/-- Tasks of a launch that run. -/
def Launch.running (x : Launch) : Nat := x.started - x.ended

/-- Whether a launch is over: nothing of it waits or runs. -/
def Launch.finished (x : Launch) : Bool := !x.waiting && decide (x.running = 0) && decide (x.spawned = 0) && x.dones.isEmpty

/-- A launch killed: no task of it starts any more, and every task of it is aborted, those too that still wait for their places, whose
completion doublewords get the value 2 (18 R280, 10 R194). The next launch may be one whose cores are now held (18 R267). -/
def State.killLaunch (s : State) (l : Nat) : State :=
  match s.launches.find l with
  | some x =>
    let y := s.part x.part
    let gone := y.spawned.filter fun t => decide (t.launch = l)
    let s1 := s.setPart x.part { y with spawned := y.spawned.filter fun t => !decide (t.launch = l) }
    let x1 : Launch := { x with
      killed := true, requeued := [], started := x.started - x.requeued.length, spawned := x.spawned - gone.length }
    let s2 := gone.foldl (fun s t => s.storeDone t 2) { s1 with launches := s1.launches.put l x1 }
    (s2.cores.foldl (fun s e => if e.2.task.map Task.launch = some l then s.abortTask e.1 else s) s2).markHolding x.part
  | none => s

end Sys2Proof.Machine
end

