-- ==== Sys2Proof/Machine/Streams.lean ====
section
/-! DEFINITION. Command streams (18 R272 to R280): the record and its checks, the fetch, completion, launches, copies,
fills, waits and signals, graphs, and the destruction of a stream. -/

namespace Sys2Proof.Machine

/-! ### The record (18 R273, R274, Tables 18-7 and 18-8) -/

def rcField (rc : BitVec 512) (lo n : Nat) : Nat := natBits rc.toNat lo n
def rcAddr (rc : BitVec 512) (lo : Nat) : Addr := BitVec.ofNat 48 (rcField rc lo 48)
def rcOp (rc : BitVec 512) : Nat := rcField rc 0 8
def rcKill (rc : BitVec 512) : Bool := rcField rc 8 1 == 1
def rcCopy (rc : BitVec 512) : Bool := rcField rc 9 1 == 1
def rcCw (rc : BitVec 512) : Addr := rcAddr rc 16
def rcSub (rc : BitVec 512) : Nat := rcField rc 64 4

/-- The operand fields of a command, as position and width; none for a command or SUB that is not listed
(18 Table 18-8, 19 Table 19-6, 22 Table 22-5, 23 R351). -/
def rcFields (rc : BitVec 512) : Option (List (Nat × Nat)) :=
  match rcOp rc with
  | 0x01 => some [(64, 48)]
  | 0x02 => if rcSub rc ≤ 3 then some [(64, 4), (80, 12), (128, 48), (176, 16)] else none
  | 0x03 => some [(64, 48), (128, 48), (176, 40)]
  | 0x04 => some [(64, 48), (128, 64), (192, 40)]
  | 0x05 => some [(64, 48), (128, 64), (192, 2), (224, 32)]
  | 0x06 => some [(64, 48), (128, 64), (192, 1)]
  | 0x07 => some [(64, 48), (112, 32)]
  | 0x08 => some [(64, 48), (112, 32)]
  | 0x09 => some [(64, 48), (112, 32), (144, 2)]
  | 0x0A => if rcSub rc ≤ 1 then some [(64, 4), (128, 48)] else none
  | 0x0B =>
    match rcSub rc with
    | 0 => some [(64, 4), (80, 9), (96, 2), (98, 2)]
    | 1 => some [(64, 4), (80, 9), (96, 3), (112, 16), (128, 16)]
    | _ => none
  | 0x0C => if rcSub rc ≤ 1 then some [(64, 4), (80, 9)] else none
  | 0x0D =>
    match rcSub rc with
    | 0 => some [(64, 4), (80, 9), (96, 12), (112, 48), (160, 32)]
    | 1 => some [(64, 4), (80, 9), (96, 12), (192, 1)]
    | n => if n ≤ 4 then some [(64, 4), (80, 9), (96, 12)] else none
  | 0x0E => if rcSub rc ≤ 4 then some [(64, 4), (80, 9), (112, 48), (160, 6)] else none
  | _ => none

/-- Whether every bit of a record outside the listed fields is 0. -/
def rcOnly (rc : BitVec 512) (l : List (Nat × Nat)) : Bool :=
  let m := (((0, 10) : Nat × Nat) :: (16, 48) :: l).foldl (fun m f => m ||| (2 ^ f.2 - 1) <<< f.1) 0
  rc.toNat ||| m == m

/-- The rules on the operands' values. -/
def rcValues (rc : BitVec 512) : Bool :=
  match rcOp rc with
  | 0x02 => rcSub rc != 0 || rcField rc 128 6 == 0
  | 0x04 => rcField rc 64 3 == 0 && rcField rc 192 3 == 0
  | 0x05 => rcField rc 64 3 == 0 && rcField rc 192 2 != 3
  | 0x06 => rcField rc 64 3 == 0
  | 0x07 => rcField rc 64 15 == 0 && rcField rc 112 32 != 0
  | 0x08 => rcField rc 64 15 == 0 && rcField rc 112 32 != 0
  | 0x09 => rcField rc 64 15 == 0 && rcField rc 112 32 != 0 && rcField rc 144 2 != 3
  | 0x0A => rcField rc 128 17 == 0
  | 0x0B => rcSub rc != 1 || decide (rcField rc 96 3 ≤ 3)
  | 0x0D => rcSub rc != 0 || rcField rc 112 15 == 0
  | 0x0E => rcField rc 112 3 == 0
  | _ => true

/-- The virtual device that a management command names. -/
def rcVdev (rc : BitVec 512) : Nat := rcField rc 80 9

/-- A command of Table 22-5: only on a stream of virtual device 0, and only for a device with keys, `KEY` create apart
(22 R329, R332). -/
def State.managementOk (s : State) (v : Nat) (rc : BitVec 512) : Bool :=
  if 0x0B ≤ rcOp rc ∧ rcOp rc ≤ 0x0E then
    decide (v = 0) && ((rcOp rc == 0x0C && rcSub rc == 0) || (s.vdev (rcVdev rc)).keys)
  else true

/-- Whether a record may run on a stream of a device: else it completes FAILED with DETAIL 0x01. -/
def State.recordOk (s : State) (v : Nat) (rc : BitVec 512) : Bool :=
  rcField rc 16 3 == 0 && (match rcFields rc with
    | some l => rcOnly rc l
    | none => false) && rcValues rc && s.managementOk v rc

/-! ### G space of a device, as its streams reach it (09 R175) -/

/-- An address of a device translated by its tables; the access waits where its slice lets none through. -/
def State.deviceXlate (s : State) (v ea : Nat) (wr : Bool) : Got Nat :=
  match s.xlateWalk v (BitVec.ofNat 48 ea) wr with
  | none => .bad causePagefatal (BitVec.ofNat 48 ea)
  | some pa => s.copyWay pa

/-- Bytes read with an acquire at SYS where `acq` says so: a tier-1 line must be written through (05 R96). -/
def State.deviceRead (s : State) (v ea n : Nat) (acq : Bool) : Got (List Byte) :=
  gather (cuts 64 (n / 64 + 2) ea n) fun a n => (s.deviceXlate v (a % 2 ^ 48) false).next fun pa =>
    if acq && s.lineBehind pa then .wait .held else s.sliceRead false v pa n

/-- Bytes written piece by piece. -/
def scatter (l : List (Nat × Nat)) (bs : List Byte) (s : State) (f : State → Nat → List Byte → Got State) : Got State :=
  match l with
  | [] => .ok s
  | (a, n) :: t => (f s a (bs.take n)).next fun s1 => scatter t (bs.drop n) s1 f

def State.deviceWrite (s : State) (v ea : Nat) (bs : List Byte) : Got State :=
  scatter (cuts 64 (bs.length / 64 + 2) ea bs.length) bs s fun s a bs =>
    (s.deviceXlate v (a % 2 ^ 48) true).next fun pa => s.linePut v pa bs

/-- What follows an access of an endpoint: its walks are counted (22 R331), a failure has its cause, and one that must wait
leaves everything as it is. -/
def Got.onNode {α : Type} (g : Got α) (s : State) (by_ : Node) (v ea n : Nat) (ok : α → State) (bad : State → Byte → State) : State :=
  match g with
  | .ok x => (ok x).reachedBy by_ v ea n
  | .bad c _ => (bad s c).reachedBy by_ v ea n
  | .wait _ => s

/-- The same of the command processor of the device. -/
def Got.onDevice {α : Type} (g : Got α) (s : State) (v ea n : Nat) (ok : α → State) (bad : State → Byte → State) : State :=
  g.onNode s (s.deviceNode v) v ea n ok bad

/-- Whether a tier-1 line of a device is not yet written through: a release of its streams at SYS waits (05 R96, 12 R238;
entry 38). -/
def State.deviceBehind (s : State) (v : Nat) : Bool := s.through.any fun t => decide ((s.frame (t.line / 512)).owner = some v)

/-! ### Streams and their commands -/

def State.strm (s : State) (v t : Nat) : Stream := (s.vdev v).streams.get {} t
def State.setStream (s : State) (v t : Nat) (x : Stream) : State :=
  s.setVdev v { s.vdev v with streams := (s.vdev v).streams.put t x }
def State.job (s : State) (v t n : Nat) : Option Job := (s.strm v t).jobs.find n
def State.setJob (s : State) (v t n : Nat) (j : Job) : State :=
  s.setStream v t { s.strm v t with jobs := (s.strm v t).jobs.put n j }

/-- STATUS values (18 R273). -/
def stDone : Nat := 1
def stFailed : Nat := 2
def stCancelled : Nat := 3
def stBusy : Nat := 4

/-- A completion doubleword written with a release at SYS: `none` while it must wait. One that cannot be written is not (18
R273; entry 38). -/
def State.putCw (s : State) (v : Nat) (cw : Addr) (x : Word) : Option State :=
  if s.deviceBehind v then none
  else
    match s.deviceWrite v cw.toNat (leBytes 8 x.toNat) with
    | .ok s1 => some (s1.reached v cw.toNat 8)
    | .bad _ _ => some (s.reached v cw.toNat 8)
    | .wait _ => none

/-- The doublewords that a stream owes, written in their order as far as they need not wait (18 R275). -/
def State.payOwed (s : State) (v t : Nat) : State :=
  ((s.strm v t).owed.foldl (fun r e =>
    if !r.2 then r
    else match r.1.putCw v e.1 e.2 with
      | some s1 => (s1.setStream v t { s1.strm v t with owed := (s1.strm v t).owed.drop 1 }, true)
      | none => (r.1, false)) (s, true)).1

/-- Everything owed that need not wait any more: by streams, and by launches for their spawned tasks. -/
def State.payAll (s : State) : State :=
  let s1 := s.vdevs.foldl (fun s d => d.2.streams.foldl (fun s t => s.payOwed d.1 t.1) s) s
  s1.launches.foldl (fun s l => s.payDones l.1) s1

/-- The completion doubleword of a command of a stream (18 R273, Table 18-7). -/
def State.writeCw (s : State) (v t : Nat) (rc : BitVec 512) (status : Nat) (detail : Byte) (result : Nat) : State :=
  let cw := rcCw rc
  if cw = 0 || cw.toNat % 8 != 0 then s
  else
    let x := BitVec.ofNat 64 (status + detail.toNat * 2 ^ 8 + result * 2 ^ 32)
    (s.setStream v t { s.strm v t with owed := (s.strm v t).owed ++ [(cw, x)] }).payOwed v t

/-- A failure sets ERR with its DETAIL; while ERR is set, DETAIL stays that of what set it (18 R275, Table 18-6; DESIGN CHOICE, entry
41). -/
def Stream.fails (x : Stream) (detail : Byte) : Stream := if x.err then x else { x with err := true, detail := detail }

/-! ### Completion of commands and of graph nodes (18 R275, R277) -/

/-- The state that a STATUS leaves a node in. -/
def jobState (status : Nat) : JobState := if status = stDone then .done else if status = stFailed then .failed else .cancelled

def JobState.isOver (x : JobState) : Bool := decide (x ≠ .waiting) && decide (x ≠ .running)

/-- The nodes of a stream's running graph. -/
def Stream.nodes (x : Stream) : List (Nat × Job) := x.jobs.filter fun e => decide (e.1 ≠ 0)

/-- The stream's own command completes. -/
def State.endOwn (s : State) (v t : Nat) (j : Job) (status : Nat) (detail : Byte) (result : Nat) : State :=
  let s1 := s.writeCw v t j.rc status detail result
  let x := s1.strm v t
  let x1 : Stream := { x with jobs := [], graph := none }
  s1.setStream v t (if status = stFailed then x1.fails detail else x1)

/-- A graph launch is over: its graph is live once less, and the launch completes (18 R277, R278). Where nodes were cancelled and
none failed, the manual gives no DETAIL (DESIGN CHOICE, entry 62). -/
def State.endGraph (s : State) (v t : Nat) (j : Job) : State :=
  let x := s.strm v t
  let d := s.vdev v
  let s1 := match x.graph with
    | some g =>
      (match d.graphs.find g with
      | some gr => s.setVdev v { d with graphs := d.graphs.put g { gr with live := gr.live - 1 } }
      | none => s)
    | none => s
  if x.nodes.all fun e => decide (e.2.state = .done) then s1.endOwn v t j stDone 0 0
  else if j.kill then s1.endOwn v t j stCancelled 0 0
  else if j.failed then s1.endOwn v t j stFailed j.detail 0
  else { s1 with fresh := s1.fresh + 1 }.endOwn v t j stFailed (Config.freeByte s1.fresh) 0

/-- A node ends: its completion doubleword, its state, and the first failure noted in the launch. -/
def State.endNode (s : State) (v t n : Nat) (j : Job) (status : Nat) (detail : Byte) : State :=
  let s1 := (s.setJob v t n { j with state := jobState status, detail := detail }).writeCw v t j.rc status detail 0
  match s1.job v t 0 with
  | some o => if status = stFailed && !o.failed then s1.setJob v t 0 { o with failed := true, detail := detail } else s1
  | none => s1

/-- Whether a predecessor of a waiting node has failed or was cancelled. -/
def Stream.blocked (x : Stream) (j : Job) : Bool :=
  decide (j.state = .waiting) && j.preds.any fun p =>
    ((x.jobs.find (p + 1)).map fun q => decide (q.state = .failed) || decide (q.state = .cancelled)) == some true

/-- Nodes that can no longer start complete CANCELLED, in their order; when every node is over, so is the launch. -/
def State.settleGraph (s : State) (v t : Nat) : State :=
  let s1 := (s.strm v t).nodes.foldl (fun s e =>
    match s.job v t e.1 with
    | some j => if (s.strm v t).blocked j then s.endNode v t e.1 j stCancelled 0 else s
    | none => s) s
  match s1.job v t 0, (s1.strm v t).graph with
  | some o, some _ => if (s1.strm v t).nodes.all fun e => e.2.state.isOver then s1.endGraph v t o else s1
  | _, _ => s1

/-- A command, or a node, completes. -/
def State.endJob (s : State) (v t n : Nat) (status : Nat) (detail : Byte) (result : Nat) : State :=
  match s.job v t n with
  | some j => if n = 0 then s.endOwn v t j status detail result else (s.endNode v t n j status detail).settleGraph v t
  | none => s

/-- A command whose access failed: DETAIL 0x04 for a page, else a value that the manual does not give. -/
def State.endAccess (s : State) (v t n : Nat) (c : Byte) : State :=
  if c = causePagefatal then s.endJob v t n stFailed 0x04 0
  else { s with fresh := s.fresh + 1 }.endJob v t n stFailed (Config.freeByte s.fresh) 0

/-- A running command of an operation code; the streams of a device that is held are held (22 R346). -/
def State.runs (s : State) (v t n op : Nat) : Option Job :=
  match s.job v t n with
  | some j => if j.state = .running ∧ rcOp j.rc = op ∧ s.deviceHeld v = false then some j else none
  | none => none

/-- What an event does for a running command. -/
def State.onJob (s : State) (v t n op : Nat) (f : Job → State) : Out :=
  match s.runs v t n op with
  | some j => .next (f j)
  | none => .next s

/-! ### The fetch of a record (18 R272, R273, R275) -/

/-- Whether the ring is overrun: TAIL − HEAD above 2^SIZE. -/
def Stream.overrun (x : Stream) : Bool := decide (2 ^ x.size.toNat < (x.tail - x.head).toNat)

/-- An overrun sets ERR with DETAIL 0x09, and is noted until ERR is cleared. -/
def Stream.noteOverrun (x : Stream) : Stream := if x.overrun then { x with err := true, detail := 0x09, overran := true } else x

/-- Whether no record is taken because the ring is, or was, overrun. -/
def Stream.spoilt (x : Stream) : Bool := x.overrun || (x.err && x.overran)

/-- Whether the command processor may take a record: the last command's doubleword has been written (18 R275). -/
def State.mayFetch (s : State) (v t : Nat) : Bool :=
  let x := s.strm v t
  x.live && !x.dying && x.jobs.isEmpty && x.owed.isEmpty && decide (x.head ≠ x.tail) && !s.deviceHeld v && !x.spoilt

/-- The G address of record `i` of a ring. -/
def Stream.recordAt (x : Stream) (i : BitVec 32) : Nat := (addrOf x.base).toNat + 64 * (i.toNat % 2 ^ x.size.toNat)

def State.readRecord (s : State) (v a : Nat) : Got (BitVec 512) :=
  (s.deviceRead v a 64 true).next fun bs => .ok (BitVec.ofNat 512 (leNat bs))

/-- A record taken: it is counted, and runs, fails, or is cancelled. One that starts is a sample (22 R333). -/
def State.takeRecord (s : State) (v t : Nat) (rc : BitVec 512) : State :=
  let x := s.strm v t
  let s1 := s.setStream v t { x with head := x.head + 1 }
  if x.err then s1.writeCw v t rc stCancelled 0 0
  else if s.recordOk v rc then
    (s1.sample v 3).setJob v t 0 { rc := rc, state := .running, since := s.cyc.toNat, kill := false }
  else
    let s2 := s1.writeCw v t rc stFailed 0x01 0
    s2.setStream v t ((s2.strm v t).fails 0x01)

def execStreamRecordFetch (v t : Nat) (s0 : State) : Out :=
  let s := s0.payOwed v t
  if s.mayFetch v t then
    let a := (s.strm v t).recordAt (s.strm v t).head
    .next ((s.readRecord v a).onDevice s v a 64 (fun rc => s.takeRecord v t rc) fun s _ => s)
  else .next s

/-! ### `LAUNCH` (18 R261, R274) -/

/-- The resident image that a launch measures (22 R340). -/
def State.measure (s : State) (v : Nat) (bs : List Byte) : State :=
  s.setVdev v { s.vdev v with measurement := shake256 ((s.vdev v).measurement ++ bs) }

/-- A launch accepted: it is measured, and its tasks wait for their places. -/
def State.acceptLaunch (s : State) (v t n : Nat) (j : Job) (w : BitVec 512) : State :=
  let p := (s.strm v t).part
  let l := s.launchSeq
  let image := s.loadBytes v (lpbResb w) (64 * lpbResl w)
  let s1 := s.measure v (leBytes 64 w.toNat ++ image)
  let x : Launch := { lpb := w, vdev := v, part := p, stream := t, job := n }
  let s2 : State := { s1 with
    launches := s1.launches.put l x, launchSeq := l + 1, fresh := s1.fresh + 64 * lpbResl w }
  (s2.setJob v t n { j with launch := some l }).markHolding p

/-- A parameter block that has been read: the launch fails, or is accepted once its image does not move. -/
def State.startLaunch (s : State) (v t n : Nat) (j : Job) (w : BitVec 512) : State :=
  let s1 := s.lpbReached v w
  match s.launchFails v (s.strm v t).part w with
  | some d => { s1 with fresh := s1.fresh + 1 }.endJob v t n stFailed d 0
  | none => if s.pagesMove v (lpbResb w) (64 * lpbResl w) then s else s1.acceptLaunch v t n j w

def execLaunch (v t n : Nat) (s : State) : Out :=
  s.onJob v t n 0x01 fun j =>
    let a := (rcAddr j.rc 64).toNat
    if j.launch.isSome then s
    else if a % 64 ≠ 0 then s.endJob v t n stFailed 0x02 0
    else (s.readRecord v a).onDevice s v a 64 (fun w => s.startLaunch v t n j w) fun s c => s.endAccess v t n c

def execLaunchCompletion (l : Nat) (s : State) : Out :=
  let s := s.payDones l
  match s.launches.find l with
  | some x =>
    if x.finished then
      let s1 : State := { s with launches := s.launches.drop l }
      let s2 := match x.killed, x.failed with
        | true, _ => s1.endJob x.vdev x.stream x.job stCancelled 0 0
        | false, some d => s1.endJob x.vdev x.stream x.job stFailed d 0
        | false, none => s1.endJob x.vdev x.stream x.job stDone 0 0
      .next (s2.markHolding x.part)
    else .next s
  | none => .next s

/-! ### `COPY`, `FILL`, `WAITV`, `SIGNAL` (18 R274, R276) -/

/-- Whether the byte `i` of a copy is one whose value an overlap of the two ranges leaves undefined (09 R173). -/
def State.copyOverlap (s : State) (v d u n i : Nat) : Bool :=
  let px (a : Nat) : Option Nat := s.xlateWalk v (BitVec.ofNat 48 a) false
  (List.range n).any fun j =>
    ((px (d + i)).isSome && px (u + j) == px (d + i)) || ((px (u + i)).isSome && px (d + j) == px (u + i))

/-- Whether a `COPY` or `FILL` to `d` stands at the boundary of a transfer unit after `p` bytes (09 R171). -/
def atUnit (d p total : Nat) : Bool := decide (total ≤ p) || decide ((d + p) % 256 = 0) || decide (p = 0)

/-- Bytes moved: the command goes on, or completes; killed, it stops at the end of a transfer unit (18 R280). A unit that ends is
a sample (22 R333). -/
def State.moved (s0 : State) (v t n : Nat) (j : Job) (z d total : Nat) : State :=
  let p := j.pos + z
  let s1 := s0.count v 5 z
  let s := if atUnit d p total then s1.sample v 1 else s1
  if total ≤ p then (s.setJob v t n { j with pos := total }).endJob v t n stDone 0 0
  else if j.kill && atUnit d p total then s.endJob v t n stCancelled 0 0
  else s.setJob v t n { j with pos := p }

/-- The bytes of one granule of the destination, which go in one step (12 R226). -/
def granulePiece (d p total : Nat) : Nat := min (total - p) (16 - (d + p) % 16)

/-- A piece of a `COPY` or `FILL` written: a poisoned line takes it where the command writes all of the line (19 R297). -/
def State.piecePut (s : State) (v d p total : Nat) (bs : List Byte) : Got State :=
  let a := d + p
  let b := a / 64 * 64
  if bs.isEmpty then .ok s
  else (s.deviceXlate v (a % 2 ^ 48) true).next fun pa =>
    s.sliceWrite nobody (.ctx 0) v
      { pa := pa, whole := decide (d ≤ b) && decide (b + 64 ≤ d + total),
        last := decide (b + 64 ≤ a + bs.length) || decide (total ≤ p + bs.length), bytes := bs }

/-- A `COPY` or `FILL` of `total` bytes to `d` moves its next piece, once its bytes can be read. -/
def State.pieceStep (s : State) (v t n : Nat) (j : Job) (d total : Nat) (bs : List Byte) : State :=
  (s.piecePut v d j.pos total bs).onDevice s v (d + j.pos) bs.length
    (fun s1 => State.moved { s1 with fresh := s.fresh + 16 } v t n j bs.length d total) fun s c => s.endAccess v t n c

def execCopy (v t n : Nat) (s : State) : Out :=
  s.onJob v t n 0x03 fun j =>
    let d := rcField j.rc 64 48
    let u := rcField j.rc 128 48
    let total := rcField j.rc 176 40
    let z := granulePiece d j.pos total
    (s.deviceRead v (u + j.pos) z false).onDevice s v (u + j.pos) z
      (fun bs => s.pieceStep v t n j d total ((List.range z).map fun i =>
        if s.copyOverlap v d u total (j.pos + i) then Config.freeByte (s.fresh + i) else bs.getD i 0))
      fun s c => s.endAccess v t n c

def execFill (v t n : Nat) (s : State) : Out :=
  s.onJob v t n 0x04 fun j =>
    let d := rcField j.rc 64 48
    let total := rcField j.rc 192 40
    let z := granulePiece d j.pos total
    s.pieceStep v t n j d total ((List.replicate (z / 8) (leBytes 8 (rcField j.rc 128 64))).flatten)

/-- Whether a doubleword satisfies the condition of a `WAITV`. -/
def waitvHolds (rc : BitVec 512) (x : Nat) : Bool :=
  let y := rcField rc 128 64
  match rcField rc 192 2 with
  | 0 => decide (y ≤ x)
  | 1 => decide (x = y)
  | _ => decide (x ≠ y)

/-- `WAITV` reads its doubleword with an acquire at SYS. -/
def State.waitvRead (s : State) (v t n : Nat) (j : Job) : State :=
  let a := rcField j.rc 64 48
  (s.deviceRead v a 8 true).onDevice s v a 8 (fun bs => if waitvHolds j.rc (leNat bs) then s.endJob v t n stDone 0 0 else s)
    fun s c => s.endAccess v t n c

def execWaitv (v t n : Nat) (s : State) : Out := s.onJob v t n 0x05 fun j => s.waitvRead v t n j
def execWaitvReread (v t n : Nat) (s : State) : Out := s.onJob v t n 0x05 fun j => s.waitvRead v t n j

/-- The timeout, in µs of 400 c-cycles (00 R5), counts from the command's start. -/
def execWaitvTimeout (v t n : Nat) (s : State) : Out :=
  s.onJob v t n 0x05 fun j =>
    let us := rcField j.rc 224 32
    if us ≠ 0 ∧ j.since + 400 * us ≤ s.cyc.toNat then s.endJob v t n stFailed 0x05 0 else s

/-- `SIGNAL` releases at SYS what the stream's commands have done (12 R238), and adds atomically where it adds. -/
def execSignal (v t n : Nat) (s : State) : Out :=
  s.onJob v t n 0x06 fun j =>
    let a := rcField j.rc 64 48
    let y := rcField j.rc 128 64
    let old : Got (List Byte) := if rcField j.rc 192 1 = 0 then .ok [] else s.deviceRead v a 8 false
    let put := old.next fun bs => s.deviceWrite v a (leBytes 8 ((leNat bs + y) % 2 ^ 64))
    if s.deviceBehind v then s
    else put.onDevice s v a 8 (fun s1 => s1.endJob v t n stDone 0 0) fun s c => s.endAccess v t n c

/-! ### Graphs (18 R277, R278) -/

/-- A node of a descriptor: its record, its predecessors, and whether it keeps the rules. -/
def State.nodeOk (s : State) (v i : Nat) (rc : BitVec 512) (bs : List Byte) : Option (BitVec 512 × List Nat) :=
  let ps := ((List.range 4).map fun k => leNat ((bs.drop (64 + 2 * k)).take 2)).filter fun p => p != 0xFFFF
  if [1, 3, 4, 5, 6].contains (rcOp rc) && s.recordOk v rc && (ps.all fun p => decide (p < i)) &&
      (bs.drop 72).all fun b => decide (b = 0) then some (rc, ps) else none

/-- The nodes that a descriptor describes, or `none` where a rule is broken. -/
def State.readNodes (s : State) (v : Nat) (bs : List Byte) : Option (List (BitVec 512 × List Nat)) :=
  let w := leNat (bs.take 64)
  let n := w % 2 ^ 11
  if w / 2 ^ 11 ≠ 0 || n = 0 || 1024 < n then none
  else (List.range n).mapM fun i =>
    let b := (bs.drop (64 + 128 * i)).take 128
    s.nodeOk v i (BitVec.ofNat 512 (leNat (b.take 64))) b

/-- An id that no graph of a device has: which one is not promised. -/
def State.newGraphId (s : State) (v : Nat) : Option Nat :=
  let l := (List.range 4096).filter fun g => ((s.vdev v).graphs.find g).isNone
  if l.isEmpty then none else some (l.getD ((Config.freeWord s.fresh).toNat % l.length) 0)

/-- A graph defined, with its id as RESULT. -/
def State.defineGraph (s : State) (v t : Nat) (nodes : List (BitVec 512 × List Nat)) : State :=
  match s.newGraphId v with
  | some g =>
    let d := s.vdev v
    let s1 : State := { s.setVdev v { d with graphs := d.graphs.put g { nodes := nodes } } with fresh := s.fresh + 1 }
    s1.endJob v t 0 stDone 0 g
  | none => s.endJob v t 0 stFailed 0x03 0

/-- A running `GRAPH` command of a SUB. -/
def State.onGraph (s : State) (v t sub : Nat) (f : Job → State) : Out :=
  s.onJob v t 0 0x02 fun j => if rcSub j.rc = sub then f j else s

/-- A descriptor that has been read. -/
def State.describeGraph (s : State) (v t : Nat) (bs : List Byte) : State :=
  match s.readNodes v bs with
  | some l => s.defineGraph v t l
  | none => s.endJob v t 0 stFailed 0x01 0

/-- The descriptor is read as far as its node count goes. -/
def execGraphDefine (v t : Nat) (s : State) : Out :=
  s.onGraph v t 0 fun j =>
    let a := rcField j.rc 128 48
    let size (h : List Byte) : Nat := 64 + 128 * min 1024 (leNat h % 2 ^ 11)
    let n := match s.deviceRead v a 64 false with
      | .ok h => size h
      | _ => 64
    ((s.deviceRead v a 64 false).next fun h => s.deviceRead v a (size h) false).onDevice s v a n
      (fun bs => s.describeGraph v t bs) fun s c => s.endAccess v t 0 c

/-- The nodes of a graph as the jobs of a launch of it. -/
def graphJobs (l : List (BitVec 512 × List Nat)) : Sparse Job :=
  ((List.range l.length).zip l).map fun e => (e.1 + 1, { rc := e.2.1, preds := e.2.2 })

def execGraphLaunch (v t : Nat) (s : State) : Out :=
  s.onGraph v t 1 fun j =>
    if (s.strm v t).graph.isSome then s
    else
      let g := rcField j.rc 80 12
      let d := s.vdev v
      match d.graphs.find g with
      | none => s.endJob v t 0 stFailed 0x08 0
      | some gr =>
        let s1 := s.setVdev v { d with graphs := d.graphs.put g { gr with live := gr.live + 1 } }
        let x := s1.strm v t
        s1.setStream v t { x with graph := some g, jobs := (0, j) :: graphJobs gr.nodes }

/-- A node of a graph replaced. -/
def editNodes (l : List (BitVec 512 × List Nat)) (i : Nat) (rc : BitVec 512) : List (BitVec 512 × List Nat) :=
  match l[i]? with
  | some e => l.set i (rc, e.2)
  | none => l

/-- Whether a record may take the place of a node: the node exists and has its OP. -/
def State.editOk (s : State) (v : Nat) (gr : Graph) (i : Nat) (rc : BitVec 512) : Bool :=
  s.recordOk v rc && ((gr.nodes[i]?).map fun e => rcOp e.1 == rcOp rc) == some true

def execGraphEdit (v t : Nat) (s : State) : Out :=
  s.onGraph v t 2 fun j =>
    let g := rcField j.rc 80 12
    let i := rcField j.rc 176 16
    let d := s.vdev v
    match d.graphs.find g with
    | none => s.endJob v t 0 stFailed 0x08 0
    | some gr =>
      if gr.live ≠ 0 && !rcCopy j.rc then s.endJob v t 0 stBusy 0 0
      else
        let a := rcField j.rc 128 48
        (s.deviceRead v a 64 false).onDevice s v a 64 (fun bs =>
          let rc := BitVec.ofNat 512 (leNat bs)
          if !s.editOk v gr i rc then s.endJob v t 0 stFailed 0x01 0
          else if rcCopy j.rc then s.defineGraph v t (editNodes gr.nodes i rc)
          else
            (s.setVdev v { d with graphs := d.graphs.put g { gr with nodes := editNodes gr.nodes i rc } }).endJob v t 0 stDone 0 0)
          fun s c => s.endAccess v t 0 c

def execGraphDestroy (v t : Nat) (s : State) : Out :=
  s.onGraph v t 3 fun j =>
    let g := rcField j.rc 80 12
    let d := s.vdev v
    match d.graphs.find g with
    | none => s.endJob v t 0 stFailed 0x08 0
    | some gr =>
      if gr.live ≠ 0 then s.endJob v t 0 stBusy 0 0
      else (s.setVdev v { d with graphs := d.graphs.drop g }).endJob v t 0 stDone 0 0

/-- A node whose predecessors have all completed DONE, with their doublewords written, starts. -/
def execGraphNodeStart (v t n : Nat) (s0 : State) : Out :=
  let s := s0.payOwed v t
  let x := s.strm v t
  match x.jobs.find n with
  | some j =>
    let due := j.preds.all fun p => ((x.jobs.find (p + 1)).map Job.state) == some .done
    if n ≠ 0 ∧ j.state = .waiting ∧ due = true ∧ x.owed.isEmpty = true ∧ x.dying = false ∧ s.deviceHeld v = false then
      .next (s.setJob v t n { j with state := .running, since := s.cyc.toNat })
    else .next s
  | none => .next s

/-! ### The destruction of a stream (18 R280) -/

/-- The records of the ring that have not been taken complete CANCELLED, up to one that cannot be read yet; none does where the
ring is overrun. -/
def State.cancelRing (v t : Nat) : Nat → State → State
  | 0, s => s
  | n + 1, s =>
    let x := s.strm v t
    let a := x.recordAt x.head
    let taken (s : State) : State := s.setStream v t { s.strm v t with head := x.head + 1 }
    if x.spoilt || decide (x.head = x.tail) then s
    else
      match s.readRecord v a with
      | .ok rc => State.cancelRing v t n (((taken s).writeCw v t rc stCancelled 0 0).reached v a 64)
      | .bad _ _ => State.cancelRing v t n ((taken s).reached v a 64)
      | .wait _ => s

/-- Whether a destruction has nothing left to cancel in the ring. -/
def Stream.ringDone (x : Stream) : Bool := x.spoilt || decide (x.head = x.tail)

/-- A running command stopped by the destruction of its stream: a copy or fill at the end of its transfer unit. -/
def State.killJob (s : State) (v t n : Nat) (force : Bool) : State :=
  match s.job v t n with
  | some j =>
    let atEnd (d total : Nat) : State :=
      if atUnit d j.pos total then s.endJob v t n stCancelled 0 0 else s.setJob v t n { j with kill := true }
    if j.state = .waiting then s.endJob v t n stCancelled 0 0
    else if j.state ≠ .running || !(force || rcKill j.rc) then s
    else
      match rcOp j.rc with
      | 0x01 =>
        (match j.launch with
        | some l => (s.setJob v t n { j with kill := true }).killLaunch l
        | none => s.endJob v t n stCancelled 0 0)
      | 0x02 =>
        if (s.strm v t).graph.isSome then s.setJob v t n { j with kill := true } else s
      | 0x03 => atEnd (rcField j.rc 64 48) (rcField j.rc 176 40)
      | 0x04 => atEnd (rcField j.rc 64 48) (rcField j.rc 192 40)
      | 0x05 => s.endJob v t n stCancelled 0 0
      | _ => s
  | none => s

/-- A stream destroyed: its untaken records and unstarted nodes are cancelled, its killable commands stop. One that is being
destroyed already has the others stopped too where every command is to stop (22 R336). -/
def State.destroyStream (s : State) (v t : Nat) (force : Bool) : State :=
  let x := s.strm v t
  if !x.live || (x.dying && (x.forced || !force)) then s
  else
    let s1 := State.cancelRing v t 16384 (s.setStream v t { x with dying := true, forced := force })
    ((s1.strm v t).jobs.map Prod.fst).foldl (fun s n => s.killJob v t n force) s1

def execStreamDestroy (v t : Nat) (s : State) : Out := s.ifReached (.next (s.destroyStream v t false))

/-- Nothing of the stream runs any more, and every doubleword is written: it is gone, and its ring pages may be unpinned. -/
def execStreamDestroyComplete (v t : Nat) (s0 : State) : Out :=
  let x0 := s0.strm v t
  if x0.live && x0.dying then
    let s := (State.cancelRing v t 16384 s0).payOwed v t
    let x := s.strm v t
    if x.jobs.isEmpty && x.ringDone && x.owed.isEmpty then .next (s.setStream v t {}) else .next s
  else .next s0

/-- A tier-1 line reaches the fabric-attached memory, encrypted and MACed as a line in HBM4E is (05 R96, 24 R371): what waited
for it may go, a release or a completion doubleword. -/
def execTier1WriteThrough (line : Nat) (s : State) : Out :=
  let hit := s.through.filter fun t => decide (t.line = line)
  let s0 := if hit.isEmpty then s else s.writeBack line
  let s1 := { s0 with through := s0.through.filter fun t => !decide (t.line = line) }
  .next (hit.foldl (fun s t => match t.who with
    | .ctx c => s.sendHeld t.core c
    | .copy _ => s) s1).payAll

end Sys2Proof.Machine
end

