-- ==== Sys2Proof/Machine/Management.lean ====
section
/-! DEFINITION. The management commands: pinning and tiers (19 R293 to R295), pre-emption of a partition (23 R351),
quality of service (22 R332, R333), keys (22 R336), cove windows (22 R337, R338) and migration (22 R345 to R347). -/

namespace Sys2Proof.Machine

/-- A running command of an operation code and SUB. -/
def State.onSub (s : State) (v t op sub : Nat) (f : Job → State) : Out :=
  s.onJob v t 0 op fun j => if rcSub j.rc = sub then f j else s

/-- A command completes DONE, or FAILED; a failure whose DETAIL the manual does not give has a free one. -/
def State.endDone (s : State) (v t : Nat) : State := s.endJob v t 0 stDone 0 0
def State.endFail (s : State) (v t : Nat) (d : Byte) : State := s.endJob v t 0 stFailed d 0
def State.endOpen (s : State) (v t : Nat) : State :=
  { s with fresh := s.fresh + 1 }.endJob v t 0 stFailed (Config.freeByte s.fresh) 0

/-! ### Pages (19 R293) -/

/-- The pages of a range, by address. -/
def rangePages (rc : BitVec 512) : List Addr :=
  (List.range (rcField rc 112 32)).map fun i => rcAddr rc 64 + BitVec.ofNat 48 (32768 * i)

/-- The frame of a page, pinned or not. -/
def State.pageFrame (s : State) (v : Nat) (a : Addr) : Option Nat := (s.mapping v a).map fun e => frameOf (e.paddr a)

/-- The walks of pages, by an endpoint: they are counted, and a malformed entry is told to the host (19 R289, 22 R331). -/
def State.walkPages (s : State) (v : Nat) (l : List Addr) : State := l.foldl (fun s a => s.walked (s.deviceNode v) v a) s

/-- The pin counts of pages raised in turn; none where one cannot be. -/
def State.pinAll (v : Nat) : List Addr → State → Option State
  | [], s => some s
  | a :: l, s =>
    match s.pageFrame v a with
    | none => none
    | some f =>
      let x := s.frame f
      if 65535 ≤ x.pins then none
      else State.pinAll v l (s.setFrame f { x with pins := x.pins + 1, pinned := x.pinned.put v (x.pinned.get 0 v + 1) })

def execPin (v t : Nat) (s : State) : Out :=
  s.onJob v t 0 0x07 fun j =>
    let s0 := s.walkPages v (rangePages j.rc)
    match State.pinAll v (rangePages j.rc) s0 with
    | some s1 => s1.endDone v t
    | none => s0.endFail v t 0x04

/-- Whether a translation covers a frame. -/
def TlbEntry.hasFrame (e : TlbEntry) (f : Nat) : Bool :=
  let p := if e.tier1 then 2 ^ 33 + e.ppn else e.ppn
  decide (p ≤ f) && decide (f < p + pageBytes e.size / 32768)

/-- The translations of a device that cover a frame of a list removed everywhere. -/
def State.dropFrames (s : State) (v : Nat) (fs : List Nat) : State :=
  let keep (e : TlbEntry) : Bool := !(decide (e.vdev = v) && fs.any fun f => e.hasFrame f)
  let core (x : Core) : Core := { x with tlb := x.tlb.filter keep }
  let cluster (x : Cluster) : Cluster := { x with tlb := x.tlb.filter keep }
  { s with
    cores := s.cores.map fun e => (e.1, core e.2)
    clusters := s.clusters.map fun e => (e.1, cluster e.2) }

/-- A frame with `n` pins of a device less: one that is left without any is demoted first (19 R294). -/
def Frame.unpin (x : Frame) (v n : Nat) : Frame :=
  let stays := decide (n < x.pins)
  { x with
    pins := x.pins - n, pinned := Sparse.putD 0 x.pinned v (x.pinned.get 0 v - n)
    promoted := x.promoted && stays, moving := x.moving && stays, automatic := x.automatic && stays }

/-- The pin counts of pages lowered in turn; none where one is already 0. -/
def State.unpinAll (v : Nat) : List Addr → State → Option State
  | [], s => some s
  | a :: l, s =>
    match s.pageFrame v a with
    | none => none
    | some f =>
      let x := s.frame f
      if x.pins = 0 then none
      else
        State.unpinAll v l (s.setFrame f (x.unpin v 1))

/-- The pages of a stream's ring. -/
def Stream.ringPages (x : Stream) : List Nat :=
  let a := (addrOf x.base).toNat
  let n := 64 * 2 ^ x.size.toNat
  (List.range ((a + n - 1) / 32768 + 1 - a / 32768)).map fun i => a / 32768 + i

/-- Whether a page belongs to the ring of a stream of the device that exists (18 R272). -/
def State.ringPage (s : State) (v : Nat) (a : Addr) : Bool :=
  (s.vdev v).streams.any fun t => t.2.live && t.2.ringPages.contains (a.toNat / 32768)

/-- Stores of a device under way, in G or in W space, to a frame of a list. -/
def State.storesTo (s : State) (fs : List Nat) (w : Bool) : Bool :=
  s.cores.any fun x => x.2.ctxs.any fun y => y.2.log.toList.any fun e =>
    e.busy && (e.space == w) && fs.contains (frameOf e.pa)

/-- Whether a reduction packet goes to a frame of a list. -/
def CollItem.touches (fs : List Nat) : CollItem → Bool
  | .add _ _ _ pa _ _ _ _ _ => fs.contains (frameOf pa)
  | .flush _ _ _ pa _ => fs.contains (frameOf pa)

/-- Whether a packet carries an access of G space, or of W space, to a frame of a list. -/
def Payload.touches (fs : List Nat) (w : Bool) : Payload → Bool
  | .lone _ _ _ _ x => (x.space == w) && fs.contains (frameOf x.pa)
  | .ask r => (r.space == w) && fs.contains (frameOf r.pa)
  | .coll i => !w && i.touches fs
  | .copyRead _ _ _ pa _ x => (x == w) && fs.contains (frameOf pa)
  | .copyWrite _ _ _ x => (x.space == w) && fs.contains (frameOf x.pa)
  | .store _ _ _ => false
  | .ack _ _ _ => false
  | .answer _ _ _ _ _ => false
  | .copyData _ _ _ _ => false
  | .done _ _ _ _ => false
  | .latch _ _ _ => false
  | .plain => false

/-- Whether a slice has taken an access of G space, or of W space, to a frame of a list, a store of a log entry apart. -/
def Slice.touches (x : Slice) (fs : List Nat) (w : Bool) : Bool :=
  (!w && x.coll.any fun i => i.touches fs) || x.taken.any fun t =>
    match t.ask, t.lone with
    | some r, _ => (Payload.ask r).touches fs w
    | none, some e => (Payload.lone 0 0 0 e.1 e.2).touches fs w
    | none, none => false

/-- Accesses of G space, or of W space, under way to a frame of a list (22 R337, R338). -/
def State.accessesTo (s : State) (fs : List Nat) (w : Bool) : Bool :=
  s.storesTo fs w || (s.packets.any fun e => e.2.payload.touches fs w) || s.slices.any fun e => e.2.touches fs w

/-- `UNPIN`: the counts, then the translations; complete when no access that used them is under way. -/
def execUnpin (v t : Nat) (s : State) : Out :=
  s.onJob v t 0 0x08 fun j =>
    let ps := rangePages j.rc
    let fs := (ps.filterMap fun a => s.pageFrame v a)
    if j.pos = 1 then
      if s.accessesTo (fs.filter fun f => decide ((s.frame f).pins = 0)) false then s else s.endDone v t
    else if ps.any fun a => s.ringPage v a then s.endFail v t 0x07
    else
      let s0 := s.walkPages v ps
      match State.unpinAll v ps s0 with
      | none => s0.endFail v t 0x04
      | some s1 =>
        (s1.dropFrames v (fs.filter fun f => decide ((s1.frame f).pins = 0))).setJob v t 0 { j with pos := 1 }

/-! ### Tiers (19 R294, R295) -/

/-- The tier-1 frames of a range; none where a page is not pinned and mapped tier 1. -/
def State.tierFrames (s : State) (v : Nat) (rc : BitVec 512) : Option (List Nat) :=
  (rangePages rc).mapM fun a =>
    match s.walk v a with
    | .leaf e => if e.tier1 then some (frameOf (e.paddr a)) else none
    | _ => none

/-- The channel of a tier-1 frame, and whether its promotion pool has a frame left. -/
def frameChannel (f : Nat) : Nat := channelOf (f % 2 ^ 33)
def State.poolRoom (s : State) (f : Nat) : Bool :=
  decide ((s.frames.filter fun e => (e.2.promoted || e.2.moving) && decide (frameChannel e.1 = frameChannel f)).length
    < (bits s.promo 0 14).toNat)

/-- A running `TIER` of a policy. -/
def State.onTier (s : State) (v t policy : Nat) (f : Job → State) : Out :=
  s.onJob v t 0 0x09 fun j => if rcField j.rc 144 2 = policy then f j else s

/-- A page of the range begins its move where it must and may; the Boolean notes a page without room. -/
def State.beginMove (s : State) (up : Bool) (f : Nat) : State × Bool :=
  let x := s.frame f
  let s1 := s.setFrame f { x with automatic := false }
  if x.promoted = up || x.moving then (s1, false)
  else if up && !s.poolRoom f then (s1, true)
  else (s1.setFrame f { x with automatic := false, moving := true }, false)

/-- The moves of a `TIER` command's frames begun and awaited, once those under way have ended; a page without room fails it at its end.
A page that another command has meanwhile unpinned is demoted, and is left so. -/
def State.tierGo (s : State) (v t : Nat) (up : Bool) (j : Job) : State :=
  if j.frames.any fun f => (s.frame f).moving then s.setJob v t 0 j
  else
    let fs := j.frames.filter fun f => decide (0 < (s.frame f).pins)
    let r := fs.foldl (fun r f => ((r.1.beginMove up f).1, r.2 || (r.1.beginMove up f).2)) (s, false)
    let j1 : Job := { j with detail := if r.2 then 0x03 else j.detail }
    if fs.any fun f => (r.1.frame f).moving then r.1.setJob v t 0 j1
    else if j1.detail = 0 then r.1.endDone v t
    else r.1.endFail v t j1.detail

/-- A `TIER` command that promotes or demotes: it finds the frames of its pages once, when it begins. -/
def State.tierMoves (s : State) (v t : Nat) (up : Bool) (j : Job) : State :=
  if j.pos ≠ 0 then s.tierGo v t up j
  else
    let s0 := s.walkPages v (rangePages j.rc)
    match s.tierFrames v j.rc with
    | none => s0.endFail v t 0x04
    | some fs => s0.tierGo v t up { j with pos := 1, frames := fs }

def execTierPromote (v t : Nat) (s : State) : Out := s.onTier v t 0 fun j => s.tierMoves v t true j
def execTierKeep (v t : Nat) (s : State) : Out := s.onTier v t 1 fun j => s.tierMoves v t false j
def execTierAutomatic (v t : Nat) (s : State) : Out :=
  s.onTier v t 2 fun j =>
    let s0 := s.walkPages v (rangePages j.rc)
    match s.tierFrames v j.rc with
    | none => s0.endFail v t 0x04
    | some fs => (fs.foldl (fun s f => s.setFrame f { s.frame f with automatic := true }) s0).endDone v t

/-- A page's move ends; or one of an automatic range begins, where the pool has room. -/
def execPageMove (f : Nat) (s : State) : Out :=
  let x := s.frame f
  if x.moving then .next (s.setFrame f { x with moving := false, promoted := !x.promoted }).payAll
  else if x.automatic && decide (0 < x.pins) && (x.promoted || s.poolRoom f) then .next (s.setFrame f { x with moving := true })
  else .next s

/-! ### `PREEMPT` (23 R351) -/

/-- The save area of a core in a region. -/
def State.regionKey (s : State) (v p base k : Nat) : Nat :=
  areaKey v (BitVec.ofNat 48 (base + 0x20000 * (partIndex k - (s.part p).base)))

/-- The cores of a partition that hold a task which is not saved. -/
def State.liveCores (s : State) (p : Nat) : List Nat :=
  (s.cores.filter fun e => decide (e.2.task.map Task.part = some p) && e.2.savedAt.isNone).map Prod.fst

/-- One core of a `PREEMPT` save taken as far as it goes: stopped by `DOUBLE`, it is aborted as `DREL` allows. -/
def State.preemptCore (s : State) (key k : Nat) : State :=
  let x := s.core k
  if x.stop = .double then if s.debug ≠ .halt || x.doubleReleased then s.abortTask k else s
  else if x.revoking then s
  else
    let s1 := if x.stopReq = some (.save key) then s else if x.stopReq.isNone then s.beginSave k key else s
    if (s1.core k).stopReq = some (.save key) then
      match s1.saveStep k key with
      | .done s2 => s2
      | .bad s2 => s2
      | .waits s2 => s2
    else s1

def execPreemptSave (v t : Nat) (s : State) : Out :=
  s.onSub v t 0x0A 0 fun j =>
    let p := (s.strm v t).part
    let base := rcField j.rc 128 48
    if j.pos = 0 && !((s.part p).cores.all fun k => (s.areaPages (s.regionKey v p base k) true).isSome) then
      ((s.part p).cores.foldl (fun s k => s.walkArea (s.regionKey v p base k)) s).endFail v t 0x04
    else
      let s1 := (s.setPart p { s.part p with held := true }).setJob v t 0 { j with pos := 1 }
      let s2 := (s1.liveCores p).foldl (fun s k => s.preemptCore (s.regionKey v p base k) k) s1
      if (s2.liveCores p).all fun k => decide ((s2.core k).stop = .double) then s2.endDone v t else s2

/-- The core onto which a saved context is loaded: its own, or the free one of its cluster with the lowest CLOC. -/
def State.resumeTarget (s : State) (p k : Nat) : Option Nat :=
  if s.inService k then some k
  else (clusterCores (clusOf k)).find? fun j =>
    s.inService j && (s.part p).holds j && (s.core j).task.isNone && (s.core j).savedAt.isNone && !(s.core j).testing &&
      !(s.core j).quarantined

/-- A saved context of a region loaded; none where it must wait or its area is bad. -/
def State.resumeCore (v p base : Nat) (s : State) (k : Nat) : Option State :=
  let key := s.regionKey v p base k
  match s.saved.find key, s.resumeTarget p k with
  | some e, some j => if !s.areaMoves key false && s.areaGood key e then some ((s.areaUsed j key).loadOnto j key e) else none
  | _, _ => none

/-- The saved cores of a region. -/
def State.savedCores (s : State) (v p base : Nat) : List Nat :=
  (s.cores.filter fun e => decide (e.2.task.map Task.part = some p) && decide (e.2.savedAt = some (s.regionKey v p base e.1))).map Prod.fst

/-- The launch of a saved core, if it is co-resident: it resumes all at once (18 R267). -/
def State.coLaunch (s : State) (k : Nat) : Option Nat :=
  match (s.core k).task with
  | some t => ((s.launches.find t.launch).filter fun x => lpbCor x.lpb).map fun _ => t.launch
  | none => none

/-- One core of a resume: alone, or with its co-resident launch. -/
def State.resumeOne (v p base : Nat) (s : State) (k : Nat) : State :=
  if !(s.savedCores v p base).contains k then s
  else
    match s.coLaunch k with
    | none => (State.resumeCore v p base s k).getD s
    | some l =>
      (((s.savedCores v p base).filter fun j => decide (s.coLaunch j = some l)).foldlM (State.resumeCore v p base) s).getD s

/-- A save area that no longer reads as it was written: the load cannot be made. -/
def State.resumeBad (s : State) (v p base : Nat) : Bool :=
  (s.savedCores v p base).any fun k =>
    let key := s.regionKey v p base k
    match s.saved.find key with
    | some e => !s.areaMoves key false && !s.areaGood key e
    | none => true

def execPreemptResume (v t : Nat) (s : State) : Out :=
  s.onSub v t 0x0A 1 fun j =>
    let p := (s.strm v t).part
    let base := rcField j.rc 128 48
    let s1 := (s.savedCores v p base).foldl (State.resumeOne v p base) s
    if (s1.savedCores v p base).isEmpty then (s1.setPart p { s1.part p with held := false }).endDone v t
    else if s1.resumeBad v p base then s1.endOpen v t
    else s1

/-! ### Quality of service (22 R332, R333) -/

def execQosLevels (v t : Nat) (s : State) : Out :=
  s.onSub v t 0x0B 0 fun j =>
    let d := rcVdev j.rc
    (s.setVdev d { s.vdev d with
      copyLevel := BitVec.ofNat 2 (rcField j.rc 96 2), collLevel := BitVec.ofNat 2 (rcField j.rc 98 2) }).endDone v t

/-- Bounds are kept by measure: p50 at `2 m`, p99 at `2 m + 1`. -/
def execQosBound (v t : Nat) (s : State) : Out :=
  s.onSub v t 0x0B 1 fun j =>
    let d := rcVdev j.rc
    let m := rcField j.rc 96 3
    let b := ((s.vdev d).bounds.put (2 * m) (BitVec.ofNat 16 (rcField j.rc 112 16))).put (2 * m + 1)
      (BitVec.ofNat 16 (rcField j.rc 128 16))
    (s.setVdev d { s.vdev d with bounds := b }).endDone v t

/-- The upper edge of a bin in units of 10 ns, 2^((k+1)/2), rounded down; the last bin has the edge that it would have closed
(22 R333; DESIGN CHOICE, entry 9). -/
def binEdge (k : Nat) : Nat := isqrt (2 ^ (k + 1))

/-- The p50 and p99 estimates of a window: the bins in which they lie, the lower first. -/
def qosEdges (b : Nat × Nat) : Nat × Nat := (binEdge (min (b.1 % 48) (b.2 % 48)), binEdge (max (b.1 % 48) (b.2 % 48)))

/-- A measure of a window: its estimates, where it has samples, and the breach of a bound (22 R333). -/
def State.windowMeasure (s : State) (v m : Nat) : State :=
  let d := s.vdev v
  if !d.samples.getLsbD m then s
  else
    let e := qosEdges (Config.qosBins (s.fresh + m))
    let above (i x : Nat) : Bool := decide (d.bounds.get 0 i ≠ 0) && decide ((d.bounds.get 0 i).toNat < x)
    let es := (d.estimates.put (2 * m) (BitVec.ofNat 64 e.1)).put (2 * m + 1) (BitVec.ofNat 64 e.2)
    let s1 := s.setVdev v { d with estimates := es }
    if above (2 * m) e.1 then
      { s1 with host := s1.host ++ [HostMsg.qosBreach v m 50 (BitVec.ofNat 64 e.1) d.window] }
    else if above (2 * m + 1) e.2 then
      { s1 with host := s1.host ++ [HostMsg.qosBreach v m 99 (BitVec.ofNat 64 e.2) d.window] }
    else s1

def execQosWindowEnd (v : Nat) (s : State) : Out :=
  let s1 := (List.range 4).foldl (fun s m => s.windowMeasure v m) s
  let d := s1.vdev v
  .next { s1.setVdev v { d with window := d.window + 1, samples := 0 } with fresh := s1.fresh + 4 }

/-! ### Keys (22 R336) -/

/-- A device as `KEY` create leaves it (22 R330, R331, R340). -/
def VDev.created (x : VDev) : VDev :=
  { x with
    keys := true, keyGen := x.keyGen + 1, vtime := 0, vcnt := Vector.replicate 8 0, vcntsel := 0
    measurement := List.replicate 64 0 }

/-- Security and debug states in which no tenant is admitted (22 Table 22-8). -/
def State.noTenants (s : State) : Bool :=
  decide (s.security = .rma) || (decide (s.security = .prod) && decide (s.debug = .halt))

def execKeyCreate (v t : Nat) (s : State) : Out :=
  s.onSub v t 0x0C 0 fun j =>
    let d := rcVdev j.rc
    if (s.vdev d).keys || s.noTenants then s.endFail v t 0x03 else (s.setVdev d (s.vdev d).created).endDone v t

/-- A frame's bytes, and what its slice keeps of its lines, cleared. -/
def State.zeroFrame (s0 : State) (f : Nat) : State :=
  let s := s0.freshCounters [f]
  { s with
    mem := s.mem.filter fun e => !decide (frameOf e.1 = f)
    lines := s.lines.filter fun e => !decide (e.1 / 512 = f)
    stored := s.stored.filter fun e => !decide (e.1 / 512 = f)
    frames := s.frames.put f { s.frame f with owner := none, lost := false } }

/-- Every frame that a device owns is zeroed and without owner. -/
def State.zeroOwned (s : State) (v : Nat) : State :=
  ((s.frames.filter fun e => decide (e.2.owner = some v)).map Prod.fst).foldl (fun s f => s.zeroFrame f) s

/-- A device's pin counts cleared, and the translations of the frames that it leaves unpinned (22 R336). -/
def State.clearPins (s : State) (v : Nat) : State :=
  let fs := (s.frames.filter fun e => decide (e.2.pinned.get 0 v ≠ 0)).map Prod.fst
  let s1 := fs.foldl (fun s f => s.setFrame f ((s.frame f).unpin v ((s.frame f).pinned.get 0 v))) s
  s1.dropFrames v (fs.filter fun f => decide ((s1.frame f).pins = 0))

/-- A device's counter trees and roots discarded in a slice, with what waits there of its flushes and of the reductions into
its frames. -/
def Slice.erase (x : Slice) (v : Nat) (fs : List Nat) : Slice :=
  let mine (n : Nat) : Bool := decide (n / (16 * 2 ^ 40) = v)
  { x with
    tree := x.tree.filter fun e => !mine e.1, macs := x.macs.filter fun e => !mine e.1
    badNodes := x.badNodes.filter fun n => !mine n, roots := x.roots.drop v
    coll := x.coll.filter fun i => !i.touches fs, accs := x.accs.filter fun e => !fs.contains (frameOf e.1) }

/-- A device's keys and roots discarded, its frames zeroed and its pins cleared (22 R336). -/
def State.eraseFrames (s : State) (v : Nat) : State :=
  let fs := (s.frames.filter fun e => decide (e.2.owner = some v)).map Prod.fst
  let s1 := (s.clearPins v).zeroOwned v
  { s1 with slices := s1.slices.map fun e => (e.1, e.2.erase v fs) }

/-- Frames returned from a window to its owner's G view, under the owner's key. -/
def State.returnFrames (s : State) (w : Window) : State :=
  s.reseal w.frames fun s => w.frames.foldl (fun s f => s.setFrame f { s.frame f with cove := none, owner := some w.owner }) s

def State.setWindow (s : State) (i : Nat) (w : Window) : State := { s with windows := s.windows.put i w }

/-- Whether a running copy reads or writes a window: a re-key waits for it (09 R175). -/
def State.copiesIn (s : State) (win : Nat) : Bool :=
  s.cores.any fun e =>
    match e.2.cx.queue with
    | q :: _ =>
      let rows (a : Word) (d : Int) : Bool :=
        (List.range (cvRows e.2.cx.cv)).any fun j => decide (windowOf (stepAddr (addrOf a) j d) = win)
      e.2.savedAt.isNone && q.begun && !q.ran && (match q.instr with
        | .cw2l _ _ => rows q.pb (cvSs e.2.cx.cv)
        | .cl2w _ _ => rows q.pa (cvDs e.2.cx.cv)
        | _ => false)
    | [] => false

/-- Whether W accesses to a window are outstanding (22 R338). -/
def State.coveBusy (s : State) (i : Nat) (w : Window) : Bool := s.accessesTo w.frames true || s.copiesIn i

/-- A window under a new key, its counters reset and its lines re-encrypted; the accesses that wait go on (22 R338). -/
def State.newKey (s : State) (i : Nat) (w : Window) : State :=
  s.reseal w.frames fun s => s.setWindow i { w with rekeying := false, keyGen := w.keyGen + 1 }

/-- The windows that a device owns, or whose grants it holds. -/
def Window.of (w : Window) (v : Nat) : Bool := decide (w.owner = v) || (w.holders.find v).isSome

/-- The first steps of the erasure of a device's windows: its grants are revoked, and new accesses wait (22 R336, R338). -/
def State.closeWindows (s : State) (v : Nat) : State :=
  { s with windows := s.windows.map fun e =>
      if e.2.of v then
        (e.1, { e.2 with
          rekeying := true, holders := if (e.2.holders.find v).isSome then e.2.holders.put v .revoked else e.2.holders })
      else e }

/-- A device's windows destroyed, and those re-keyed in which it held a grant, once no access to them is outstanding. -/
def State.dropWindows (s : State) (v : Nat) : State :=
  s.windows.foldl (fun s e =>
    if e.2.owner = v then let s1 := s.returnFrames e.2; { s1 with windows := s1.windows.drop e.1 }
    else if (e.2.holders.find v).isSome then s.newKey e.1 e.2
    else s) s

/-- A device without keys, streams or graphs. -/
def VDev.erased (x : VDev) : VDev := { x with keys := false, streams := [], graphs := [], migrating := none }

/-- Whether every stream of a device has gone, apart from the one that runs the command. -/
def State.streamsGone (s : State) (d v t : Nat) : Bool :=
  (s.vdev d).streams.all fun e => !e.2.live || (decide (d = v) && decide (e.1 = t))

/-- The device's own stream that runs the command stays until the command has completed. -/
def State.eraseDevice (s : State) (d v t : Nat) : State :=
  let s1 := (s.dropWindows d).eraseFrames d
  let own : Sparse Stream := if d = v then [(t, s1.strm v t)] else []
  s1.setVdev d { (s1.vdev d).erased with streams := own }

/-- `KEY` erase: the streams are destroyed first, and the command waits until they have gone; then the windows are closed, and it
waits for the accesses to them. -/
def execKeyErase (v t : Nat) (s : State) : Out :=
  s.onSub v t 0x0C 1 fun j =>
    let d := rcVdev j.rc
    if j.pos = 0 then
      (((s.vdev d).streams.map Prod.fst).foldl (fun s u => s.destroyStream d u true) s).setJob v t 0 { j with pos := 1 }
    else if j.pos = 1 then if s.streamsGone d v t then (s.closeWindows d).setJob v t 0 { j with pos := 2 } else s
    else if s.windows.any fun e => e.2.of d && s.coveBusy e.1 e.2 then s
    else (s.eraseDevice d v t).endDone v t

/-! ### Cove windows (22 R337, R338) -/

def rcWin (rc : BitVec 512) : Nat := rcField rc 96 12

/-- The 16 bytes that a `COVE` command adds to its device's measurement (22 R340). -/
def State.measureCove (s : State) (rc : BitVec 512) : State :=
  s.measure (rcVdev rc) (leBytes 4 (rcWin rc) ++ leBytes 4 (rcSub rc) ++ leBytes 4 (rcVdev rc) ++ leBytes 4 (rcField rc 192 1))

/-- The pages of a window to be, by address. -/
def covePages (rc : BitVec 512) : List Addr := (List.range (rcField rc 160 32)).map fun i => rcAddr rc 112 + BitVec.ofNat 48 (32768 * i)

/-- The pages of a window to be, as frames that its owner has pinned and none other owns; none where one is not. -/
def State.coveFrames (s : State) (rc : BitVec 512) : Option (List Nat) :=
  (covePages rc).mapM fun a =>
    match s.xlateWalk (rcVdev rc) a false with
    | some pa =>
      let o := (s.frame (frameOf pa)).owner
      if o = none ∨ o = some (rcVdev rc) then some (frameOf pa) else none
    | none => none

def execCoveCreate (v t : Nat) (s : State) : Out :=
  s.onSub v t 0x0D 0 fun j =>
    let d := rcVdev j.rc
    let s0 := s.walkPages d (covePages j.rc)
    match s.coveFrames j.rc with
    | none => s0.endFail v t 0x04
    | some fs =>
      if (s.windows.find (rcWin j.rc)).isSome then s0.endFail v t 0x03
      else if s.accessesTo fs false then s
      else
        let w : Window := { owner := d, va := (rcAddr j.rc 112).toNat, frames := fs, holders := [(d, .grantedWrite)] }
        let s1 := s0.reseal fs fun s =>
          fs.foldl (fun s f => s.setFrame f { s.frame f with cove := some (rcWin j.rc), owner := some d }) (s.setWindow (rcWin j.rc) w)
        ((s1.dropFrames d fs).measureCove j.rc).endDone v t

def execCoveGrant (v t : Nat) (s : State) : Out :=
  s.onSub v t 0x0D 1 fun j =>
    match s.windows.find (rcWin j.rc) with
    | none => s.endOpen v t
    | some w =>
      let h : Holder := if rcField j.rc 192 1 = 1 then .grantedWrite else .grantedRead
      ((s.setWindow (rcWin j.rc) { w with holders := w.holders.put (rcVdev j.rc) h }).measureCove j.rc).endDone v t

/-- Steps 2 to 4 of a re-key: new accesses wait, those under way are performed, the key changes (22 R338). -/
def State.rekey (s : State) (v t : Nat) (j : Job) (w : Window) (measured : Bool) : State :=
  if j.pos = 0 then (s.setWindow (rcWin j.rc) { w with rekeying := true }).setJob v t 0 { j with pos := 1 }
  else if s.coveBusy (rcWin j.rc) w then s
  else
    let s1 := s.newKey (rcWin j.rc) w
    (if measured then s1.measureCove j.rc else s1).endDone v t

def execCoveRevoke (v t : Nat) (s : State) : Out :=
  s.onSub v t 0x0D 2 fun j =>
    match s.windows.find (rcWin j.rc) with
    | none => s.endOpen v t
    | some w => s.rekey v t j (if j.pos = 0 then { w with holders := w.holders.put (rcVdev j.rc) .revoked } else w) true

def execCoveRekey (v t : Nat) (s : State) : Out :=
  s.onSub v t 0x0D 3 fun j =>
    match s.windows.find (rcWin j.rc) with
    | none => s.endOpen v t
    | some w => s.rekey v t j w false

/-- `COVE` destroy: once no W access to the window is under way, its frames return to the owner. -/
def execCoveDestroy (v t : Nat) (s : State) : Out :=
  s.onSub v t 0x0D 4 fun j =>
    match s.windows.find (rcWin j.rc) with
    | none => s.endOpen v t
    | some w =>
      if j.pos = 0 then (s.setWindow (rcWin j.rc) { w with rekeying := true }).setJob v t 0 { j with pos := 1 }
      else if s.coveBusy (rcWin j.rc) w then s
      else
        let s1 := s.returnFrames w
        (State.measureCove { s1 with windows := s1.windows.drop (rcWin j.rc) } j.rc).endDone v t

/-! ### Migration (22 R345 to R347) -/

def State.setMigrating (s : State) (d : Nat) (m : Option Migrating) : State :=
  s.setVdev d { s.vdev d with migrating := m }

/-- The dirty log of a device cleared in a slice. -/
def Slice.clearDirty (x : Slice) (d : Nat) : Slice := { x with dirty := x.dirty.drop d, ovf := x.ovf.filter (· != d) }
def State.clearDirty (s : State) (d : Nat) : State := { s with slices := s.slices.map fun e => (e.1, e.2.clearDirty d) }

/-- Whether a device owns a window or holds a grant. -/
def State.inCove (s : State) (d : Nat) : Bool :=
  s.windows.any fun e => decide (e.2.owner = d) ||
    (match e.2.holders.find d with
    | some .grantedRead => true
    | some .grantedWrite => true
    | _ => false)

def execMigrateBegin (v t : Nat) (s : State) : Out :=
  s.onSub v t 0x0E 0 fun j =>
    let d := rcVdev j.rc
    if s.inCove d || decide (8 ≤ (s.vdevs.filter fun e => e.2.migrating.isSome).length) then s.endFail v t 0x03
    else if (s.vdev d).migrating.isSome then s.endOpen v t
    else ((s.clearDirty d).setMigrating d (some { dest := rcField j.rc 160 6 })).endDone v t

/-- The frames that the slices have logged for a device, as PPNs, and whether a log overflowed. -/
def State.dirtyFrames (s : State) (d : Nat) : List Nat := s.slices.flatMap fun e => (e.2.dirty.get [] d).map fun f => f % 2 ^ 33
def State.dirtyOvf (s : State) (d : Nat) : Bool := s.slices.any fun e => e.2.ovf.contains d

/-- The logs snapshot into the log buffer of virtual device 0 and cleared: the count. -/
def State.snapshot (s : State) (d buffer : Nat) : Got (State × Nat) :=
  let l := s.dirtyFrames d
  (s.deviceWrite 0 buffer (l.flatMap fun p => leBytes 8 p)).next fun s1 => .ok (s1.clearDirty d, l.length)

def execMigrateRound (v t : Nat) (s : State) : Out :=
  s.onSub v t 0x0E 1 fun j =>
    let d := rcVdev j.rc
    let a := rcField j.rc 112 48
    if (s.vdev d).migrating.isNone then s.endOpen v t
    else (s.snapshot d a).onDevice s 0 a 8 (fun r => r.1.endJob v t 0 stDone 0 (if s.dirtyOvf d then 0xFFFFFFFF else r.2))
      fun s _ => s.endFail v t 0x04

/-- The cores with a task of a device that is not saved, and not one stopped by `DOUBLE`, which no save waits for (23 R351). -/
def State.deviceCores (s : State) (d : Nat) : List Nat :=
  (s.cores.filter fun e => decide (e.2.task.map Task.vdev = some d) && e.2.savedAt.isNone && decide (e.2.stop ≠ .double)).map Prod.fst

/-- Whether a store of a device is under way that no core waits for (23 R366). -/
def State.loneStores (s : State) (d : Nat) : Bool :=
  (s.packets.any fun e => match e.2.payload with
    | .lone _ _ _ v _ => decide (v = d)
    | _ => false) ||
  s.slices.any fun e => e.2.taken.any fun t => t.lone.any fun x => decide (x.1 = d)

/-- The device's work stops as a save stops it; held where it stands, it keeps everything (22 R346). -/
def State.holdDevice (s : State) (d : Nat) (m : Migrating) : State :=
  if !s.loneStores d && (s.deviceCores d).all fun k => s.saveReady k then
    ((s.deviceCores d).foldl (fun s k => s.atRest k) s).setMigrating d
      (some { m with stopping := false, held := true })
  else s

/-- The final round begins, and goes on: helpers come home, and a core stopped by `DOUBLE` is aborted, under debug state `HALT`
once it is released (23 R349). -/
def State.stopDevice (s : State) (d : Nat) (m : Migrating) : State :=
  let dead := (s.cores.filter fun e => decide (e.2.task.map Task.vdev = some d) && decide (e.2.stop = .double) && !e.2.revoking &&
    (decide (s.debug ≠ .halt) || e.2.doubleReleased)).map Prod.fst
  let s1 := dead.foldl State.abortTask (s.setMigrating d (some { m with stopping := true }))
  (s1.deviceCores d).foldl (fun s k => s.recallAll k) s1

def execMigrateFinal (v t : Nat) (s : State) : Out :=
  s.onSub v t 0x0E 2 fun j =>
    let d := rcVdev j.rc
    match (s.vdev d).migrating with
    | none => s.endOpen v t
    | some m =>
      let a := rcField j.rc 112 48
      if !m.stopping && !m.held then s.stopDevice d m
      else if !m.held then (s.stopDevice d m).holdDevice d { m with stopping := true }
      else
        (s.snapshot d a).onDevice s 0 a 8 (fun r =>
          let o := s.dirtyOvf d
          let s2 := r.1.setMigrating d (some { m with finalDone := !o, ovf := o })
          if o then s2.endFail v t 0x03 else s2.endJob v t 0 stDone 0 r.2)
          fun s _ => s.endFail v t 0x04

/-- A core whose task has moved to another module. -/
def State.evictCore (s : State) (k : Nat) : State :=
  let s1 := match s.partOf k with
    | some p => s.leaveAll p k
    | none => s
  let s2 := (s1.releaseSlots k).dropSaved k
  s2.setCore k (s2.core k).cleared

/-- A device's work gone from this module: tasks, saved contexts, spawned tasks and launches. -/
def State.evict (s : State) (d : Nat) : State :=
  let ks := (s.cores.filter fun e => decide (e.2.task.map Task.vdev = some d)).map Prod.fst
  let s1 := ks.foldl (fun s k => s.evictCore k) s
  let part (x : Part) : Part := { x with spawned := x.spawned.filter fun t => decide (t.vdev ≠ d) }
  let cluster (x : Cluster) : Cluster :=
    { x with resident := x.resident.filter fun r => decide ((s.launches.find r.launch).map Launch.vdev ≠ some d) }
  let item (i : CollItem) : Bool := match i with
    | .add k _ _ _ _ _ _ _ _ => ks.contains k
    | .flush k _ v _ _ => decide (v = d) || ks.contains k
  let slice (x : Slice) : Slice := { x with coll := x.coll.filter fun i => !item i }
  { s1 with
    slices := s1.slices.map fun e => (e.1, slice e.2)
    launches := s1.launches.filter fun e => decide (e.2.vdev ≠ d)
    parts := s1.parts.map fun e => (e.1, part e.2)
    clusters := s1.clusters.map fun e => (e.1, cluster e.2) }

/-- Whether the host may commit: after a final that completed DONE, or after the resends that an overflow calls for, which
the module is told of by means that the manual does not give. -/
def State.mayCommit (s : State) (m : Migrating) : Bool := m.held && (m.finalDone || (m.ovf && (Config.freeByte s.fresh).getLsbD 0))

/-- Commit, and then what `KEY` erase does: the device's windows are closed, and the command waits for the accesses to them (22 R336,
R347). -/
def execMigrateCommit (v t : Nat) (s : State) : Out :=
  s.onSub v t 0x0E 3 fun j =>
    let d := rcVdev j.rc
    match (s.vdev d).migrating with
    | none => s.endFail v t 0x01
    | some m =>
      if j.pos = 0 then
        if s.mayCommit m then (s.closeWindows d).setJob v t 0 { j with pos := 1 }
        else State.endFail { s with fresh := s.fresh + 1 } v t 0x01
      else if s.windows.any fun e => e.2.of d && s.coveBusy e.1 e.2 then s
      else (((s.evict d).clearDirty d).eraseDevice d v t).endDone v t

def execMigrateAbort (v t : Nat) (s : State) : Out :=
  s.onSub v t 0x0E 4 fun j =>
    let d := rcVdev j.rc
    ((s.clearDirty d).setMigrating d none).endDone v t

end Sys2Proof.Machine
end

