-- ==== Sys2Proof/Machine/Admin.lean ====
section
/-! DEFINITION. What the host does: stream registers (18 Table 18-6, R387), the admin space (24 Table 24-4), attestation
(22 R341), accesses to G space (24 R385), the link (24 R367 to R369), and power (22 R344, 24 R377). -/

namespace Sys2Proof.Machine

/-! ### Stream registers -/

/-- `SQTAIL` written: an overrun is found at once (18 R272). -/
def execSqtailWrite (v t : Nat) (value : Word) (s : State) : Out :=
  let x : Stream := { s.strm v t with tail := bits value 0 32 }
  s.ifReached (.next (s.setStream v t (if x.live then x.noteOverrun else x)))

/-- ERR written with 1 (18 R275). -/
def execSqstatErrClear (v t : Nat) (s : State) : Out :=
  s.ifReached (.next (s.setStream v t { s.strm v t with err := false, overran := false }))

/-- Streams assigned to a command processor. -/
def State.processorLoad (s : State) (i : Nat) : Nat :=
  (s.vdevs.map fun d => (d.2.streams.filter fun t => t.2.live && decide (t.2.proc = i)).length).sum

/-- The processor of a new stream: the edge nearer to its partition's first core, the fewest streams, the lowest number
(18 R387). -/
def State.assignProcessor (s : State) (p : Nat) : Nat :=
  let c := colOf (siteOfIndex (s.part p).base) / 2
  let edge := if c ≤ 511 - c then 0 else 32
  (List.range 32).foldl (fun b i => if s.processorLoad (edge + i) < s.processorLoad b then edge + i else b) edge

/-- `SQCTL` create: ignored for a slot without a valid partition of the device, and for a stream that exists. The slot that was
written reads back (24 Table 24-4); a ring that is overrun then is found so (18 R272). -/
def execStreamCreate (v t slot : Nat) (s : State) : Out :=
  let x : Stream := { s.strm v t with slot := BitVec.ofNat 10 slot }
  s.ifReached <|
  if 512 ≤ v ∨ 64 ≤ t then .next s
  else if slot < 1024 ∧ (s.part slot).valid = true ∧ (s.part slot).vdev = v ∧ x.live = false then
    .next (s.setStream v t { x.noteOverrun with live := true, part := slot, proc := s.assignProcessor slot })
  else .next (s.setStream v t x)

/-! ### The admin space (24 Table 24-4) -/

/-- Whether a debug state is admitted in the module's security state (22 Table 22-8). -/
def State.debugAdmitted (s : State) (d : Debug) : Bool :=
  match s.security, d with
  | .prod, .halt => Config.authorised s.fresh && s.vdevs.all fun e => decide (e.1 = 0) || !e.2.keys
  | .prodLocked, .none => true
  | .prodLocked, _ => false
  | _, _ => true

/-- `DBGREQ`: the code of no debug state is refused like one that is not admitted (22 R342). -/
def execDebugStateRequest (d : BitVec 2) (s : State) : Out :=
  let want : Option Debug := match d.toNat with
    | 0 => some .none
    | 1 => some .trace
    | 2 => some .halt
    | _ => none
  s.ifReached <| match want with
  | some x => .next (if s.debugAdmitted x then { s with debug := x, fresh := s.fresh + 1 } else { s with fresh := s.fresh + 1 })
  | none => .next s

/-- Whether a core is held stopped by `DOUBLE` under debug state `HALT` (23 R349, 24 Table 24-4 `DREL`). -/
def State.doubleHeld (s : State) (cl cloc : Nat) : Bool :=
  decide (cl < clusterCount) && decide (cloc < 64) && decide ((s.core (coreAt cl cloc)).stop = .double) && decide (s.debug = .halt)

/-- `DREL` with bit 63 set: a core held stopped by `DOUBLE` under debug state `HALT` is released (23 R349). -/
def execDoubleRelease (cl cloc : Nat) (s : State) : Out :=
  let k := coreAt cl cloc
  let x := s.core k
  s.ifReached <|
  if s.doubleHeld cl cloc = true ∧ x.doubleReleased = false then
    .next { s.setCore k { x with doubleReleased := true } with drel := BitVec.ofNat 64 (cl + cloc * 2 ^ 14 + 2 ^ 63) }
  else .next s

/-- A partition slot written (22 R328): created, resized or destroyed where the rule allows it. -/
def execPartitionWrite (slot : Nat) (value : Word) (s : State) : Out :=
  let base := (bits value 0 20).toNat
  let len := (bits value 20 20).toNat
  let v := (bits value 40 9).toNat
  let x := s.part slot
  s.ifReached <|
  if 1024 ≤ slot then .next s
  else if x.valid then
    if !getBit value 63 then .next (if s.partIdle slot then s.setPart slot { x with valid := false, groups := [] } else s)
    else if x.vdev = v then .next (s.resize slot base len)
    else .next s
  else if getBit value 63 && s.intervalFree slot base len then
    .next (s.setPart slot { valid := true, base := base, len := len, vdev := v })
  else .next s

/-- `PROMO`: refused while any frame is promoted, or moves (19 R294). -/
def execPromoWrite (value : Word) (s : State) : Out :=
  let p := (bits value 0 14).toNat
  s.ifReached <|
  if p ≤ 8192 ∧ (s.frames.any fun e => e.2.promoted || e.2.moving) = false then .next { s with promo := BitVec.ofNat 64 p }
  else .next s

/-- `TRBASE`: the record count and DROP start again (22 R343). The low 12 bits read as 0. -/
def execTrbaseWrite (v : Nat) (value : Word) (s : State) : Out :=
  s.ifReached <|
  if v < 512 then
    .next (s.setVdev v { s.vdev v with trbase := value &&& 0xFFFFFFFFF000, trcnt := 0, trdrop := 0 })
  else .next s

/-- The registers of one virtual device's window that have no behaviour of their own. -/
def VDev.adminWrite (x : VDev) (off : Nat) (value : Word) : VDev :=
  if off = 0 then { x with ptroot := value &&& 0xFFFFFFFFFFFF }
  else if off = 8 then { x with vcntsel := bits value 0 32 }
  else if off = 0x58 then
    let z := bits value 0 4
    if 6 ≤ z.toNat ∧ z.toNat ≤ 14 then { x with trsize := z } else x
  else if 0x100 ≤ off ∧ off < 0x300 then { x with rgrant := x.rgrant.put ((off - 0x100) / 8) (value &&& 0x3FFFF) }
  else if 0x1000 ≤ off ∧ off < 0x2000 then
    let t := (off - 0x1000) / 0x40
    let st := x.streams.get {} t
    match off % 0x40 with
    | 0 => { x with streams := x.streams.put t { st with base := value &&& 0xFFFFFFFFFFFF } }
    | 8 =>
      let z := bits value 0 4
      if 6 ≤ z.toNat ∧ z.toNat ≤ 14 then
        let st1 : Stream := { st with size := z }
        { x with streams := x.streams.put t (if st1.live then st1.noteOverrun else st1) }
      else x
    | 0x28 => { x with streams := x.streams.put t { st with slot := bits value 0 10 } }
    | _ => x
  else x

/-- Bytes of a list replaced from a place on. -/
def putBytes (l : List Byte) (o : Nat) (bs : List Byte) : List Byte := l.take o ++ bs ++ l.drop (o + bs.length)

/-- A register without behaviour of its own; an offset that is read-only, not listed or not a doubleword's is ignored
(24 R373). In recovery only `INTADDR` is taken, and a boot failure not yet told is then told to the host (24 R375). -/
def State.adminWrite (s : State) (off : Nat) (value : Word) : State :=
  if off % 8 ≠ 0 then s
  else if off = 0x40 then
    State.tellBootFailure { s with intaddr := value &&& 0xFFFFFFFFFFFF, intWritten := true }
  else if s.recovery then s
  else if off = 0x18 then { s with ctile := value &&& 0x3FFF }
  else if off = 0x38 then if (bits value 0 15).toNat ≤ 12000 then { s with pwrcap := value &&& 0x7FFF } else s
  else if off = 0x48 then { s with lnkctl := value &&& 0x1F }
  else if off = 0x50 then
    if s.doubleHeld (bits value 0 14).toNat (bits value 14 6).toNat then { s with drel := value &&& 0xFFFFF } else s
  else if 0x30008 ≤ off ∧ off < 0x30028 then { s with nonce := putBytes s.nonce (off - 0x30008) (leBytes 8 value.toNat) }
  else if 0x1000000 ≤ off ∧ off < 0x3000000 then
    let v := (off - 0x1000000) / 0x10000
    s.setVdev v ((s.vdev v).adminWrite ((off - 0x1000000) % 0x10000) value)
  else s

def execAdminRegisterWrite (off : Nat) (value : Word) (s : State) : Out := s.ifReached (.next (s.adminWrite off value))

/-- The fuses along which the security state changes: one way, and to `RMA` once no device has keys (22 R342). The change takes
effect at the next boot. -/
def State.blowFuse (s : State) (x : Config.Security) : State :=
  let ok := match s.fused, x with
    | .lab, .prod => true
    | .prod, .prodLocked => true
    | .prod, .rma => s.vdevs.all fun e => !e.2.keys
    | .prodLocked, .rma => s.vdevs.all fun e => !e.2.keys
    | _, _ => false
  if ok then { s with fuse := some x } else s

/-! ### Attestation (22 R341, Table 22-7) -/

def securityCode : Config.Security → Nat
  | .lab => 0
  | .prod => 1
  | .prodLocked => 2
  | .rma => 3

def debugCode : Debug → Nat
  | .none => 0
  | .trace => 1
  | .halt => 2

/-- Bytes 0 to 183 of a report. -/
def State.reportBody (s : State) (v : Nat) : List Byte :=
  leBytes 8 s.capid.toNat ++ leBytes 1 (securityCode s.security) ++ leBytes 1 (debugCode s.debug) ++ leBytes 2 v ++ leBytes 4 0 ++
    s.fw ++ (s.vdev v).measurement ++ s.nonce ++ leBytes 8 (s.vdev v).vtime.toNat

/-- A report: its bytes 0 to 185, SLEN among them, and their signature, padded with zeros. -/
def State.report (s : State) (v : Nat) : List Byte :=
  let n := min 1462 (Config.falconLength (s.reportBody v))
  let body := s.reportBody v ++ leBytes 2 n
  (body ++ (Config.falconSign body).take n ++ List.replicate 1648 0).take 1648

/-- `ATTREQ`: bit 63 starts the request, which `RMA` refuses. -/
def execAttestationRequest (value : Word) (s : State) : Out :=
  let v := (bits value 0 9).toNat
  let s1 : State := { s with attreq := BitVec.ofNat 64 v }
  s.ifReached <|
  if !getBit value 63 then .next s1
  else if s.security = .rma then .next s1
  else .next { s1 with attrep := s.report v, attReady := true }

/-! ### The admin space as it is read (24 Table 24-4) -/

def Power.code : Power → Nat
  | .run => 0
  | .nap => 1
  | .drowse => 2
  | .dark => 3

/-- A partition slot as it reads. -/
def Part.image (x : Part) : Word := BitVec.ofNat 64 (x.base + x.len * 2 ^ 20 + x.vdev * 2 ^ 40 + if x.valid then 2 ^ 63 else 0)

/-- `LNKCTL`: the widths of the port last named, and whether its retrain is still to complete. -/
def State.linkControl (s : State) : Word :=
  let x := s.ports.get {} (bits s.lnkctl 0 5).toNat
  let again := (x.out.retraining && x.out.requested) || (x.inn.retraining && x.inn.requested)
  BitVec.ofNat 64 ((bits s.lnkctl 0 5).toNat + x.out.width * 2 ^ 5 + x.inn.width * 2 ^ 10 + if again then 2 ^ 63 else 0)

/-- `DREL`: bit 63 reads 1 from the release of the core that is named until its abort has begun. -/
def State.doubleRelease (s : State) : Word :=
  let x := s.core (coreAt (bits s.drel 0 14).toNat (bits s.drel 14 6).toNat)
  putBit s.drel 63 (decide (x.stop = .double) && x.doubleReleased && !x.revoking)

/-- Eight bytes of a list. -/
def eightOf (l : List Byte) (o : Nat) : Word := BitVec.ofNat 64 (leNat ((l.drop o).take 8))

/-- The registers of a stream, by their offset in its window (18 Table 18-6, 24 Table 24-4). -/
def Stream.adminGet (x : Stream) (off : Nat) : Word :=
  let bit (b : Bool) (i : Nat) : Nat := if b then 2 ^ i else 0
  match off with
  | 0 => x.base
  | 8 => x.size.setWidth 64
  | 0x10 => x.head.setWidth 64
  | 0x18 => x.tail.setWidth 64
  | 0x20 => BitVec.ofNat 64 (bit (!x.jobs.isEmpty) 0 + bit x.err 1 + x.detail.toNat * 2 ^ 8)
  | 0x28 => BitVec.ofNat 64 (x.slot.toNat + x.proc * 2 ^ 16 + bit x.live 61 + bit x.dying 63)
  | _ => 0

/-- The registers of a virtual device, by their offset in its window. -/
def VDev.adminGet (x : VDev) (off : Nat) : Word :=
  if off = 0 then x.ptroot
  else if off = 8 then x.vcntsel.setWidth 64
  else if 0x10 ≤ off ∧ off < 0x50 then x.estimates.get 0 ((off - 0x10) / 8)
  else if off = 0x50 then x.trbase
  else if off = 0x58 then BitVec.ofNat 64 (x.trsize.toNat + x.trdrop.toNat * 2 ^ 32)
  else if off = 0x60 then x.trcnt
  else if 0x100 ≤ off ∧ off < 0x300 then x.rgrant.get 0 ((off - 0x100) / 8)
  else if 0x1000 ≤ off ∧ off < 0x2000 then (x.streams.get {} ((off - 0x1000) / 0x40)).adminGet ((off - 0x1000) % 0x40)
  else 0

/-- A doubleword of the admin space; what the table does not list reads as 0 (24 R373). -/
def State.adminGet (s : State) (off : Nat) : Word :=
  if off % 8 ≠ 0 then 0
  else if off = 0 then s.capid
  else if off = 8 then BitVec.ofNat 64 (s.bootPhase + (if s.recovery then 16 else 0) + s.failStep.toNat * 2 ^ 8)
  else if off = 0x10 then BitVec.ofNat 64 (debugCode s.debug)
  else if off = 0x18 then s.ctile
  else if off = 0x20 then BitVec.ofNat 64 s.esct
  else if off = 0x28 then BitVec.ofNat 64 s.t1frames
  else if off = 0x30 then s.promo
  else if off = 0x38 then s.pwrcap
  else if off = 0x40 then s.intaddr
  else if off = 0x48 then s.linkControl
  else if off = 0x50 then s.doubleRelease
  else if 0x1000 ≤ off ∧ off < 0x1000 + 8 * clusterCount then BitVec.ofNat 64 (s.cluster ((off - 0x1000) / 8)).power.code
  else if 0x20000 ≤ off ∧ off < 0x22000 then (s.part ((off - 0x20000) / 8)).image
  else if off = 0x30000 then putBit s.attreq 62 s.attReady
  else if 0x30008 ≤ off ∧ off < 0x30028 then eightOf s.nonce (off - 0x30008)
  else if 0x31000 ≤ off ∧ off < 0x31000 + 1648 then eightOf s.attrep (off - 0x31000)
  else if 0x1000000 ≤ off ∧ off < 0x3000000 then
    (s.vdev ((off - 0x1000000) / 0x10000)).adminGet ((off - 0x1000000) % 0x10000)
  else 0

/-! ### Host accesses to G space (24 R385) -/

/-- The one response of an access. It bears the tag of the host's request, which is the host's own and is free here (entry 63). -/
def State.respond (s : State) (m : W32 → HostMsg) : State :=
  { s with host := s.host ++ [m ((Config.freeWord s.fresh).setWidth 32)], fresh := s.fresh + 1 }

/-- A read of the admin space, answered (24 R373). -/
def State.adminRead (s : State) (off : Nat) : State :=
  if s.hostReach then s.respond fun tag => .admin tag (s.adminGet off) else s

/-- The port through which an access of the host comes. -/
def State.hostNode (s : State) : Node := .port ((s.portOpen hostPeer).getD 0)

/-- A read of up to 256 bytes; it waits while its page moves, and for a tier-1 line that is not yet written through (12 R238). -/
def execHostGRead (v : Nat) (addr : Addr) (len : Nat) (s : State) : Out :=
  if 256 < len || !s.hostOpen then .next s
  else
    .next ((s.deviceRead v addr.toNat len true).onNode s s.hostNode v addr.toNat len
      (fun bs => s.respond fun tag => .response v tag bs) fun s c => s.respond fun tag => .failure v tag c)

/-- A write of up to 256 bytes: all of it, or nothing. -/
def execHostGWrite (v : Nat) (addr : Addr) (data : List Byte) (s : State) : Out :=
  if 256 < data.length || !s.hostOpen then .next s
  else
    .next ((s.deviceWrite v addr.toNat data).onNode s s.hostNode v addr.toNat data.length
      (fun s1 => s1.respond fun tag => .response v tag []) fun s c => s.respond fun tag => .failure v tag c)

/-! ### The link: its flits (24 R367, Table 24-1) -/

/-- The number of a mesh class in a link packet. -/
def PClass.code : PClass → Nat
  | .req => 0
  | .rsp => 1
  | .copy => 2
  | .coll => 3
  | .ctrl => 4

/-- Data flits of a packet: 16 bytes each, at most 16. -/
def LinkBody.dataFlits (b : LinkBody) : Nat := (b.data.length + 15) / 16

/-- The header flit. -/
def LinkBody.header (b : LinkBody) (seq : BitVec 12) : Nat :=
  let bit (x : Bool) (i : Nat) : Nat := if x then 2 ^ i else 0
  seq.toNat + b.kind.toNat * 2 ^ 12 + b.dataFlits * 2 ^ 16 + b.smod.toNat * 2 ^ 21 + b.dmod.toNat * 2 ^ 27 + b.vdev.toNat * 2 ^ 33 +
    b.cls.code * 2 ^ 42 + bit b.shost 45 + bit b.dhost 46 + bit b.err 47 + b.addr.toNat * 2 ^ 48 + b.tag.toNat * 2 ^ 96

/-- The flits before the tail, as bytes; the last data flit is filled up with zeros. -/
def LinkBody.flits (b : LinkBody) (seq : BitVec 12) : List Byte :=
  leBytes 16 (b.header seq) ++ b.data ++ List.replicate (16 * b.dataFlits - b.data.length) 0

/-- A packet's data as it travels: encrypted under the port's key between modules, in plaintext between the module and the host
(24 R371). What is encrypted so is decrypted so. -/
def LinkBody.encrypted (b : LinkBody) (key : Option (BitVec 256)) (seq : BitVec 12) : LinkBody :=
  match b.shost || b.dhost, key with
  | false, some y => { b with data := b.data.zipIdx.map fun e => e.1 ^^^ Config.linkPad y seq e.2 }
  | _, _ => b

/-- The authentication tag of a packet between modules, over the flits that travel (24 R371). -/
def LinkBody.tagOf (b : LinkBody) (key : Option (BitVec 256)) (seq : BitVec 12) : BitVec 128 :=
  match b.shost || b.dhost, key with
  | false, some y => Config.linkTag y (b.flits seq)
  | _, _ => 0

/-- One bit of a reflected CRC-32C (PRESUMED: the Castagnoli polynomial with initial and final value of all ones, entry 63). -/
def crcStep : Nat → W32 → W32
  | 0, c => c
  | n + 1, c => crcStep n (if getBit c 0 then (c >>> 1) ^^^ 0x82F63B78 else c >>> 1)
def crc32c (bs : List Byte) : W32 := ~~~(bs.foldl (fun c b => crcStep 8 (c ^^^ b.setWidth 32)) 0xFFFFFFFF)

/-- The tail flit: the CRC, and the acknowledgement of what the reverse direction has received. -/
def linkTail (crc : W32) (ack : BitVec 12) (valid nak : Bool) : Nat :=
  crc.toNat + ack.toNat * 2 ^ 32 + (if valid then 2 ^ 44 else 0) + (if nak then 2 ^ 45 else 0)

/-- The tail that a packet bears against a direction: SEQ of the last packet which that has accepted, and its wish for a replay. -/
def LinkDir.tail (back : LinkDir) (crc : W32) : Nat := linkTail crc (back.expected - 1) true back.nak

/-- A packet on the wire, as it travels. -/
def LinkBody.wire (b : LinkBody) (seq : BitVec 12) (back : LinkDir) : List Byte :=
  b.flits seq ++ leBytes 16 (back.tail (crc32c (b.flits seq)))

/-- The tail of what arrives, and whether the CRC in it is that of the flits before. -/
def wireTail (bs : List Byte) : Nat := leNat (bs.drop (bs.length - 16))
def wireGood (bs : List Byte) : Bool :=
  decide (crc32c (bs.take (bs.length - 16)) = BitVec.ofNat 32 (wireTail bs))

/-! ### The link: its ports (24 R368, R369) -/

def State.port (s : State) (p : Nat) : Port := s.ports.get {} p
def Port.dir (x : Port) (out : Bool) : LinkDir := if out then x.out else x.inn
def Port.setDir (x : Port) (out : Bool) (d : LinkDir) : Port := if out then { x with out := d } else { x with inn := d }
def State.dir (s : State) (p : Nat) (out : Bool) : LinkDir := (s.port p).dir out
def State.setDir (s : State) (p : Nat) (out : Bool) (d : LinkDir) : State :=
  { s with ports := s.ports.put p ((s.port p).setDir out d) }

/-- Whether a direction carries packets. -/
def LinkDir.up (d : LinkDir) : Bool := !d.retraining && decide (0 < d.width)

/-- What the module tells the host, as a link packet: an interrupt to `INTADDR`, or a response (24 R367, R373, R385). -/
def HostMsg.body (m : HostMsg) (intaddr : Word) : LinkBody :=
  let x : LinkBody := { smod := Config.moduleNumber, dhost := true, cls := .ctrl, kind := 4 }
  match m with
  | .response v tag bs => { x with kind := 3, cls := .rsp, vdev := BitVec.ofNat 9 v, tag := tag, data := bs }
  | .failure v tag c => { x with kind := 3, cls := .rsp, vdev := BitVec.ofNat 9 v, tag := tag, err := true, addr := c.setWidth 48 }
  | .admin tag w => { x with kind := 3, tag := tag, data := leBytes 8 w.toNat }
  | _ => { x with addr := addrOf intaddr }

/-- The next new packet of a direction and what remains to be sent: what waits at the sender, else what the module has to tell
the host, else, inbound, a packet of the peer's own. -/
def State.linkNext (s : State) (p : Nat) (out : Bool) : Option (LinkPacket × State) :=
  let d := s.dir p out
  match d.waiting with
  | x :: t => some (x, s.setDir p out { d with waiting := t })
  | [] =>
    if !out then some ({ seq := 0 }, s)
    else if (s.port p).peer = some hostPeer then
      (s.host[s.hostSent]?).map fun m => ({ seq := 0, body := some (m.body s.intaddr) }, { s with hostSent := s.hostSent + 1 })
    else none

/-- A packet with a sequence number on the wire: while the sender replays, the next of the replay, in order; else its next new
packet, which it keeps. At most 2,048 are unacknowledged. -/
def State.linkOnWire (s : State) (p : Nat) (out : Bool) (seq : BitVec 12) : Option (LinkPacket × State) :=
  let d := s.dir p out
  match d.again with
  | some a =>
    if a = seq then
      (d.replay.find? fun x => decide (x.seq = seq)).map fun x =>
        (x, s.setDir p out { d with again := if seq + 1 = d.next then none else some (seq + 1) })
    else none
  | none =>
    if seq = d.next ∧ d.replay.length < 2048 then
      (s.linkNext p out).map fun r =>
        let x : LinkPacket := { r.1 with seq := seq, sentAt := s.cyc.toNat }
        let e := r.2.dir p out
        (x, r.2.setDir p out { e with next := e.next + 1, replay := e.replay ++ [x] })
    else none

/-- A free list of bytes. -/
def State.freeBytes (s : State) (n : Nat) : List Byte := (List.range n).map fun i => Config.freeByte (s.fresh + i)

/-- A port and direction through which a module answers. -/
def State.linkBack (s : State) (p : Nat) (x : LinkPacket) : State :=
  s.setDir p false { s.dir p false with waiting := (s.dir p false).waiting ++ [x] }

/-- How an access of a device of another module ends: well where it is granted there and its page is good, else with a status of
that module's choice (09 R175, 24 R370, R372; entry 11). -/
def State.remoteEnd (s : State) (b : LinkBody) : BitVec 4 :=
  let f := Config.remoteStatus s.fresh
  if Config.remoteGood b.dmod.toNat b.vdev.toNat b.addr then 0 else if f = 0 then 7 else f

/-- The other module's answer to a packet of a copy: a response in class `COPY`, from it to this module, with bytes of its own
where they were asked for, and with the status of a failure in ADDR (21 R309, 24 Table 24-1). -/
def State.remoteAnswer (s : State) (b : LinkBody) (n : Nat) : LinkBody :=
  let st := s.remoteEnd b
  { b with
    kind := 3, cls := .copy, smod := b.dmod, dmod := b.smod, err := decide (st ≠ 0), addr := st.setWidth 48
    data := if st = 0 ∧ b.data.isEmpty = true then s.freeBytes n else [] }

/-- What a packet that its receiver accepts brings: the other module answers a packet of a copy; its answer reaches the copy
engine over the mesh (09 R175, 21 R310). -/
def State.linkAccepted (s : State) (p : Nat) (out : Bool) (x : LinkPacket) : State :=
  match x.copy, x.body with
  | some (k, id, n), some b =>
    if out then State.linkBack { s with fresh := s.fresh + 256 } p { x with body := some (s.remoteAnswer b n) }
    else (s.pass (.port p) (copyNode k) .copy).copyAnswer k id n (if b.err then BitVec.setWidth 4 b.addr else 0) b.data
  | _, _ => s

/-- The packets up to a number freed from the replay buffer, for acknowledgements are cumulative. A replay under way goes on with
the first packet that is left of it. -/
def LinkDir.acknowledged (d : LinkDir) (ack : BitVec 12) : LinkDir :=
  let l := d.replay.filter fun p => decide ((d.next - p.seq).toNat ≤ (d.next - (ack + 1)).toNat)
  { d with
    replay := l
    again := d.again.bind fun a => if l.any fun p => decide (p.seq = a) then some a else (l.head?).map LinkPacket.seq }

/-- What is left of the replay buffer is sent again, in order from the first packet not yet acknowledged. -/
def LinkDir.resend (d : LinkDir) (cyc : Nat) : LinkDir :=
  { d with replay := d.replay.map (fun p => { p with sentAt := cyc }), again := (d.replay.head?).map LinkPacket.seq }

/-- What a direction's sender does with an acknowledgement: it frees what is acknowledged, and replays the rest where that is
asked for. -/
def LinkDir.acked (d : LinkDir) (ack : BitVec 12) (nak : Bool) (cyc : Nat) : LinkDir :=
  let d1 := { d.acknowledged ack with unacked := 0, lastAck := cyc, nak := false }
  if nak then d1.resend cyc else d1

/-- What a direction's sender does with the tail of a packet of the reverse direction. -/
def LinkDir.hears (d : LinkDir) (tail : Nat) (cyc : Nat) : LinkDir :=
  if tail.testBit 44 then d.acked (BitVec.ofNat 12 (tail / 2 ^ 32)) (tail.testBit 45) cyc else d

/-- The receiver takes the packet it expects and discards any other, asking for a replay. It acknowledges at least every 16 packets
or every 64 c-cycles. -/
def LinkDir.receives (d : LinkDir) (seq : BitVec 12) (good : Bool) (cyc : Nat) : LinkDir :=
  if good ∧ seq = d.expected then
    let d1 := { d with expected := d.expected + 1, unacked := d.unacked + 1, nak := false }
    if 16 ≤ d1.unacked ∨ d.lastAck + 64 ≤ cyc then d1.acked seq false cyc else d1
  else { d with nak := true }

/-- A lane declared down: the direction retrains. -/
def LinkDir.laneDown (d : LinkDir) (lane : Nat) : LinkDir :=
  { d with lanes := putBit d.lanes lane false, retraining := true, failures := [] }

/-- A CRC failure noted at a lane that is up; more than 16 of one lane within 2^20 c-cycles put it down. Which lane shows a failure
is free, for the model holds no lane's bits (24 R369; entry 63). -/
def State.crcFailed (s : State) (p : Nat) (out : Bool) : State :=
  let d := s.dir p out
  let up := (List.range 16).filter fun i => d.lanes.getLsbD i
  let lane := up.getD ((Config.freeWord s.fresh).toNat % up.length) 0
  let l := d.failures.filter (fun t => decide (s.cyc.toNat < t.2 + 2 ^ 20)) ++ [(lane, s.cyc.toNat)]
  State.setDir { s with fresh := s.fresh + 1 } p out
    (if 16 < (l.filter fun t => decide (t.1 = lane)).length then d.laneDown lane else { d with failures := l })

/-- What arrives of a packet: its tail, and the packet as it was sent, or nothing of it where its CRC or its authentication tag
fails (24 R371). What another sender's packet carries is not held, only its tail. -/
def LinkPacket.arrives (x : LinkPacket) (key : Option (BitVec 256)) (seq : BitVec 12) (back : LinkDir) : Option (LinkPacket × Nat) :=
  match x.body with
  | some b =>
    let c := b.encrypted key seq
    let tag := c.tagOf key seq
    let w := c.wire seq back
    if wireGood w = true ∧ c.tagOf key seq = tag then some ({ x with body := some (c.encrypted key seq) }, wireTail w) else none
  | none => some (x, back.tail 0)

/-- A packet arrives, with or without an error of the wire. One that is accepted is acted upon, and the acknowledgement in its tail
is the reverse direction's (24 R368). -/
def execLinkPacketReceive (p : Nat) (out : Bool) (seq : BitVec 12) (crcOk : Bool) (s : State) : Out :=
  if p < 32 ∧ (s.dir p out).up = true then
    match s.linkOnWire p out seq with
    | some (x, s1) =>
      let come := if crcOk then x.arrives (s1.port p).key seq (s1.dir p !out) else none
      let s2 := s1.setDir p out ((s1.dir p out).receives seq come.isSome s.cyc.toNat)
      match come with
      | some (y, tail) =>
        if seq = (s1.dir p out).expected then
          .next ((s2.setDir p (!out) ((s2.dir p !out).hears tail s.cyc.toNat)).linkAccepted p out y)
        else .next s2
      | none => .next (s2.crcFailed p out)
    | none => .next s
  else .next s

/-- An acknowledgement goes out in a tail of its own: it is due after 16 packets or 64 c-cycles, and may go before. -/
def execLinkAckTimer (p : Nat) (out : Bool) (s : State) : Out :=
  let d := s.dir p out
  if p < 32 ∧ d.up = true ∧ (0 < d.unacked ∨ d.nak = true) then
    .next (s.setDir p out (d.acked (d.expected - 1) d.nak s.cyc.toNat))
  else .next s

/-- No acknowledgement of the oldest packet within 2,048 c-cycles: a replay. -/
def execLinkReplayTimeout (p : Nat) (out : Bool) (s : State) : Out :=
  let d := s.dir p out
  match d.replay with
  | q :: _ =>
    if p < 32 ∧ d.up = true ∧ q.sentAt + 2048 ≤ s.cyc.toNat then .next (s.setDir p out (d.resend s.cyc.toNat)) else .next s
  | [] => .next s

def execLaneDown (p : Nat) (out : Bool) (lane : Nat) (s : State) : Out :=
  let d := s.dir p out
  if p < 32 ∧ lane < 16 ∧ d.lanes.getLsbD lane = true then .next (s.setDir p out (d.laneDown lane)) else .next s

/-- The width of the widest group whose lanes are all up: 16, 8, 4, or 0 for a port that is down. -/
def laneWidth (l : BitVec 16) : Nat :=
  if l = 0xFFFF then 16
  else if [0, 8].any fun i => decide (l.extractLsb' i 8 = 0xFF) then 8
  else if [0, 4, 8, 12].any fun i => decide (l.extractLsb' i 4 = 0xF) then 4
  else 0

/-- Another port that is up in a direction and leads to the same peer. -/
def State.otherPort (s : State) (p : Nat) (out : Bool) : Option Nat :=
  (List.range 32).find? fun q => decide (q ≠ p) && decide ((s.port q).peer = (s.port p).peer) && decide (0 < (s.dir q out).width) &&
    (decide ((s.port q).peer = some hostPeer) || (s.port q).key.isSome)

/-- A packet that no port delivers any more: its copy ends with status 7. -/
def State.linkLost (s : State) (x : LinkPacket) : State :=
  match x.copy with
  | some (k, id, n) => s.copyAnswer k id n 7 []
  | none => s

/-- A port that is down: what is not acknowledged, and what waits, goes over another port to its peer, or is lost. What the
receiver had accepted is not sent again. -/
def State.portDown (s : State) (p : Nat) (out : Bool) (d : LinkDir) : State :=
  let l := d.replay ++ d.waiting
  let s1 := s.setDir p out { d with replay := [], waiting := [], next := d.expected, unacked := 0, nak := false, again := none }
  match s.otherPort p out with
  | some q => s1.setDir q out { s1.dir q out with waiting := (s1.dir q out).waiting ++ l }
  | none => l.foldl State.linkLost s1

/-- A retrain ends: its group is the widest that is up; the receiver's last number frees what it has, the rest is
replayed. Lanes that have recovered rejoin only at a retrain that the host requested. -/
def execLinkRetrainDone (p : Nat) (out : Bool) (s : State) : Out :=
  let d := s.dir p out
  if p < 32 ∧ d.retraining = true then
    let lanes := if d.requested then d.lanes ||| Config.lanesRecovered s.fresh else d.lanes
    let d1 : LinkDir := { d.acknowledged (d.expected - 1) with
      lanes := lanes, width := laneWidth lanes, retraining := false, requested := false, unacked := 0, nak := false, failures := [] }
    let s1 : State := { s with fresh := s.fresh + 1 }
    if d1.width = 0 then .next (s1.portDown p out d1) else .next (s1.setDir p out (d1.resend s.cyc.toNat))
  else .next s

/-- `LNKCTL` with bit 63 set: both directions of the port retrain. -/
def execLinkRetrainRequest (p : Nat) (s : State) : Out :=
  s.ifReached <|
  if p < 32 then
    let x := s.port p
    let again (d : LinkDir) : LinkDir := { d with retraining := true, requested := true }
    let y : Port := { x with out := again x.out, inn := again x.inn }
    .next { s with lnkctl := BitVec.ofNat 64 p, ports := s.ports.put p y }
  else .next s

/-! ### Power (22 R344, 24 R377) -/

/-- Whether nothing of a cluster can go on: every live context is held, and no engine has a command.
Its service core, whose firmware manages the states, does not count (entry 36). -/
def State.clusterIdle (s : State) (cl : Nat) : Bool :=
  s.cores.all fun e => decide (clusOf e.1 ≠ cl) || decide (sites ≤ e.1) ||
    ((e.2.ctxs.all fun y => !y.2.live || y.2.hold.isSome || y.2.away.isSome) && e.2.mx.queue.isEmpty && e.2.vx.queue.isEmpty &&
      e.2.cx.queue.isEmpty)

/-- The slices of a cluster. -/
def clusterSlices (cl : Nat) : List Nat := (List.range 1024).filter fun sl => decide (sliceCluster sl = cl)

/-- The entry condition of `DARK` (22 Table 22-9). -/
def State.mayDark (s : State) (cl : Nat) : Bool :=
  (s.cores.all fun e => decide (clusOf e.1 ≠ cl) || (e.2.task.isNone && e.2.savedAt.isNone)) &&
    s.frames.all fun e => !(clusterSlices cl).contains (channelOf (e.1 % 2 ^ 33)) || (decide (e.2.pins = 0) && e.2.cove.isNone)

/-- A cluster enters `DARK`: it keeps nothing, and the lines of its slices can no longer be verified, whose keys and roots are
gone. -/
def State.enterDark (s : State) (cl : Nat) : State :=
  let sls := clusterSlices cl
  let frame (e : Nat × Frame) : Nat × Frame :=
    (e.1, { e.2 with lost := e.2.lost || (e.2.owner.isSome && sls.contains (frameChannel e.1)) })
  let s1 : State := { s with frames := s.frames.map frame, slices := s.slices.filter fun e => !sls.contains e.1 }
  s1.setCluster cl { s1.cluster cl with power := .dark, request := none, booting := false }

/-- The contexts of a cluster's cores that are away come home before it sleeps. -/
def State.callHome (s : State) (cl : Nat) : State :=
  (s.clusterLive cl).foldl (fun s k => (s.core k).liveHelpers.foldl (fun s h => s.recallHelper k h) s) s

/-- `CPWR` (22 R344): 0 `RUN`, 1 `NAP`, 2 `DROWSE`, 3 `DARK`. -/
def execClusterPowerRequest (cl : Nat) (st : BitVec 2) (s : State) : Out :=
  let x := s.cluster cl
  s.ifReached <|
  if clusterCount ≤ cl then .next s
  else if x.power = .dark then
    .next (if st = 0 then s.setCluster cl { x with booting := true } else s)
  else
    match st.toNat with
    | 0 => .next (s.setCluster cl { x with power := .run, request := none })
    | 1 =>
      if x.power = .run then
        .next (s.setCluster cl (if s.clusterIdle cl then { x with power := .nap, request := none } else { x with request := some .nap }))
      else .next s
    | 2 => .next (((s.setCluster cl { x with power := .run, request := some .drowse }).callHome cl).drowse cl)
    | _ => .next (if s.mayDark cl then s.enterDark cl else s)

/-- An idle cluster enters the `NAP` that was requested. -/
def execNapEntry (cl : Nat) (s : State) : Out :=
  let x := s.cluster cl
  if x.request = some .nap ∧ s.clusterIdle cl = true then
    .next (s.setCluster cl { x with power := .nap, request := none })
  else .next s

/-- A wait that only another agent's message can end. -/
def Phase.sleeps : Phase → Bool
  | .arrived d _ => !d
  | .closing => true
  | .asked _ => true
  | .twin _ _ => true
  | _ => false

/-- What wakes a cluster: a packet for it, a context that can go on, as one whose group has been released, or a command (22
Table 22-9). -/
def State.wakeCause (s : State) (cl : Nat) : Bool :=
  (s.packets.any fun e => decide (nodeCluster e.2.dst = cl)) || s.cores.any fun e => decide (clusOf e.1 = cl) && decide (e.1 < sites) &&
    (!e.2.inbox.isEmpty || !e.2.enginesIdle || e.2.ctxs.any fun y => y.2.live && y.2.away.isNone && !(y.2.phase.any Phase.sleeps))

/-- A packet, release or command wakes a cluster; a stop wakes it as it arrives. -/
def execClusterWake (cl : Nat) (s : State) : Out := .next (if s.wakeCause cl then s.wake cl else s)

/-- Measured power meets the cap, or falls below it: grants are withheld, or given again. -/
def execPowerCapThrottle (above : Bool) (s : State) : Out := .next { s with throttled := above }

/-- Every core that has a state of its own, or that a partition holds. -/
def State.stopping (s : State) : List Nat :=
  let l := ((s.parts.filter fun e => e.2.valid).flatMap fun e => e.2.cores.filter fun k => s.inService k)
  (s.cores.map Prod.fst).filter (fun k => decide (k < sites)) ++ l.filter fun k => (s.cores.find k).isNone

/-- A junction too hot: every core stops as by `GSTOP`, and the host is told. A core that is being saved stops after its save, as
`CORE_STOP_REACHED` finds it (23 R359). -/
def execThermalStop (s : State) : Out :=
  let s1 := s.stopping.foldl (fun s k => if (s.core k).saving then s else s.stopCore k .thermal) s
  .next { s1 with thermal := true, host := s1.host ++ [.thermal] }

/-- One core let go after a thermal stop. -/
def State.coolCore (s : State) (k : Nat) : State :=
  let x := s.core k
  let x1 : Core := { x with stopReq := if x.stopReq = some .heat then none else x.stopReq }
  if x.stop = .thermal then (s.setCore k { x1 with stop := .running }).drainInbox k else s.setCore k x1

def execThermalStopResume (s : State) : Out :=
  let s1 := (s.cores.map Prod.fst).foldl (fun s k => s.coolCore k) s
  .next { s1 with thermal := false }

end Sys2Proof.Machine
end

