-- ==== Sys2Proof/Machine/Reliability.lean ====
section
/-! DEFINITION. Self-tests (23 R363), containment (23 R364 to R366), the scrubbers (19 R283, R296, R297), and the
write-back of a line (22 R335). -/

namespace Sys2Proof.Machine

/-! ### Self-test (23 R363) -/

/-- The tile of a cluster: its clusters. -/
def State.tile (s : State) (cl : Nat) : List Nat :=
  let w := max 1 (bits s.ctile 0 7).toNat
  let h := max 1 (bits s.ctile 7 7).toNat
  (List.range clusterCount).filter fun c =>
    decide (c % 128 / w = cl % 128 / w) && decide (c / 128 / h = cl / 128 / h)

/-- A tile that was killed returns to service when none of its cores is tested any more: all the clusters that were fenced with
a cluster, and no other (23 R366). -/
def State.unfence (s : State) (cl : Nat) : State :=
  let x := s.cluster cl
  let mine (y : Cluster) : Bool := y.fenced && decide (y.tile = x.tile)
  if !x.fenced || s.cores.any fun e => e.2.testing && mine (s.cluster (clusOf e.1)) then s
  else { s with clusters := s.clusters.map fun e => if mine e.2 then (e.1, { e.2 with fenced := false }) else e }

def execSelfTestComplete (k : Nat) (pass : Bool) (s : State) : Out :=
  let x := s.core k
  if x.testing then
    let x1 : Core :=
      if !pass then if x.quarantined then { x with outOfService := true } else { x with quarantined := true }
      else if x.mismatchedAgain then { x with quarantined := true }
      else x
    .next ((s.setCore k { x1 with testing := false, mismatchedAgain := false }).unfence (clusOf k))
  else .next s

/-! ### Containment (23 R365, R366) -/

/-- The number of a tile: tiles are counted by rows. -/
def State.tileNumber (s : State) (cl : Nat) : Nat :=
  let w := max 1 (bits s.ctile 0 7).toNat
  let h := max 1 (bits s.ctile 7 7).toNat
  cl / 128 / h * ((127 / w) + 1) + cl % 128 / w

/-- Whether an endpoint is a core or copy engine of clusters. -/
def inClusters (cs : List Nat) : Node → Bool
  | .core k => decide (k < sites) && cs.contains (clusOf k)
  | .copyEngine cl => cs.contains cl
  | _ => false

/-- Whether a core lies in clusters. -/
def coreIn (cs : List Nat) (k : Nat) : Bool := inClusters cs (.core k)

/-- The log entry outside of the tile that holds the same store of a pair (23 R362). -/
def State.mateOutside (s : State) (cs : List Nat) (k c e : Nat) : Option (Nat × Nat × Nat) :=
  (s.logEntry k c e).mate.filter fun m => !coreIn cs m.1

/-- What a packet carries once the cores of a tile are reset: a store that has left the tile is performed all the same, for the
other twin where that one is outside, and what is for a core of the tile is for nobody. -/
def State.orphan (s : State) (cs : List Nat) (x : Payload) : Payload :=
  match x with
  | .store k c e =>
    if !coreIn cs k then x
    else match s.mateOutside cs k c e with
      | some (j, d, i) => .store j d i
      | none => .lone k c e (s.vdevOf k c) (s.logEntry k c e)
  | .ack k c e =>
    if !coreIn cs k then x
    else match s.mateOutside cs k c e with
      | some (j, d, i) => .ack j d i
      | none => .plain
  | .answer k _ _ _ _ => if coreIn cs k then .plain else x
  | .latch k _ _ => if coreIn cs k then .plain else x
  | .copyData k _ _ _ => if coreIn cs k then .plain else x
  | .done k _ _ _ => if coreIn cs k then .plain else x
  | .lone _ _ _ _ _ => x
  | .ask _ => x
  | .coll _ => x
  | .copyRead _ _ _ _ _ _ => x
  | .copyWrite _ _ _ _ => x
  | .plain => x

/-- As `orphan`, for a store that a slice has taken. -/
def State.orphanTaken (s : State) (cs : List Nat) (t : Taken) : Taken :=
  if !coreIn cs t.core || t.ask.isSome || t.lone.isSome then t
  else match s.mateOutside cs t.core t.ctx t.entry with
    | some (j, d, i) => { t with core := j, ctx := d, entry := i }
    | none => { t with entry := 16 + t.entry, lone := some (s.vdevOf t.core t.ctx, s.logEntry t.core t.ctx t.entry) }

/-- Whether a packet that came from the tile is still held inside it: with its source, with the routers that compare twins, in
a buffer there, or on its way to a core of the tile. -/
def Packet.heldIn (p : Packet) (cs : List Nat) : Bool :=
  inClusters cs p.src && (!p.checked || inClusters cs p.dst || (match p.place with
    | .source => true
    | .there => false
    | x => cs.contains x.cluster))

/-- A store discarded with its packet is over for the other twin. -/
def State.discarded (s : State) (cs : List Nat) (p : Packet) : State :=
  match p.payload with
  | .store k c e => (match s.mateOutside cs k c e with
    | some (j, d, i) => s.setEntry j d i {}
    | none => s)
  | _ => s

/-- The packets that the cores and copy engines of a tile leave numbered without gaps (21 R314). -/
def State.renumber (s : State) (cs : List Nat) : State :=
  let key (p : Packet) : Node × Node × PClass := (p.src, p.dst, p.cls)
  let before (p : Packet) : Nat := (s.packets.filter fun e => decide (key e.2 = key p) && decide (e.2.seq < p.seq)).length
  { s with
    packets := s.packets.map fun e =>
      if inClusters cs e.2.src then (e.1, { e.2 with seq := seqGet s.seqIn (key e.2) + before e.2 }) else e
    seqOut := s.seqOut.map fun e =>
      if inClusters cs e.1.1 then (e.1, seqGet s.seqIn e.1 + (s.packets.filter fun q => decide (key q.2 = e.1)).length) else e }

/-- The fence of a tile (23 R366): what its cores have sent and is still inside it is discarded, and their logs and copy commands
are over; what had left is delivered. -/
def State.fenceTile (s : State) (cs : List Nat) : State :=
  let s1 := (s.packets.filter fun e => e.2.heldIn cs).foldl (fun s e => s.discarded cs e.2) s
  let s2 : State := { s1 with
    packets := (s1.packets.filter fun e => !e.2.heldIn cs).map fun e => (e.1, { e.2 with payload := s.orphan cs e.2.payload })
    slices := s1.slices.map fun e => (e.1, { e.2 with taken := e.2.taken.map (s.orphanTaken cs) }) }
  let entry (x : LogEntry) : LogEntry := if x.mate.any fun m => coreIn cs m.1 then { x with mate := none } else x
  let ctx (k : Nat) (y : Ctx) : Ctx := { y with log := if coreIn cs k then Vector.replicate 8 {} else y.log.map entry }
  let core (k : Nat) (x : Core) : Core :=
    { x with
      ctxs := x.ctxs.map fun e => (e.1, ctx k e.2)
      cx := if coreIn cs k then { x.cx with queue := [] } else x.cx }
  State.renumber { s2 with cores := s2.cores.map fun e => (e.1, core e.1 e.2) } cs

/-- A cluster of the tile that an error in a cluster `t` has killed is reset: its banks return to the pool clean, and its cores are to
be tested. -/
def State.resetCluster (t : Nat) (s : State) (cl : Nat) : State :=
  let x := s.cluster cl
  let x1 : Cluster := { x with
    banks := x.banks.map fun b => (b.1, b.2.restart)
    resident := [], codeCache := [], tlb := [], moving := [], fenced := true, tile := t, copyLast := ({} : Cluster).copyLast
    copySkip := ({} : Cluster).copySkip }
  let s1 : State := { s.setCluster cl x1 with quads := s.quads.filter fun e => decide (e.1 / 16 ≠ cl) }
  (clusterCores cl).foldl (fun s k =>
    let c := s.core k
    s.setCore k { c.restart with testing := true, tx := c.tx, rx := c.rx }) s1

/-- A tile killed (23 R366): fence and refusal, abort, reset; it returns when its cores have been tested. -/
def State.killTile (s : State) (cl : Nat) (site : ErrSite) : State :=
  let cs := s.tile cl
  let s1 := s.fenceTile cs
  let ks := (s1.cores.filter fun e => coreIn cs e.1 && e.2.task.isSome).map Prod.fst
  let s2 := ks.foldl (fun s k => s.abortTask k) s1
  let s3 := cs.foldl (State.resetCluster cl) s2
  { s3 with host := s3.host ++ [HostMsg.containment (s.tileNumber cl) site cl] }

/-- An error in an accumulator of one of a cluster's slices: which one is not known. -/
def State.spoilAccumulator (s : State) (cl : Nat) : State :=
  let l := (clusterSlices cl).flatMap fun sl => (s.slice sl).accs.map fun e => (sl, e.1, e.2)
  match l[(Config.freeWord s.fresh).toNat % (max 1 l.length)]? with
  | some (sl, pa, a) =>
    State.setSlice { s with fresh := s.fresh + 1 } sl { s.slice sl with accs := (s.slice sl).accs.put pa { a with bad := true } }
  | none => s

/-- An elevator that can no longer forward is closed, to be retired (21 R319). -/
def execContainedError (cl : Nat) (site : ErrSite) (s : State) : Out :=
  if clusterCount ≤ cl then .next s
  else
    match site with
    | .accumulator => .next (s.spoilAccumulator cl)
    | .elevator =>
      let s1 := s.killTile cl site
      let x := s1.cluster cl
      .next (s1.setCluster cl { x with elevator := if x.elevator = .good then .closing else x.elevator })
    | _ => .next (s.killTile cl site)

/-- A packet that has come to its destination is delivered in its place; a poisoned `CTRL` packet is a contained error there
(21 R314, 23 R364). -/
def execPacketDelivery (id : Nat) (s : State) : Out :=
  match s.packets.find id with
  | some p =>
    if s.due p && p.poisoned && decide (p.cls = .ctrl) && !s.fencedNode p.dst then
      .next ((s.arrived id p).killTile (nodeCluster p.dst) .ctrlPacket)
    else .next (s.delivery id p)
  | none => .next s

/-! ### Errors that an access finds (23 Table 23-6) -/

/-- The lines whose MACs a line of MACs holds: ten of 48 bits (22 R334; DESIGN CHOICE, entry 60). -/
def macLineHolds (m : Nat) : List Nat := (List.range 10).map fun i => 10 * m + i

/-- What stands in HBM4E for a line replaced, so that the slice decrypts something else. -/
def State.alterStored (s : State) (l i : Nat) (x : Byte) : State :=
  match s.stored.find l with
  | some y =>
    let c := y.cipher.set i x
    { s with stored := s.stored.put l { y with cipher := c }, mem := Memory.writeN s.mem (64 * l) (leNat (s.cipher l c)) 64 }
  | none => s

/-- An uncorrectable error, or a change of what HBM4E holds (22 R334, R335, 23 R364). -/
def State.flawed (s : State) (x : Flaw) : State :=
  match x with
  | .packet id =>
    (match s.packets.find id with
    | some p => if p.place = .source then s else s.setPacket id { p with poisoned := true }
    | none => s)
  | .icacheLine k v a =>
    let spoil (l : CodeLine) : CodeLine := if l.vdev = v ∧ l.addr = a then { l with bad := true } else l
    s.setCore k { s.core k with icache := (s.core k).icache.map spoil }
  | .codeLine cl v a =>
    let spoil (l : CodeLine) : CodeLine := if l.vdev = v ∧ l.addr = a then { l with bad := true } else l
    s.setCluster cl { s.cluster cl with codeCache := (s.cluster cl).codeCache.map spoil }
  | .wire k out =>
    let spoil (e : Link × Granule × Bool) : Link × Granule × Bool := if e.1 = out then (e.1, e.2.1, true) else e
    s.setCore k { s.core k with outs := (s.core k).outs.map spoil, outsNext := (s.core k).outsNext.map spoil }
  | .tlbEntry k i =>
    if k < sites then s.setCore k { s.core k with tlb := (s.core k).tlb.eraseIdx i }
    else s.setCluster (clusOf k) { s.cluster (clusOf k) with tlb := (s.cluster (clusOf k)).tlb.eraseIdx i }
  | .macLine m => (macLineHolds m).foldl (fun s l => s.setLine l { s.line l with poison := true }) s
  | .stored l i b => if i < 64 then s.alterStored l i b else s
  | .node sl n => s.setSlice sl { s.slice sl with badNodes := n :: (s.slice sl).badNodes }
  | .tree sl n w => s.setSlice sl { s.slice sl with tree := (s.slice sl).tree.put n w }

/-- Firmware suspects a core: it is quarantined when its task has ended (23 R363). -/
def State.suspects (s : State) (k : Nat) : State :=
  let x := s.core k
  if sites ≤ k then s
  else if x.task.isNone then s.setCore k { x with quarantined := true }
  else s.setCore k { x with suspect := true }

/-! ### Scrubbers (19 R283, R296, R297) -/

/-- A bank marked for retirement: a free one leaves the pool at once. -/
def State.markBank (s : State) (cl b : Nat) : State :=
  let bk := s.bank cl b
  match bk.state with
  | .gone => s
  | .held _ _ => s.setBank cl b { bk with marked := true }
  | .leaving => s.setBank cl b { bk with marked := true }
  | _ =>
    let x := s.cluster cl
    s.setCluster cl { x.setBank b { bk with marked := true, state := .gone } with retired := x.retired + 1 }

/-- The bank scrubber at a granule: a corrected error counts, the eighth within 2^32 c-cycles marks the bank. -/
def execBankScrub (cl b g : Nat) (e : ErrKind) (s : State) : Out :=
  let bk := s.bank cl b
  if clusterCount ≤ cl ∨ 768 ≤ b ∨ 256 ≤ g ∨ bk.state = .gone then .next s
  else
    match e with
    | .clean => .next s
    | .corrected =>
      let l := bk.corrected.filter (fun t => decide (s.cyc.toNat < t + 2 ^ 32)) ++ [s.cyc.toNat]
      let s1 := s.setBank cl b { bk with corrected := l }
      .next (if 8 ≤ l.length then s1.markBank cl b else s1)
    | .uncorrectable => .next ((s.setBank cl b (bk.setPoison g true)).markBank cl b)

/-- A slice's scrubber at a line: a correction changes no value that stands. -/
def execHbmScrub (line : Nat) (e : ErrKind) (s : State) : Out :=
  match e with
  | .clean => .next s
  | .corrected => .next s
  | .uncorrectable => .next (s.setLine line { s.line line with poison := true })

/-! ### Write-backs (22 R335) -/

def execLineWriteback (line : Nat) (s : State) : Out := .next (s.writeBack line)

end Sys2Proof.Machine
end

