-- ==== Sys2Proof/Machine/Dispatch.lean ====
section
/-! DEFINITION. The dispatch: every instruction and every event to its meaning. -/

namespace Sys2Proof.Machine

def exec (i : Instr) (s : State) : Host.Outcome State Fault Refusal :=
  match i with
  -- system (11 Table 11-1)
  | .nop => Sys2Proof.Machine.execNop s
  | .trap n => Sys2Proof.Machine.execTrap n s
  | .eret => Sys2Proof.Machine.execEret s
  | .csrr c => Sys2Proof.Machine.execCsrr c s
  | .csrw c => Sys2Proof.Machine.execCsrw c s
  | .csrs c => Sys2Proof.Machine.execCsrs c s
  | .csrc c => Sys2Proof.Machine.execCsrc c s
  | .waite m => Sys2Proof.Machine.execWaite m s
  | .halt r c => Sys2Proof.Machine.execHalt r c s
  | .icinv q => Sys2Proof.Machine.execIcinv q s
  | .tlbw cl c => Sys2Proof.Machine.execTlbw cl c s
  | .tlbinv a c q => Sys2Proof.Machine.execTlbinv a c q s
  | .revoke c => Sys2Proof.Machine.execRevoke c s
  | .ctxsv c => Sys2Proof.Machine.execCtxsv c s
  | .ctxld c => Sys2Proof.Machine.execCtxld c s
  | .gstop c r => Sys2Proof.Machine.execGstop c r s
  | .dbrk n => Sys2Proof.Machine.execDbrk n s
  | .rdtime => Sys2Proof.Machine.execRdtime s
  | .rdcyc => Sys2Proof.Machine.execRdcyc s
  | .reissue k => Sys2Proof.Machine.execReissue k s
  | .oorclr => Sys2Proof.Machine.execOorclr s
  | .movrv => Sys2Proof.Machine.execMovrv s
  -- loads and stores (05 Table 5-1)
  | .ldl z sx m => Sys2Proof.Machine.execLdl z sx m s
  | .ldc z sx m => Sys2Proof.Machine.execLdc z sx m s
  | .ldg z sx m => Sys2Proof.Machine.execLdg z sx m s
  | .ldgOrdered z sx o q m => Sys2Proof.Machine.execLdgOrdered z sx o q m s
  | .ldw z sx m => Sys2Proof.Machine.execLdw z sx m s
  | .ldwOrdered z sx o m => Sys2Proof.Machine.execLdwOrdered z sx o m s
  | .stl z m => Sys2Proof.Machine.execStl z m s
  | .stc z m => Sys2Proof.Machine.execStc z m s
  | .stg z m => Sys2Proof.Machine.execStg z m s
  | .stgOrdered z o q m => Sys2Proof.Machine.execStgOrdered z o q m s
  | .stw z m => Sys2Proof.Machine.execStw z m s
  | .stwOrdered z o m => Sys2Proof.Machine.execStwOrdered z o m s
  -- full/empty (05 Table 5-7)
  | .ldlf z m => Sys2Proof.Machine.execLdlf z m s
  | .ldlfC z m => Sys2Proof.Machine.execLdlfC z m s
  | .ldcf z m => Sys2Proof.Machine.execLdcf z m s
  | .ldcfC z m => Sys2Proof.Machine.execLdcfC z m s
  | .stlf z m => Sys2Proof.Machine.execStlf z m s
  | .stcf z m => Sys2Proof.Machine.execStcf z m s
  | .feset m => Sys2Proof.Machine.execFeset m s
  | .feclr m => Sys2Proof.Machine.execFeclr m s
  | .fetst m => Sys2Proof.Machine.execFetst m s
  -- atomics (05 Table 5-8); `d64` selects size d over w
  | .amogAdd d64 o q m => Sys2Proof.Machine.execAmogAdd d64 o q m s
  | .amogAnd d64 o q m => Sys2Proof.Machine.execAmogAnd d64 o q m s
  | .amogOr d64 o q m => Sys2Proof.Machine.execAmogOr d64 o q m s
  | .amogXor d64 o q m => Sys2Proof.Machine.execAmogXor d64 o q m s
  | .amogMin d64 o q m => Sys2Proof.Machine.execAmogMin d64 o q m s
  | .amogMax d64 o q m => Sys2Proof.Machine.execAmogMax d64 o q m s
  | .amogMinu d64 o q m => Sys2Proof.Machine.execAmogMinu d64 o q m s
  | .amogMaxu d64 o q m => Sys2Proof.Machine.execAmogMaxu d64 o q m s
  | .amogSwap d64 o q m => Sys2Proof.Machine.execAmogSwap d64 o q m s
  | .amogCas d64 o q m => Sys2Proof.Machine.execAmogCas d64 o q m s
  | .amocAdd d64 m => Sys2Proof.Machine.execAmocAdd d64 m s
  | .amocAnd d64 m => Sys2Proof.Machine.execAmocAnd d64 m s
  | .amocOr d64 m => Sys2Proof.Machine.execAmocOr d64 m s
  | .amocSwap d64 m => Sys2Proof.Machine.execAmocSwap d64 m s
  | .amocCas d64 m => Sys2Proof.Machine.execAmocCas d64 m s
  -- ALU with a memory operand (04 Table 4-2)
  | .add z m => Sys2Proof.Machine.execAdd z m s
  | .adc z m => Sys2Proof.Machine.execAdc z m s
  | .sub z m => Sys2Proof.Machine.execSub z m s
  | .sbc z m => Sys2Proof.Machine.execSbc z m s
  | .rsb z m => Sys2Proof.Machine.execRsb z m s
  | .adds z m => Sys2Proof.Machine.execAdds z m s
  | .addsu z m => Sys2Proof.Machine.execAddsu z m s
  | .subs z m => Sys2Proof.Machine.execSubs z m s
  | .subsu z m => Sys2Proof.Machine.execSubsu z m s
  | .mul z m => Sys2Proof.Machine.execMul z m s
  | .mulh z m => Sys2Proof.Machine.execMulh z m s
  | .mulhu z m => Sys2Proof.Machine.execMulhu z m s
  | .div z m => Sys2Proof.Machine.execDiv z m s
  | .divu z m => Sys2Proof.Machine.execDivu z m s
  | .rem z m => Sys2Proof.Machine.execRem z m s
  | .remu z m => Sys2Proof.Machine.execRemu z m s
  | .and z m => Sys2Proof.Machine.execAnd z m s
  | .or z m => Sys2Proof.Machine.execOr z m s
  | .xor z m => Sys2Proof.Machine.execXor z m s
  | .andn z m => Sys2Proof.Machine.execAndn z m s
  | .shl z m => Sys2Proof.Machine.execShl z m s
  | .shr z m => Sys2Proof.Machine.execShr z m s
  | .sar z m => Sys2Proof.Machine.execSar z m s
  | .rol z m => Sys2Proof.Machine.execRol z m s
  | .ror z m => Sys2Proof.Machine.execRor z m s
  | .min z m => Sys2Proof.Machine.execMin z m s
  | .max z m => Sys2Proof.Machine.execMax z m s
  | .minu z m => Sys2Proof.Machine.execMinu z m s
  | .maxu z m => Sys2Proof.Machine.execMaxu z m s
  | .cmp z m => Sys2Proof.Machine.execCmp z m s
  | .tst z m => Sys2Proof.Machine.execTst z m s
  -- immediate ALU (04 Table 4-3)
  | .addi w => Sys2Proof.Machine.execAddi w s
  | .addsi w => Sys2Proof.Machine.execAddsi w s
  | .rsbi w => Sys2Proof.Machine.execRsbi w s
  | .muli w => Sys2Proof.Machine.execMuli w s
  | .andi w => Sys2Proof.Machine.execAndi w s
  | .ori w => Sys2Proof.Machine.execOri w s
  | .xori w => Sys2Proof.Machine.execXori w s
  | .shli k => Sys2Proof.Machine.execShli k s
  | .shri k => Sys2Proof.Machine.execShri k s
  | .sari k => Sys2Proof.Machine.execSari k s
  | .rori k => Sys2Proof.Machine.execRori k s
  | .cmpi w => Sys2Proof.Machine.execCmpi w s
  | .tsti w => Sys2Proof.Machine.execTsti w s
  -- scalar floating point (04 Table 4-5)
  | .fadd m => Sys2Proof.Machine.execFadd m s
  | .fsub m => Sys2Proof.Machine.execFsub m s
  | .frsub m => Sys2Proof.Machine.execFrsub m s
  | .fmul m => Sys2Proof.Machine.execFmul m s
  | .fdiv m => Sys2Proof.Machine.execFdiv m s
  | .fmin m => Sys2Proof.Machine.execFmin m s
  | .fmax m => Sys2Proof.Machine.execFmax m s
  | .fcmp m => Sys2Proof.Machine.execFcmp m s
  | .fsqrt m => Sys2Proof.Machine.execFsqrt m s
  | .fcvtbf m => Sys2Proof.Machine.execFcvtbf m s
  | .fcvthf m => Sys2Proof.Machine.execFcvthf m s
  | .frndbf m => Sys2Proof.Machine.execFrndbf m s
  | .frndhf m => Sys2Proof.Machine.execFrndhf m s
  | .fcvti m => Sys2Proof.Machine.execFcvti m s
  | .fcvtf m => Sys2Proof.Machine.execFcvtf m s
  | .fcvtuf m => Sys2Proof.Machine.execFcvtuf m s
  -- unary (04 Table 4-4)
  | .not => Sys2Proof.Machine.execNot s
  | .neg => Sys2Proof.Machine.execNeg s
  | .abs => Sys2Proof.Machine.execAbs s
  | .negs => Sys2Proof.Machine.execNegs s
  | .abss => Sys2Proof.Machine.execAbss s
  | .clz => Sys2Proof.Machine.execClz s
  | .ctz => Sys2Proof.Machine.execCtz s
  | .popc => Sys2Proof.Machine.execPopc s
  | .bswap => Sys2Proof.Machine.execBswap s
  | .sextb => Sys2Proof.Machine.execSextb s
  | .sexth => Sys2Proof.Machine.execSexth s
  | .sextw => Sys2Proof.Machine.execSextw s
  | .zextb => Sys2Proof.Machine.execZextb s
  | .zexth => Sys2Proof.Machine.execZexth s
  | .zextw => Sys2Proof.Machine.execZextw s
  -- pointers (04 Table 4-7)
  | .pmov n m => Sys2Proof.Machine.execPmov n m s
  | .paddi n m w => Sys2Proof.Machine.execPaddi n m w s
  | .padda n m => Sys2Proof.Machine.execPadda n m s
  | .pstr n w => Sys2Proof.Machine.execPstr n w s
  | .pget n => Sys2Proof.Machine.execPget n s
  | .pset n => Sys2Proof.Machine.execPset n s
  | .psub n m => Sys2Proof.Machine.execPsub n m s
  -- branches, jumps, loops, constants (04 R81-R84, 02 R46)
  | .b c o => Sys2Proof.Machine.execB c o s
  | .call o => Sys2Proof.Machine.execCall o s
  | .jmp n w => Sys2Proof.Machine.execJmp n w s
  | .ret => Sys2Proof.Machine.execRet s
  | .loop k o => Sys2Proof.Machine.execLoop k o s
  | .dbnz k o => Sys2Proof.Machine.execDbnz k o s
  | .li w => Sys2Proof.Machine.execLi w s
  | .lih w => Sys2Proof.Machine.execLih w s
  -- banks (06 Table 6-1)
  | .balloc n => Sys2Proof.Machine.execBalloc n s
  | .att n => Sys2Proof.Machine.execAtt n s
  | .det n => Sys2Proof.Machine.execDet n s
  | .detZ n => Sys2Proof.Machine.execDetZ n s
  | .arm n t => Sys2Proof.Machine.execArm n t s
  | .bwait n => Sys2Proof.Machine.execBwait n s
  | .openSlot n => Sys2Proof.Machine.execOpenSlot n s
  | .closeSlot n => Sys2Proof.Machine.execCloseSlot n s
  | .bqry n => Sys2Proof.Machine.execBqry n s
  | .hov n => Sys2Proof.Machine.execHov n s
  -- threads, groups, flow (10 Table 10-1)
  | .start h o => Sys2Proof.Machine.execStart h o s
  | .startM h o => Sys2Proof.Machine.execStartM h o s
  | .endT => Sys2Proof.Machine.execEndT s
  | .hwait h => Sys2Proof.Machine.execHwait h s
  | .hkill h => Sys2Proof.Machine.execHkill h s
  | .yield => Sys2Proof.Machine.execYield s
  | .self => Sys2Proof.Machine.execSelf s
  | .spawn => Sys2Proof.Machine.execSpawn s
  | .join g => Sys2Proof.Machine.execJoin g s
  | .leave g => Sys2Proof.Machine.execLeave g s
  | .bar g => Sys2Proof.Machine.execBar g s
  | .flow g n => Sys2Proof.Machine.execFlow g n s
  | .xmit l p q => Sys2Proof.Machine.execXmit l p q s
  | .muxs l q => Sys2Proof.Machine.execMuxs l q s
  | .recv p q => Sys2Proof.Machine.execRecv p q s
  | .xfwd l q => Sys2Proof.Machine.execXfwd l q s
  | .flend => Sys2Proof.Machine.execFlend s
  -- matrix (07 Table 7-1)
  | .mxls a b => Sys2Proof.Machine.execMxls a b s
  | .mxflip => Sys2Proof.Machine.execMxflip s
  | .mxst a b => Sys2Proof.Machine.execMxst a b s
  | .mxzero => Sys2Proof.Machine.execMxzero s
  | .mxswap => Sys2Proof.Machine.execMxswap s
  | .mxdrn a b => Sys2Proof.Machine.execMxdrn a b s
  | .mxckl => Sys2Proof.Machine.execMxckl s
  | .mxckf => Sys2Proof.Machine.execMxckf s
  | .mxrty => Sys2Proof.Machine.execMxrty s
  | .mxwait => Sys2Proof.Machine.execMxwait s
  | .mxrd k => Sys2Proof.Machine.execMxrd k s
  | .mxwr k a => Sys2Proof.Machine.execMxwr k a s
  | .mxwrg k n a => Sys2Proof.Machine.execMxwrg k n a s
  -- vector (08 Table 8-1)
  | .vadd a b sc => Sys2Proof.Machine.execVadd a b sc s
  | .vsub a b sc => Sys2Proof.Machine.execVsub a b sc s
  | .vmul a b sc => Sys2Proof.Machine.execVmul a b sc s
  | .vfma a b sc => Sys2Proof.Machine.execVfma a b sc s
  | .vmin a b sc => Sys2Proof.Machine.execVmin a b sc s
  | .vmax a b sc => Sys2Proof.Machine.execVmax a b sc s
  | .vabs a b => Sys2Proof.Machine.execVabs a b s
  | .vneg a b => Sys2Proof.Machine.execVneg a b s
  | .vexp2 a b => Sys2Proof.Machine.execVexp2 a b s
  | .vlog2 a b => Sys2Proof.Machine.execVlog2 a b s
  | .vrcp a b => Sys2Proof.Machine.execVrcp a b s
  | .vrsq a b => Sys2Proof.Machine.execVrsq a b s
  | .vtanh a b => Sys2Proof.Machine.execVtanh a b s
  | .vcvt a b => Sys2Proof.Machine.execVcvt a b s
  | .vred a b r rv => Sys2Proof.Machine.execVred a b r rv s
  | .vscan a b => Sys2Proof.Machine.execVscan a b s
  | .vafs a b upd => Sys2Proof.Machine.execVafs a b upd s
  | .vsel a b sc => Sys2Proof.Machine.execVsel a b sc s
  | .vclamp a b => Sys2Proof.Machine.execVclamp a b s
  | .vcmp a b c sc => Sys2Proof.Machine.execVcmp a b c sc s
  | .vgath a b => Sys2Proof.Machine.execVgath a b s
  | .vscat a b => Sys2Proof.Machine.execVscat a b s
  | .vwr k a => Sys2Proof.Machine.execVwr k a s
  | .vwrg k n a => Sys2Proof.Machine.execVwrg k n a s
  | .vrd k => Sys2Proof.Machine.execVrd k s
  | .vwait => Sys2Proof.Machine.execVwait s
  -- copy and reduction (09 Table 9-1)
  | .cg2l a b => Sys2Proof.Machine.execCg2l a b s
  | .cl2g a b => Sys2Proof.Machine.execCl2g a b s
  | .cl2c a b => Sys2Proof.Machine.execCl2c a b s
  | .cc2l a b => Sys2Proof.Machine.execCc2l a b s
  | .cw2l a b => Sys2Proof.Machine.execCw2l a b s
  | .cl2w a b => Sys2Proof.Machine.execCl2w a b s
  | .cx2g a b => Sys2Proof.Machine.execCx2g a b s
  | .cg2x a b => Sys2Proof.Machine.execCg2x a b s
  | .cwr k a => Sys2Proof.Machine.execCwr k a s
  | .cwrg k n a => Sys2Proof.Machine.execCwrg k n a s
  | .cwait => Sys2Proof.Machine.execCwait s
  | .rdadd a b => Sys2Proof.Machine.execRdadd a b s
  | .rdflush a => Sys2Proof.Machine.execRdflush a s
  | .rdwait => Sys2Proof.Machine.execRdwait s
  -- events of a core's own accesses
  | .rvFill k => Sys2Proof.Machine.execRvFill k s
  | .storeAcknowledge k c e => Sys2Proof.Machine.execStoreAcknowledge k c e s
  | .tier1WriteThrough line => Sys2Proof.Machine.execTier1WriteThrough line s
  | .lateFaultReport k c e => Sys2Proof.Machine.execLateFaultReport k c e s
  | .lateFaultTrap k c => Sys2Proof.Machine.execLateFaultTrap k c s
  | .gResponse k c => Sys2Proof.Machine.execGResponse k c s
  | .sliceAccess k c e => Sys2Proof.Machine.execSliceAccess k c e s
  | .tlbMissRequest k c => Sys2Proof.Machine.execTlbMissRequest k c s
  | .fetchRefill k c => Sys2Proof.Machine.execFetchRefill k c s
  | .bankMissMicrotrap k n => Sys2Proof.Machine.execBankMissMicrotrap k n s
  | .registerMissMicrotrap k c => Sys2Proof.Machine.execRegisterMissMicrotrap k c s
  | .hovDrainDone k c => Sys2Proof.Machine.execHovDrainDone k c s
  | .hovArrival k c => Sys2Proof.Machine.execHovArrival k c s
  | .hovStatusReturn k c => Sys2Proof.Machine.execHovStatusReturn k c s
  | .eventLatchMessage k h => Sys2Proof.Machine.execEventLatchMessage k h s
  | .bankReleaseDrainDone k c => Sys2Proof.Machine.execBankReleaseDrainDone k c s
  | .detZZeroingDone k c => Sys2Proof.Machine.execDetZZeroingDone k c s
  | .btoTimeout k c => Sys2Proof.Machine.execBtoTimeout k c s
  | .barrierArrival k => Sys2Proof.Machine.execBarrierArrival k s
  | .barrierRelease k => Sys2Proof.Machine.execBarrierRelease k s
  | .flowRelease part group => Sys2Proof.Machine.execFlowRelease part group s
  | .flowSlotOverrun k => Sys2Proof.Machine.execFlowSlotOverrun k s
  | .flowFaultReport k => Sys2Proof.Machine.execFlowFaultReport k s
  | .flendClosing k => Sys2Proof.Machine.execFlendClosing k s
  | .cloadSample cl => Sys2Proof.Machine.execCloadSample cl s
  | .helperMigrationArrival cl => Sys2Proof.Machine.execHelperMigrationArrival cl s
  -- placement and streams (18)
  | .taskPlacement l => Sys2Proof.Machine.execTaskPlacement l s
  | .spawnPlacement part => Sys2Proof.Machine.execSpawnPlacement part s
  | .coresidentLaunchStart l => Sys2Proof.Machine.execCoresidentLaunchStart l s
  | .launchCompletion l => Sys2Proof.Machine.execLaunchCompletion l s
  | .streamRecordFetch v q => Sys2Proof.Machine.execStreamRecordFetch v q s
  | .launch v q n => Sys2Proof.Machine.execLaunch v q n s
  | .graphDefine v q => Sys2Proof.Machine.execGraphDefine v q s
  | .graphLaunch v q => Sys2Proof.Machine.execGraphLaunch v q s
  | .graphEdit v q => Sys2Proof.Machine.execGraphEdit v q s
  | .graphDestroy v q => Sys2Proof.Machine.execGraphDestroy v q s
  | .graphNodeStart v q n => Sys2Proof.Machine.execGraphNodeStart v q n s
  | .copy v q n => Sys2Proof.Machine.execCopy v q n s
  | .fill v q n => Sys2Proof.Machine.execFill v q n s
  | .waitv v q n => Sys2Proof.Machine.execWaitv v q n s
  | .waitvReread v q n => Sys2Proof.Machine.execWaitvReread v q n s
  | .waitvTimeout v q n => Sys2Proof.Machine.execWaitvTimeout v q n s
  | .signal v q n => Sys2Proof.Machine.execSignal v q n s
  | .pin v q => Sys2Proof.Machine.execPin v q s
  | .unpin v q => Sys2Proof.Machine.execUnpin v q s
  | .tierPromote v q => Sys2Proof.Machine.execTierPromote v q s
  | .tierKeep v q => Sys2Proof.Machine.execTierKeep v q s
  | .tierAutomatic v q => Sys2Proof.Machine.execTierAutomatic v q s
  | .pageMove frame => Sys2Proof.Machine.execPageMove frame s
  | .preemptSave v q => Sys2Proof.Machine.execPreemptSave v q s
  | .preemptResume v q => Sys2Proof.Machine.execPreemptResume v q s
  | .qosLevels v q => Sys2Proof.Machine.execQosLevels v q s
  | .qosBound v q => Sys2Proof.Machine.execQosBound v q s
  | .qosWindowEnd v => Sys2Proof.Machine.execQosWindowEnd v s
  | .keyCreate v q => Sys2Proof.Machine.execKeyCreate v q s
  | .keyErase v q => Sys2Proof.Machine.execKeyErase v q s
  | .coveCreate v q => Sys2Proof.Machine.execCoveCreate v q s
  | .coveGrant v q => Sys2Proof.Machine.execCoveGrant v q s
  | .coveRevoke v q => Sys2Proof.Machine.execCoveRevoke v q s
  | .coveRekey v q => Sys2Proof.Machine.execCoveRekey v q s
  | .coveDestroy v q => Sys2Proof.Machine.execCoveDestroy v q s
  | .migrateBegin v q => Sys2Proof.Machine.execMigrateBegin v q s
  | .migrateRound v q => Sys2Proof.Machine.execMigrateRound v q s
  | .migrateFinal v q => Sys2Proof.Machine.execMigrateFinal v q s
  | .migrateCommit v q => Sys2Proof.Machine.execMigrateCommit v q s
  | .migrateAbort v q => Sys2Proof.Machine.execMigrateAbort v q s
  | .streamDestroyComplete v q => Sys2Proof.Machine.execStreamDestroyComplete v q s
  -- host and admin space (24 Table 24-4)
  | .sqtailWrite v q value => Sys2Proof.Machine.execSqtailWrite v q value s
  | .sqstatErrClear v q => Sys2Proof.Machine.execSqstatErrClear v q s
  | .streamCreate v q slot => Sys2Proof.Machine.execStreamCreate v q slot s
  | .streamDestroy v q => Sys2Proof.Machine.execStreamDestroy v q s
  | .debugStateRequest d => Sys2Proof.Machine.execDebugStateRequest d s
  | .linkRetrainRequest port => Sys2Proof.Machine.execLinkRetrainRequest port s
  | .doubleRelease cl cloc => Sys2Proof.Machine.execDoubleRelease cl cloc s
  | .clusterPowerRequest cl st => Sys2Proof.Machine.execClusterPowerRequest cl st s
  | .partitionWrite slot value => Sys2Proof.Machine.execPartitionWrite slot value s
  | .attestationRequest value => Sys2Proof.Machine.execAttestationRequest value s
  | .promoWrite value => Sys2Proof.Machine.execPromoWrite value s
  | .trbaseWrite v value => Sys2Proof.Machine.execTrbaseWrite v value s
  | .adminRegisterWrite offset value => Sys2Proof.Machine.execAdminRegisterWrite offset value s
  | .recoveryImageWrite image => Sys2Proof.Machine.execRecoveryImageWrite image s
  | .hostGRead v addr len => Sys2Proof.Machine.execHostGRead v addr len s
  | .hostGWrite v addr data => Sys2Proof.Machine.execHostGWrite v addr data s
  -- engines and slices
  | .matrixCommandGrant quad => Sys2Proof.Machine.execMatrixCommandGrant quad s
  | .matrixCommandComplete k => Sys2Proof.Machine.execMatrixCommandComplete k s
  | .vectorCommandGrant quad => Sys2Proof.Machine.execVectorCommandGrant quad s
  | .vectorCommandComplete k => Sys2Proof.Machine.execVectorCommandComplete k s
  | .copyTransferGrant cl => Sys2Proof.Machine.execCopyTransferGrant cl s
  | .copyCommandComplete k => Sys2Proof.Machine.execCopyCommandComplete k s
  | .reductionContribution slice => Sys2Proof.Machine.execReductionContribution slice s
  | .reductionFlush slice => Sys2Proof.Machine.execReductionFlush slice s
  | .lineWriteback line => Sys2Proof.Machine.execLineWriteback line s
  | .bankScrub cl bank g e => Sys2Proof.Machine.execBankScrub cl bank g e s
  | .hbmScrub line e => Sys2Proof.Machine.execHbmScrub line e s
  -- networks (21, 24)
  | .packetDelivery id => Sys2Proof.Machine.execPacketDelivery id s
  | .packetNackResend id => Sys2Proof.Machine.execPacketNackResend id s
  | .packetEscape id => Sys2Proof.Machine.execPacketEscape id s
  | .elevatorRetire cl => Sys2Proof.Machine.execElevatorRetire cl s
  | .routeGenUpdate cl => Sys2Proof.Machine.execRouteGenUpdate cl s
  | .linkPacketReceive port out seq crcOk => Sys2Proof.Machine.execLinkPacketReceive port out seq crcOk s
  | .linkAckTimer port out => Sys2Proof.Machine.execLinkAckTimer port out s
  | .linkReplayTimeout port out => Sys2Proof.Machine.execLinkReplayTimeout port out s
  | .laneDown port out lane => Sys2Proof.Machine.execLaneDown port out lane s
  | .linkRetrainDone port out => Sys2Proof.Machine.execLinkRetrainDone port out s
  -- reliability, power, start (22, 23, 24)
  | .twinPacketCompare k => Sys2Proof.Machine.execTwinPacketCompare k s
  | .twinHashTimeout k => Sys2Proof.Machine.execTwinHashTimeout k s
  | .selfTestComplete k pass => Sys2Proof.Machine.execSelfTestComplete k pass s
  | .containedError cl site => Sys2Proof.Machine.execContainedError cl site s
  | .doubleAbortTimer k => Sys2Proof.Machine.execDoubleAbortTimer k s
  | .saveSequence k => Sys2Proof.Machine.execSaveSequence k s
  | .coreStopReached k => Sys2Proof.Machine.execCoreStopReached k s
  | .napEntry cl => Sys2Proof.Machine.execNapEntry cl s
  | .clusterWake cl => Sys2Proof.Machine.execClusterWake cl s
  | .powerCapThrottle above => Sys2Proof.Machine.execPowerCapThrottle above s
  | .thermalStop => Sys2Proof.Machine.execThermalStop s
  | .powerOnReset => Sys2Proof.Machine.execPowerOnReset s
  | .illins w => Sys2Proof.Machine.execIllins w s
  | .darkClusterBoot cl => Sys2Proof.Machine.execDarkClusterBoot cl s
  | .thermalStopResume => Sys2Proof.Machine.execThermalStopResume s

end Sys2Proof.Machine
end

