-- ==== Sys2Proof/Machine/Turn.lean ====
section
/-! DEFINITION. Whose turn it is: the rotation of a core's contexts (18 R268), what an issue turn does (02 R34 to R37,
10 R198, R199, R203), what a held context does when it goes on, the clock (24 R376, 22 R330, R331), and the turn that
`step` takes. -/

namespace Sys2Proof.Machine

/-! ### Readiness (18 R268) -/

/-- A flow phase whose instruction of this c-cycle is still to issue (10 R199). -/
def State.flowDue (s : State) (k : Nat) : Bool :=
  match (s.core k).flow with
  | some f => f.opened && !f.issued && s.enabled k 0 && (s.ctx k 0).hold.isNone
  | none => false

/-- Whether a context is ready (18 R268): in a flow phase once a c-cycle. -/
def State.ready (s : State) (k c : Nat) : Bool :=
  if s.coreFlows k then decide (c = 0) && s.flowDue k
  else s.standsReady k c

/-- The contexts of a core in the order of its rotation. -/
def rotation (last : Nat) : List Nat := (List.range 11).map fun i => (last + 1 + i) % 11

/-- The next ready context of a core. -/
def State.nextReady (s : State) (k : Nat) : Option Nat := (rotation (s.core k).lastCtx).find? fun c => s.ready k c

/-- The next context of a core, after the one that moved last, that is held or waits for its registers or its word. -/
def State.nextHeld (s : State) (k last : Nat) : Option Nat :=
  (rotation last).find? fun c => s.enabled k c && !s.ready k c && !(s.coreFlows k && decide (c = 0))

/-! ### Issue -/

/-- A decoded word executed, or its decoding fault (02 R47). -/
def State.issueWord (s : State) (w : W32) : Out :=
  match decode w with
  | .ok i => exec i s
  | .error _ => execIllins w s

/-- An issue in a flow phase: the word comes from the 256 locked words, and from no other address (10 R198, R199, R203). The
return sentinel outside them faults as any other address there does, and inside them is `END`, which a phase does not admit
(01 R18, 02 R34; DESIGN CHOICE, entry 64). -/
def State.issueFlow (s : State) (k : Nat) (f : Flow) : Out :=
  let pc := (s.ctx k 0).pc
  let i := (pc - f.base).toNat / 4
  if (s.overrun k).isSome then execFlowSlotOverrun k s
  else if 256 ≤ i then
    .next (s.takeTrap k 0 { tpc := pc, cause := causeIllctx, addr := pc.setWidth 64, val := 0 })
  else if pc = sentinel then execEndT s
  else
    match f.words.getD i (.inl 0) with
    | .inl w => s.issueWord w
    | .inr cause => .next (s.takeTrap k 0 { tpc := pc, cause := cause, addr := pc.setWidth 64, val := 0 })

/-- A context's issue turn: a late fault first (05 R98), the sentinel as `END` (01 R18), else the word at its PC. -/
def State.issueAt (s0 : State) (k c : Nat) : Out :=
  let s := { s0 with cur := (k, c) }
  let y := s.ctx k c
  if y.lateEntry.isSome then execLateFaultTrap k c s
  else
    match s.coreFlows k, (s.core k).flow with
    | true, some f => s.issueFlow k f
    | _, _ =>
      if y.pc = sentinel then execEndT s
      else
        match s.fetchWord k c y.pc with
        | .ok w => s.issueWord w
        | .bad cause a => .next (s.takeTrap k c { tpc := y.pc, cause := cause, addr := a.setWidth 64, val := 0 })
        | .wait _ => execFetchRefill k c s

/-- An outcome's next state changed. -/
def andThen (o : Out) (f : State → State) : Out :=
  match o with
  | .next s => .next (f s)
  | .fault r => .fault r
  | .refused r => .refused r

/-- After an issue turn: the rotation moves on, and a flow phase that was open has issued in this c-cycle. -/
def State.turned (s : State) (k c : Nat) (flowed : Bool) : State :=
  let x := s.core k
  s.setCore k { x with lastCtx := c, flow := if flowed then x.flow.map fun f => { f with issued := true } else x.flow }

/-- After the issue of an instruction, which is counted (22 Table 22-4). -/
def State.issued (s : State) (k c v : Nat) (flowed : Bool) : State := (s.turned k c flowed).count v 1 1

/-- Whether the issue turn of a context issues an instruction: not where it takes a late fault, or the fault of its fetch. -/
def State.instructionDue (s : State) (k c : Nat) : Bool :=
  let y := s.ctx k c
  y.lateEntry.isNone && (s.coreFlows k || decide (y.pc = sentinel) ||
    match s.fetchWord k c y.pc with
    | .ok _ => true
    | _ => false)

/-- The issue turn of a core: its next ready context; nothing where none is ready. -/
def State.issueCore (s : State) (k : Nat) : Out :=
  match s.nextReady k with
  | some c =>
    andThen (s.issueAt k c) fun t =>
      if s.instructionDue k c then t.issued k c (s.vdevOf k c) (s.coreFlows k) else t.turned k c (s.coreFlows k)
  | none => .next s

/-! ### A held context goes on -/

/-- What a held instruction needs before it can go on: a micro-trap (23 R356), a translation (19 R290), or nothing. -/
def State.resume (s : State) (k c : Nat) (h : Hold) : Out :=
  match h.phase with
  | .miss v va _ _ =>
    if (s.ctx k c).tlbBad || (s.lookup k v va).isSome then exec h.instr s else execTlbMissRequest k c s
  | .bankMiss n => if (s.slot k n).state = .absent then execBankMissMicrotrap k n s else exec h.instr s
  | .engineMiss =>
    if ((engineOf h.instr).map fun e => (s.core k).engineAbsent e) = some true then execRegisterMissMicrotrap k c s
    else exec h.instr s
  | .arrived false _ =>
    match h.instr, (s.core k).absentSlot with
    | .flow _ _, some n => execBankMissMicrotrap k n s
    | i, _ => exec i s
  | _ => exec h.instr s

/-- A context that is held, or whose registers or word are missing, goes on if it can. -/
def State.retry (s0 : State) (k c : Nat) : Out :=
  let s := { s0 with cur := (k, c) }
  let y := s.ctx k c
  if !s.enabled k c then .next s0
  else if y.absent then execRegisterMissMicrotrap k c s
  else if y.lateEntry.isSome then execLateFaultTrap k c s
  else
    match y.hold with
    | some h => s.resume k c h
    | none => if s.coreFlows k || s.fetchable k c then .next s0 else execFetchRefill k c s

/-! ### The clock -/

/-- A core after a c-cycle: an open flow phase counts it, and what the outputs were given is carried (10 R198, R201). -/
def Core.tick (x : Core) : Core :=
  match x.flow with
  | some f =>
    if f.opened then
      { x with
        flow := some { f with issued := false, latched := none }, flowcyc := x.flowcyc + 1, outs := x.outsNext
        outsNext := [] }
    else { x with outs := x.outsNext, outsNext := [] }
  | none => { x with outs := x.outsNext, outsNext := [] }

def tickCores (l : Sparse Core) : Sparse Core := l.map fun e => (e.1, e.2.tick)

/-- Cores with a live task of a virtual device. -/
def State.taskCores (s : State) (v : Nat) : Nat :=
  (s.cores.filter fun e => decide (e.2.task.map Task.vdev = some v)).length

/-- A running launch whose tasks are all saved by a `PREEMPT` does nothing (22 R330). -/
def State.jobSaved (s : State) (x : Stream) (j : Job) : Bool := (rcOp j.rc == 1) && j.launch.isSome && (s.part x.part).held

/-- Whether a command of a stream is running. -/
def State.streamActive (s : State) (x : Stream) : Bool :=
  let l := (x.jobs.map Prod.snd).filter fun j => decide (j.state = .running)
  let m := if x.graph.isSome && decide (1 < l.length) then l.drop 1 else l
  m.any fun j => !s.jobSaved x j

/-- Whether a virtual device is active: a live task not saved, or a stream command running (22 R330). -/
def State.deviceActive (s : State) (v : Nat) : Bool :=
  !s.deviceHeld v &&
    ((s.cores.any fun e => decide (e.2.task.map Task.vdev = some v) && e.2.savedAt.isNone &&
        decide ((s.cluster (clusOf e.1)).power ≠ .drowse)) ||
      (s.vdev v).streams.any fun t => s.streamActive t.2)

/-- `VTIME` and the c-cycles with a live task, over `n` c-cycles (22 R330, R331). -/
def State.deviceTime (s : State) (v n : Nat) : State :=
  let x := s.vdev v
  let s1 := if s.deviceActive v then s.setVdev v { x with vtime := x.vtime + BitVec.ofNat 64 n } else s
  s1.count v 2 (n * s.taskCores v)

/-- How far the clock may go: one c-cycle at a time while a flow phase is open, and not before each has issued. -/
def State.clockStep (s : State) (n : Nat) : Nat :=
  if s.cores.any fun e => s.coreFlows e.1 then if s.cores.any fun e => s.flowDue e.1 then 0 else 1 else n

/-- The clock advanced: `CYC` runs from boot phase 6 on (24 R376). -/
def State.tick (s : State) (n : Nat) : State :=
  let m := s.clockStep n
  if m = 0 || decide (s.bootPhase < 5) then s
  else
    let s1 : State := { s with cyc := s.cyc + BitVec.ofNat 64 m, cores := tickCores s.cores }
    s1.vdevs.foldl (fun s e => s.deviceTime e.1 m) s1

/-! ### Turns -/

/-- Whether the module has a core, or service core, of this number (01 R24). -/
def validCore (k : Nat) : Bool := decide (k < sites + clusterCount)

/-- An event of the opcode table, as against an instruction of a program. -/
def isEvent (i : Instr) : Bool :=
  match i with
  | .illins _ => false
  | i => (encode i).isNone

/-- Events that the module takes before its boot is over: a reset, and what the host writes; the host may read too. -/
def bootEvent (i : Instr) : Bool :=
  match i with
  | .powerOnReset => true
  | .recoveryImageWrite _ => true
  | .adminRegisterWrite _ _ => true
  | _ => false

/-- The turn where nothing else is said: a flow phase whose instruction is due, the next ready context of the core that
moved last, else a held context of it; with none, a c-cycle passes. -/
def State.freeTurn (s : State) : Out :=
  let k := s.cur.1
  if !validCore k then .fault .noSuchCore
  else
    match s.cores.find? fun e => s.flowDue e.1 with
    | some e => andThen (s.issueCore e.1) fun t => t.tick 1
    | none =>
      match s.nextReady k with
      | some _ => andThen (s.issueCore k) fun t => t.tick 1
      | none =>
        match s.nextHeld k s.cur.2 with
        | some c => andThen (s.retry k c) fun t => t.tick 1
        | none => .next (s.tick 1)

/-- A turn of the script, once the module has booted. -/
def State.takeTurn (s : State) : Turn → Out
  | .issue k n => if validCore k then andThen (s.issueCore k) fun u => u.tick n else .fault .noSuchCore
  | .retry k c n => if validCore k then andThen (s.retry k c) fun u => u.tick n else .fault .noSuchCore
  | .event i n => if isEvent i then andThen (exec i s) fun u => u.tick n else .next (s.tick n)
  | .enter id n => .next ((s.enterMesh id).tick n)
  | .link node out n => .next ((s.linkMoves node out).tick n)
  | .flaw x n => .next ((s.flawed x).tick n)
  | .route cl dst w n => .next ((s.writeRoute cl dst w).tick n)
  | .suspect k n => .next ((s.suspects k).tick n)
  | .adminRead off n => .next ((s.adminRead off).tick n)
  | .fuse x n => .next ((s.blowFuse x).tick n)
  | .phaseFails n => .next (s.tick n)
  | .far t => andThen (State.takeTurn { s with travel := true } t) fun u => { u with travel := false }

/-- A turn while the module boots: the next phase, its failure, or what the host may do meanwhile (24 R375). -/
def State.bootTurn (s : State) : Out :=
  match s.script with
  | .event i n :: r =>
    if bootEvent i then andThen (exec i { s with script := r }) fun u => u.tick n
    else .next (State.tick { s with script := r }.bootNext 1)
  | .adminRead off n :: r => State.takeTurn { s with script := r } (.adminRead off n)
  | .phaseFails n :: r =>
    let s1 := { s with script := r }
    .next ((if s.failStep = 0 then s1.phaseFailed else s1).tick n)
  | _ :: r => .next (State.tick { s with script := r }.bootNext 1)
  | [] => .next (s.bootNext.tick 1)

/-- One step of the module. -/
def State.turn (s : State) : Out :=
  if !s.booted then s.bootTurn
  else
    match s.script with
    | t :: r => State.takeTurn { s with script := r } t
    | [] => s.freeTurn

/-! ### A word placed where the next step fetches it -/

/-- A context that can issue at once. -/
def Ctx.placed (y : Ctx) : Ctx :=
  { y.discardFailed with
    live := true, hold := none, away := none, guest := none, absent := false
    pc := if y.pc = sentinel then 0 else y.pc, st := putBit y.st stFLW false }

/-- The resident region of one line that holds a word at an address (19 R284). -/
def oneWord (l : Nat) (a : Addr) (w : W32) : Resident :=
  { launch := l, base := a.toNat / 64 * 64, lines := 1, words := [(a.toNat % 64 / 4, w)] }

/-- A task on core 0 whose control context issues next, its resident region holding the word at its PC. -/
def State.placeWord (s : State) (w : W32) : State :=
  let x := s.core 0
  let t := x.task.getD { vdev := 1, part := 0, launch := 0 }
  let y := (x.ctx 0 0).placed
  let x1 : Core := { x with
    task := some t, stop := .running, stopReq := none, savedAt := none, flow := none, lastCtx := 10 }
  let s1 := (State.setCore { s with script := [.issue 0 1], cur := (0, 0), bootPhase := 7 } 0 x1).setCtx 0 0 y
  let cl := s1.cluster 0
  s1.setCluster 0 { cl with power := .run, resident := oneWord t.launch y.pc w :: cl.resident }

end Sys2Proof.Machine
end

