-- ==== Sys2Proof/Machine/Step.lean ====
section
/-! DEFINITION. One step of the module, and a word placed where the next step fetches it. -/

namespace Sys2Proof.Machine

/-- One step: the turn of `State.turn`. -/
def step (s : State) : Host.Outcome State Fault Refusal := s.turn

/-- The state with one instruction placed so that the next step fetches it (entry 12): an instruction is one word. -/
def State.withFetchWord (s : State) (_nbits w : Nat) : State := s.placeWord (BitVec.ofNat 32 w)

end Sys2Proof.Machine
end

