-- ==== Sys2Proof/Safety.lean ====
section
/-! DEFINITION. What the claims are stated in: what counts as a safe run, the invariants that a step keeps, where an
instruction issues, and what it leaves alone. -/

namespace Sys2Proof.Machine

/-- A run is safe as long as it answers next states: nothing else of this machine stops it but a turn that names a core
which the module does not have (01 R24). -/
def Safe (s : State) : Prop := ∀ n, ∃ t, Sys2Proof.core.run n s = .next t

/-- Every turn still to come names a core of the module (01 R24). -/
def Turn.onModule : Turn → Bool
  | .issue k _ => validCore k
  | .retry k _ _ => validCore k
  | .event _ _ => true
  | .enter _ _ => true
  | .link _ _ _ => true
  | .flaw _ _ => true
  | .route _ _ _ _ => true
  | .suspect _ _ => true
  | .adminRead _ _ => true
  | .fuse _ _ => true
  | .phaseFails _ => true
  | .far t => t.onModule

/-- The present turn and those to come name cores of the module. -/
def State.onModule (s : State) : Bool := validCore s.cur.1 && s.script.all Turn.onModule

/-- G memory is in its canonical form. -/
def State.memOk (s : State) : Prop := Memory.wf s.mem = true

/-- The fields of ST that a program can never see set: bits 7, 14, 15 and 32 to 63 (01 Table 1-3). -/
def stReserved : Word := 0xFFFFFFFF0000C080

/-- The reserved fields of a context's ST are 0 (00 R8). -/
def Ctx.stOk (y : Ctx) : Prop := y.st &&& stReserved = 0

/-- The instruction that the current context comes to issues here for the first time: it may execute (02 R48), and the
context holds nothing. -/
def State.issues (s : State) (m : Adm) : Prop := s.bars m = none ∧ s.me.hold = none

/-- `t` differs from `s` in the executing context alone: memory, banks, special registers of the core, every other context
and every other unit are as they were. -/
def State.onlyMe (s t : State) : Prop :=
  { t with cores := s.cores } = s ∧
  (∀ k, { t.core k with ctxs := (s.core k).ctxs } = s.core k) ∧
  ∀ k c, (k, c) ≠ s.cur → t.ctx k c = s.ctx k c

/-- As `onlyMe`, and one bank of the core's cluster apart. -/
def State.onlyMeAndBank (s t : State) (b : Nat) : Prop :=
  { t with cores := s.cores, clusters := s.clusters } = s ∧
  (∀ cl, { t.cluster cl with banks := (s.cluster cl).banks } = s.cluster cl) ∧
  (∀ cl i, (cl, i) ≠ (clusOf s.k, b) → t.bank cl i = s.bank cl i) ∧
  (∀ k, { t.core k with ctxs := (s.core k).ctxs } = s.core k) ∧
  ∀ k c, (k, c) ≠ s.cur → t.ctx k c = s.ctx k c

/-- The bytes of a bank, by address within it. -/
def Bank.byte (b : Bank) (o : Nat) : Byte := ((b.granule (o / 16)) >>> (8 * (o % 16))).setWidth 8

/-- The exact value lies outside INT64: what V records (05 R72). -/
def overflows (x : Int) : Bool := decide (x < -9223372036854775808 ∨ 9223372036854775807 < x)

/-- An instruction with a memory operand of `z` bytes issues here (in a flow phase too if `flow`), its address is aligned
and its operand reads as `v`. -/
def State.lOperand (s : State) (flow : Bool) (z : Size) (m : MemOp 12) (v : Word) : Prop :=
  s.issues (admL flow) ∧ Sys2Proof.Machine.aligned (eaOf m s.me) z.bytes = true ∧ s.lRead s.k s.me.flowing (eaOf m s.me) z.bytes = .ok v

/-- The context once its memory operand is taken: its pointer updated (02 R42), an out-of-range address noted (01 R21). -/
def State.afterL (s : State) (z : Size) (m : MemOp 12) : Ctx := (ptrAfter m s.me z.bytes).noteRange (eaOf m s.me)

/-- `v` holds the `z` bytes that `byte` gives, little-endian (00 R2), zero-extended or sign-extended (02 R39). -/
def Loaded (z : Size) (sx : Bool) (byte : Nat → Byte) (v : Word) : Prop :=
  (∀ j < z.bytes, bits v (8 * j) 8 = byte j) ∧
  ∀ j, 8 * z.bytes ≤ j → j < 64 → v.getLsbD j = (sx && v.getLsbD (8 * z.bytes - 1))

/-- The low `n` bytes of `v` have been stored at `off` of a bank; its other bytes, its full and poison bits and its holder
are as before. -/
def Bank.storedTo (b b1 : Bank) (off n : Nat) (v : Word) : Prop :=
  (∀ j < n, b1.byte (off + j) = bits v (8 * j) 8) ∧
  (∀ o < 4096, o < off ∨ off + n ≤ o → b1.byte o = b.byte o) ∧
  b1.full = b.full ∧ b1.poison = b.poison ∧ b1.state = b.state

/-- The L address `ea` reaches the bank `b` of the core's cluster, unpoisoned there (01 R28). -/
def State.reachesL (s : State) (ea : Addr) (b : Nat) : Prop :=
  outOfRange ea = false ∧ (s.slot s.k (slotOfAddr ea)).state = .attached ∧ (s.slot s.k (slotOfAddr ea)).bank = b ∧
    (s.bank (clusOf s.k) b).isPoison (granuleOf ea) = false

/-- The C address `ea` reaches the bank `b` of the core's cluster, unpoisoned there (05 R91). -/
def State.reachesC (s : State) (ea : Addr) (b : Nat) : Prop :=
  s.cBank s.k (s.vdevOf s.k s.c) ea = .ok b ∧ (s.bank (clusOf s.k) b).isPoison (granuleOf ea) = false

/-- A G or W load or atomic issues here, or has been held, and is performed now: translated to `pa`, with nothing to wait
for, in a task that is no twin, its way to the slice clear, and the slice finds nothing wrong (05 R93, R95, R96). -/
def State.reachesG (s : State) (w : Bool) (ea : Addr) (pa : Nat) (wr : Bool) (o : Order) (sc : Scope) : Prop :=
  s.bars admG = none ∧ (∀ h, s.me.hold = some h → h.phase = .held) ∧ s.xlateGW w ea wr = .ok pa ∧ s.mustWait w ea pa o sc = false ∧
    (s.taskOf s.k s.c).bind Task.twin = none ∧ s.wayClear (s.homeOf s.k s.c) pa = true ∧
    s.accessFails w (s.vdevOf s.k s.c) pa wr = none

/-- A G or W load or atomic issues here and is translated to `pa` with nothing to wait for, but something of its core or of
its slice is on the way: it travels as a packet (05 R93, 21 R314, R324). -/
def State.sendsG (s : State) (w : Bool) (ea : Addr) (pa : Nat) (wr : Bool) (o : Order) (sc : Scope) : Prop :=
  s.issues admG ∧ s.xlateGW w ea wr = .ok pa ∧ s.mustWait w ea pa o sc = false ∧ (s.taskOf s.k s.c).bind Task.twin = none ∧
    s.wayClear (s.homeOf s.k s.c) pa = false

/-- Banks, slots and every context but the executing one are as before. -/
def State.keepsL (s t : State) : Prop :=
  (∀ cl b, t.bank cl b = s.bank cl b) ∧ (∀ k n, t.slot k n = s.slot k n) ∧ ∀ k c, (k, c) ≠ s.cur → t.ctx k c = s.ctx k c

/-- Every byte of G memory outside `n` bytes at `pa` reads as before. -/
def State.keepsG (s t : State) (pa n : Nat) : Prop :=
  ∀ a, a < pa ∨ pa + n ≤ a → Memory.read t.mem a = Memory.read s.mem a

/-- The operand pointer of an access of `z` bytes is updated (02 R42), and the other pointers, ST, LC0, LC1 and RV are as
before; the PC is that of the next instruction. -/
def Ctx.went {n : Nat} (y y1 : Ctx) (m : MemOp n) (z : Nat) : Prop :=
  (∀ p : PReg, p ≠ m.p → y1.ptr p = y.ptr p) ∧ y1.ptr m.p = withAddr (y.ptr m.p) (npOf m y z) ∧ y1.pc = y.pc + 4 ∧
    y1.hold = none ∧ y1.st = y.st ∧ y1.lc0 = y.lc0 ∧ y1.lc1 = y.lc1 ∧ y1.rv = y.rv

/-- An engine instruction issues here: its engine context is present, its queue has room, and RV can take a value if it
returns one (07 R126, 01 R20, 23 R356). -/
def State.engineTakes (s : State) (e : Engine) (m : Adm) (returns : Bool) : Prop :=
  s.issues m ∧ (s.core s.k).engineAbsent e = false ∧ ((s.core s.k).queueOf e).length < e.depth ∧
    (returns = true → s.me.flag stRVF = false ∧ s.me.owed = none)

/-- Every byte of a footprint lies in the window, in an attached slot (07 R129). -/
def State.footAttached (s : State) (f : List (Nat × Nat)) : Prop :=
  ∀ r ∈ f, r.2 = 0 ∨ (r.1 + r.2 ≤ 0xC000 ∧
    ∀ n, r.1 / 4096 ≤ n → n ≤ (r.1 + r.2 - 1) / 4096 → (s.slot s.k n).state = .attached)

/-- `i` stands as the last entry of the engine's queue with its captured pointers, its context goes on, owed a value if it
returns one, and nothing else has changed. -/
def State.enqueued (s t : State) (e : Engine) (i : Instr) (a b : PReg) (returns : Bool) : Prop :=
  (∃ q : Cmd, (t.core s.k).queueOf e = (s.core s.k).queueOf e ++ [q] ∧ q.instr = i ∧ q.ctx = s.c ∧ q.pc = s.me.pc ∧
    q.pa = s.me.ptr a ∧ q.pb = s.me.ptr b ∧ q.id = (s.core s.k).cmdSeq ∧ q.ran = false) ∧
  (∀ f, f ≠ e → (t.core s.k).queueOf f = (s.core s.k).queueOf f) ∧
  (t.core s.k).enqueued e = (s.core s.k).enqueued e + 1 ∧ (t.core s.k).completed e = (s.core s.k).completed e ∧
  t.me = { s.me.advance with owed := if returns then some (s.core s.k).cmdSeq else s.me.owed } ∧ t.mem = s.mem ∧ s.keepsL t

/-- Context `c` of core `k`, at no guest's place and handling no trap, has its trap frame in the attached slot 0 of a bank
without poison (11 R208). -/
def State.frameReady (s : State) (k c : Nat) : Prop :=
  c < 11 ∧ (s.ctx k c).guest = none ∧ (s.ctx k c).flag stTRP = false ∧ (s.ctx k c).flag stFLW = false ∧
    (s.slot k 0).state = .attached ∧ (s.bank (clusOf k) (s.slot k 0).bank).poison = 0

/-- The context has entered its handler with the record of a trap (11 R208). -/
def State.trapped (t : State) (k c : Nat) (tpc : Addr) (cause addr val tvec : Word) : Prop :=
  let y := t.ctx k c
  y.tpc = tpc.setWidth 64 ∧ y.tcause = cause ∧ y.taddr = addr ∧ y.tval = val ∧ y.flag stTRP = true ∧ y.pc = addrOf tvec ∧
    y.hold = none

/-- A save area is in force for a core's absent pieces and still reads as it was written (23 R354, R356). -/
def State.restores (s : State) (k key : Nat) (e : Saved) : Prop :=
  (s.core k).restoreFrom = some key ∧ s.saved.find key = some e ∧ s.areaGood key e = true

end Sys2Proof.Machine
end

