-- ==== Sys2Proof/Certificates/Slice0/Obligations.lean ====
section
/-! DEFINITION. The statements for the provers, each from the numbered rules of the spec: what the instructions and the
events do, what they leave alone, and what every step keeps. -/

open Sys2Proof Sys2Proof.Machine

/-- Words written out from the encoding tables decode to their instructions; unassigned majors are refused (R38, R42,
R45, R46, R47). Eleven words, one of each of several formats, assembled bit by bit from Tables 2-3 to 2-12, decode to
the instructions they stand for. Every word with bits 31 to 26 between 0x1E and 0x3F is rejected, because its major
opcode is unassigned. -/
def Obligations.DecodeOfWordsFromTheTables : Prop :=
  (decode 0x00100000 = .ok .nop ∧
  decode 0x318C0008 = .ok (.add .d ⟨3, .disp, 8⟩) ∧
  decode 0x04008000 = .error .value ∧
  decode 0x14880010 = .ok (.stl .w ⟨1, .disp, 0x10⟩) ∧
  decode 0x340FFFFF = .ok (.addi 0xFFFFF) ∧
  decode 0x47FFFFFF = .ok (.b .always 0x3FFFFF) ∧
  decode 0x58460007 = .ok (.arm 6 7) ∧
  decode 0x5C500000 = .ok .yield ∧
  decode 0x6400C00A = .ok (.flow 3 10) ∧
  decode 0x00100001 = .error .reserved ∧
  decode 0x00800003 = .ok (.waite 3)) ∧
  (∀ w : W32, 0x1E ≤ (bits w 26 6).toNat → decode w = .error .major)

/-- Every well-formed instruction decodes from its own word (R38, R39, R40, R41, R42, R46). For every instruction with
an encoding and every value that its fields allow, the decoder reads from the word that the encoder writes exactly that
instruction: no bit of an encoding is dropped. -/
def Obligations.DecodeOfEncodeIsTheInstruction : Prop :=
  ∀ (i : Instr) (w : W32), i.wf = true → encode i = some w → decode w = .ok i

/-- What the decoder accepts is well formed and is the word its instruction encodes to (R38, R47). A word that decodes
to an instruction is the only word of it: the instruction is well formed and its encoding is that word, so every other
value of a reserved bit or of a rejected field is refused. -/
def Obligations.DecodedWordsHaveOneEncoding : Prop :=
  ∀ (i : Instr) (w : W32), decode w = .ok i → i.wf = true ∧ encode i = some w

/-- A step of a core runs the instruction that its next ready context fetches (R34, R268, 95 What each step holds). When
the next turn is an issue of core k, its next ready context is c, no phase is open and no late fault is due there, and
the word at its PC decodes to i, the step is exec of i with c as the executing context; the rotation then moves on to
c, one instruction is counted and the clock advances. -/
def Obligations.StepRunsTheDecodedInstruction : Prop :=
  ∀ (s : State) (k n c : Nat) (r : List Turn) (w : W32) (i : Instr),
    s.booted = true → s.script = .issue k n :: r → validCore k = true →
    ({ s with script := r } : State).nextReady k = some c →
    s.coreFlows k = false → (s.ctx k c).lateEntry = none → (s.ctx k c).pc ≠ sentinel →
    s.fetchWord k c (s.ctx k c).pc = .ok w → decode w = .ok i →
    step s = andThen (exec i { s with script := r, cur := (k, c) })
      fun t => (t.issued k c (s.vdevOf k c) false).tick n

/-- A step whose turn is an event takes that event and advances the clock (95 What each step holds, R375). Once the
module has booted, a turn that names an event of the opcode table is exec of that event, after which the clock advances
by the cycles of the turn. -/
def Obligations.StepTakesTheEvent : Prop :=
  ∀ (s : State) (i : Instr) (n : Nat) (r : List Turn),
    s.booted = true → s.script = .event i n :: r → isEvent i = true →
    step s = andThen (exec i { s with script := r }) fun t => t.tick n

/-- The registers of the spec’s field maps hold their reset values after reset (R19, R22, R132, R153, R172, R209, R271,
R272, R328, R336, R365, R372). In a context of a core site the pointers, ST, OORF, OORA and TCAUSE are 0, every operand
log entry reads 0 and every attach table entry reads 0x3FF, an EMPTY slot; MG0 is 0x2020, MG2 is 0x20020, MG3 is 128,
MG6 and MG7 are 0x3480000000800000, VC3 is 0x40, VC5 and VC6 are the FP32 infinities, CV1 is 1, and every other MG, VC
and CV register is 0; CLOAD is 0, MIGCTL is enabled with THR 6, GAP 2 and HOLD 256, and a route entry leaves at its
destination’s elevator and enters at its own; SQSIZE is 6, and SQBASE, SQHEAD, SQTAIL and SQSTAT are 0; PFLOWMAX is
1024, the grant registers of R372 are 0, CTILE is one cluster by one, and the CAPC and CAPID constants read as the
tables give them. No memory byte is listed, for lines never written read as 0; that memory without an owner reads so
too is the model’s choice (log entry 2). -/
def Obligations.ResetLeavesTheStatedValues : Prop :=
  State.reset.mem = [] ∧
  (∀ k c, k < sites → (State.reset.ctx k c).st = 0 ∧ (∀ n, (State.reset.ctx k c).ptr n = 0) ∧
    (State.reset.ctx k c).oorf = false ∧ (State.reset.ctx k c).oora = 0 ∧ (State.reset.ctx k c).tcause = 0 ∧
    ∀ e, State.reset.csrGet k c (.log e) = 0) ∧
  (∀ k n, (State.reset.slot k n).image = 0x3FF) ∧
  (∀ k, (State.reset.core k).mx.mg = mgReset ∧ (State.reset.core k).vx.vc = vcReset ∧ (State.reset.core k).cx.cv = cvReset) ∧
  mgReset.get 0 = 0x2020 ∧ mgReset.get 2 = 0x20020 ∧ mgReset.get 3 = 128 ∧ mgReset.get 6 = 0x3480000000800000 ∧
  mgReset.get 7 = 0x3480000000800000 ∧ (∀ i, i ∉ [(0 : Fin 16), 2, 3, 6, 7] → mgReset.get i = 0) ∧
  vcReset.get 3 = 0x40 ∧ vcReset.get 5 = 0xFF800000 ∧ vcReset.get 6 = 0x7F800000 ∧
  (∀ i, i ∉ [(3 : Fin 8), 5, 6] → vcReset.get i = 0) ∧ cvReset.get 1 = 1 ∧ (∀ i, i ≠ 1 → cvReset.get i = 0) ∧
  (∀ cl, (State.reset.cluster cl).cload = 0 ∧ (State.reset.cluster cl).migctl = 0x100004D ∧
    ∀ dst, (State.reset.cluster cl).route cl dst = BitVec.ofNat 64 (cl + dst * 2 ^ 14)) ∧
  (∀ v t, let x := State.reset.strm v t
    x.base = 0 ∧ x.size = 6 ∧ x.head = 0 ∧ x.tail = 0 ∧ x.err = false ∧ x.detail = 0 ∧ x.jobs = []) ∧
  (∀ p, (State.reset.part p).flowmax = 1024) ∧ (∀ v j, (State.reset.vdev v).rgrant.get 0 j = 0) ∧ State.reset.ctile = 0x81 ∧
  (∀ cl, bits (State.reset.capc cl) 16 48 = 0x0020_0800_0200) ∧ bits State.reset.capid 0 32 = 0x4C000650

/-- A step stops only where a turn names a core the module does not have; no instruction and no event stops the machine
(R24, R348, R47). From every state whose present core and whose scripted turns are cores of the module, a step answers
a next state; from any state at all, the one stop is the fault that a turn names a core the module does not have. For
every instruction or event and every state, exec answers a next state: a fault of an instruction is a trap taken, a
wait is a held context, and nothing is refused. -/
def Obligations.NothingStopsTheMachine : Prop :=
  ((∀ s : State, s.onModule = true → ∃ t, step s = .next t) ∧
  ∀ s : State, (∃ t, step s = .next t) ∨ step s = .fault .noSuchCore) ∧
  (∀ (i : Instr) (s : State), ∃ t, exec i s = .next t)

/-- G memory is in canonical form after reset (R336). The memory of the reset state lists addresses in rising order and
no byte that reads as an unlisted one does. -/
def Obligations.ResetMemoryIsCanonical : Prop :=
  State.reset.memOk

/-- G memory stays in canonical form (R336). From every state whose G memory lists its addresses strictly rising and
lists no byte 0 (what a byte that was never written reads as), every step that answers a next state answers one whose
memory has that form. -/
def Obligations.EveryStepKeepsMemoryCanonical : Prop :=
  ∀ s t : State, s.memOk → step s = .next t → t.memOk

/-- A write at a slice is read back, little-endian, and changes no other byte (R2, R336). After n bytes of a value are
written at a physical address, a read of n bytes there gives the value modulo 256^n, and every byte outside reads as
before. -/
def Obligations.SliceWriteReadsBack : Prop :=
  ∀ (s : State) (v pa n x : Nat),
    Memory.readN (s.gStore v pa n x).mem pa n = x % 256 ^ n ∧
    ∀ a, a < pa ∨ pa + n ≤ a → Memory.read (s.gStore v pa n x).mem a = Memory.read s.mem a

/-- The order of the faults of an instruction that may not execute where it stands (R48, R14, R187, R207, R361). A
service-core function in a context without SUP is PRIV; else one not admitted in a flow phase is ILLCTX in it; else an
L-space one in a migratable helper is MIGSPACE; else one of the control context is ILLCTX in a helper; and a flow
instruction outside a phase is ILLCTX. -/
def Obligations.WhereAnInstructionMayExecute : Prop :=
  ∀ (s : State) (m : Adm),
    (m.priv = true → s.me.flag stSUP = false → s.bars m = some causePriv) ∧
    (m.priv = false → m.flow = false → s.me.flag stFLW = true → s.bars m = some causeIllctx) ∧
    (m.priv = false → s.me.flag stFLW = false → m.mig = false → s.me.flag stMIG = true → s.bars m = some causeMigspace) ∧
    (m.priv = false → s.me.flag stFLW = false → s.me.flag stMIG = false → m.helper = false → s.me.flag stHLP = true →
      s.bars m = some causeIllctx) ∧
    (m.priv = false → s.me.flag stFLW = false → s.me.flag stMIG = false → s.me.flag stHLP = false → m.flowOnly = true →
      s.bars m = some causeIllctx)

/-- TRAP, DBRK and an illegal word enter the trap handler with their record and frame (R208, R211, R213, R47). In a
context that is no guest, handles no trap and is in no phase, whose frame lies in slot 0 of an attached bank without
poison: TRAP n records SWTRAP with TPC at the next word, DBRK n under debug state NONE records BREAK likewise, and an
undecodable word records ILLINS at its own address with the word in TVAL; TADDR is the PC, the PC becomes TVEC, ST.TRP
is set, P6 points past the frame, and the frame reads back A, ST, P6 and P7. -/
def Obligations.TrapsEnterTheHandler : Prop :=
  ∀ (s : State) (n : BitVec 20) (w : W32) (b : Nat),
    let y := s.me
    let f := s.c * 0x170
    s.c < 11 → y.hold = none → y.guest = none → y.flag stTRP = false → y.flag stFLW = false →
    (s.slot s.k 0).state = .attached → (s.slot s.k 0).bank = b → (s.bank (clusOf s.k) b).poison = 0 →
    let after := fun (t : State) (tpc : Addr) (cause : Byte) (val : Word) =>
      t.me.tpc = tpc.setWidth 64 ∧ t.me.tcause = cause.setWidth 64 ∧ t.me.taddr = y.pc.setWidth 64 ∧ t.me.tval = val ∧
      t.me.pc = addrOf (s.core s.k).tvec ∧ t.me.flag stTRP = true ∧
      t.me.ptr 6 = BitVec.ofNat 64 (0x0008000000000000 + (f + 32)) ∧ t.me.a = y.a ∧ t.me.ptr 7 = y.ptr 7 ∧
      t.lRead s.k false (BitVec.ofNat 48 f) 8 = .ok y.a ∧ t.lRead s.k false (BitVec.ofNat 48 (f + 8)) 8 = .ok y.st ∧
      t.lRead s.k false (BitVec.ofNat 48 (f + 16)) 8 = .ok (y.ptr 6) ∧
      t.lRead s.k false (BitVec.ofNat 48 (f + 24)) 8 = .ok (y.ptr 7) ∧ t.mem = s.mem
    (∃ t, exec (.trap n) s = .next t ∧ after t (y.pc + 4) causeSwtrap (n.setWidth 64)) ∧
    (s.debug = .none → ∃ t, exec (.dbrk n) s = .next t ∧ after t (y.pc + 4) causeBreak (n.setWidth 64)) ∧
    ∃ t, exec (.illins w) s = .next t ∧ after t y.pc causeIllins (w.setWidth 64)

/-- DBRK under debug states TRACE and HALT (R213, R222, R343). Under TRACE, with no ring set up, DBRK counts a dropped
record of the device that takes the records and goes on to the next instruction; under HALT, on a running core that
stands, every context of it at an instruction boundary or waiting, none in a phase and no transfer unit under way, and
that has no other stop to take, it stops the core with its PC at the next instruction and notifies the service core of
its cluster. -/
def Obligations.DbrkTracesOrStops : Prop :=
  ∀ (s : State) (n : BitVec 20), s.issues {} →
    (s.debug = .trace → (s.vdev (s.traceDevice (s.vdevOf s.k s.c))).trbase = 0 →
      ∃ t, exec (.dbrk n) s = .next t ∧ t.me = s.me.advance ∧
        (t.vdev (s.traceDevice (s.vdevOf s.k s.c))).trdrop = (s.vdev (s.traceDevice (s.vdevOf s.k s.c))).trdrop + 1) ∧
    (s.debug = .halt → s.stands s.k = true → (s.core s.k).stop = .running → (s.core s.k).stopReq = none →
      ∃ t, exec (.dbrk n) s = .next t ∧ t.me = s.me.advance ∧ (t.core s.k).stop = .halted ∧
        s.k ∈ (t.cluster (clusOf s.k)).breaks)

/-- ERET restores A, ST, P6, P7 and the PC from the frame below P6 (R212, R8, R209). In a handler whose frame lies
aligned within slot 0 and whose four doublewords can be read, ERET loads A, P6 and P7 from it, ST except HLP, MIG, SUP,
FLW, RVF and the reserved fields, and takes the PC from TPC; nothing else changes. -/
def Obligations.EretRestoresTheFrame : Prop :=
  ∀ (s : State) (a st p6 p7 : Word),
    let y := s.me
    let f := (addrOf (y.ptr 6) - 32).toNat
    s.issues {} → y.flag stTRP = true → f % 8 = 0 → f + 32 ≤ 0x1000 → bits y.tpc 0 2 = 0 →
    s.frameRead f = .ok a → s.frameRead (f + 8) = .ok st → s.frameRead (f + 16) = .ok p6 → s.frameRead (f + 24) = .ok p7 →
    ∃ t, exec .eret s = .next t ∧ s.onlyMe t ∧
      t.me.a = a ∧ t.me.ptr 6 = p6 ∧ t.me.ptr 7 = p7 ∧ t.me.pc = addrOf y.tpc ∧ t.me.hold = none ∧
      t.me.st = (st &&& 0xFFFF047F) ||| (y.st &&& 0x3B00) ∧ (y.st &&& stReserved = 0 → t.me.st &&& stReserved = 0) ∧
      (∀ n : PReg, n ≠ 6 → n ≠ 7 → t.me.ptr n = y.ptr n) ∧ t.me.causeRead = t.me.flag stTRP

/-- The CSR instructions read and write CSRs; a read-only CSR ignores writes (R214, R19, R209, R7, R23). For every CSR,
in a context that may execute the form: CSRR writes the CSR to A and changes nothing else but the note that TCAUSE was
read; CSRW, CSRS and CSRC leave in A the value the CSR had, having given it the new value A, old or A, old and not A as
its writable fields take it. For LC0, LC1, TPC, TADDR, TVAL and TVEC the value read afterwards is the written one cut to
the field; ST changes in its RW fields only. For every CSR that Table 11-3 gives as RO (OORF, OORA, CYC, CORE, FLOWCYC,
the attach table, VTIME, the capability registers, CLOAD and the gang-stop records) the state after a write is the state
before it. -/
def Obligations.CsrInstructionsReadAndWrite : Prop :=
  ((∀ (s : State) (r : Csr), s.issues {} →
    exec (.csrr r) s = .next (s.setMe ((s.me.noteCsr r).setA (s.csrGet s.k s.c r)).advance)) ∧
  (∀ (s : State) (r : Csr), s.issues { priv := csrPriv r } →
    let old := s.csrGet s.k s.c r
    let done := fun (v : Word) => (s.csrPut s.k s.c v r).setMe ((((s.csrPut s.k s.c v r).ctx s.k s.c).noteCsr r).setA old).advance
    exec (.csrw r) s = .next (done s.me.a) ∧
    exec (.csrs r) s = .next (done (old ||| s.me.a)) ∧
    exec (.csrc r) s = .next (done (old &&& ~~~s.me.a))) ∧
  ∀ (s : State) (k c : Nat) (v : Word),
    (s.csrPut k c v .lc0).csrGet k c .lc0 = v &&& 0xFFFF ∧ (s.csrPut k c v .lc1).csrGet k c .lc1 = v &&& 0xFFFF ∧
    ((s.ctx k c).guest = none → (s.csrPut k c v .tpc).csrGet k c .tpc = v &&& 0xFFFFFFFFFFFF ∧
      (s.csrPut k c v .taddr).csrGet k c .taddr = v ∧ (s.csrPut k c v .tval).csrGet k c .tval = v) ∧
    ((s.ctx k c).flag stHLP = false → (s.csrPut k c v .tvec).csrGet k c .tvec = v &&& 0xFFFFFFFFFFFF) ∧
    ((s.ctx k c).flag stHLP = true → s.csrPut k c v .tvec = s) ∧
    (s.csrPut k c v .st).csrGet k c .st = (v &&& 0xFFFF007F) ||| ((s.ctx k c).st &&& ~~~(0xFFFF007F : Word))) ∧
  (∀ (s : State) (k c : Nat) (v : Word) (r : Csr),
    r ∈ [Csr.oorf, .oora, .cyc, .core, .flowcyc, .vtime, .capid, .capb, .capc, .cload, .gscyc, .gstx, .gsrx] ∨ (∃ n, r = .att n) →
    s.csrPut k c v r = s)

/-- NOP, YIELD, RDTIME, RDCYC, OORCLR, SELF and MOVRV (R192, R21, R330, R20). Each goes on to the next instruction: NOP
and YIELD change nothing, RDTIME and RDCYC write VTIME and CYC to A, OORCLR clears OORF and OORA, SELF writes the word
of Table 10-3, and MOVRV with RVF set moves RV to A and clears RVF; no flag changes. -/
def Obligations.ClockAndIdentityReads : Prop :=
  ∀ s : State, s.issues {} →
    exec .nop s = .next (s.setMe s.me.advance) ∧
    exec .yield s = .next (s.setMe s.me.advance) ∧
    exec .rdtime s = .next (s.setMe { s.me.advance with a := (s.vdev (s.vdevOf s.k s.c)).vtime }) ∧
    exec .rdcyc s = .next (s.setMe { s.me.advance with a := s.cyc }) ∧
    exec .oorclr s = .next (s.setMe { s.me.advance with oorf := false, oora := 0 }) ∧
    exec .self s = .next (s.setMe { s.me.advance with a := s.selfWord }) ∧
    (s.me.flag stRVF = true →
      exec .movrv s = .next (s.setMe { s.me.advance with a := s.me.rv, st := putBit s.me.st stRVF false }))

/-- WAITE ends on a selected event latch, or with 0 on its bound (R215). With a selected latch set, WAITE writes the
selected latches to A, clears them, and sets Z and N of the value; held until its bound has run out it writes 0 and
sets Z, whatever latches are set by then. -/
def Obligations.WaiteReturnsTheLatchesItSelects : Prop :=
  ∀ (s : State) (m : BitVec 4), s.bars {} = none →
    (s.me.hold = none → s.me.latches &&& m ≠ 0 →
      ∃ t, exec (.waite m) s = .next t ∧ s.onlyMe t ∧ t.me.a = (s.me.latches &&& m).setWidth 64 ∧
        t.me.latches = s.me.latches &&& ~~~m ∧ t.me.flag stZ = false ∧ t.me.flag stN = false ∧ t.me.pc = s.me.pc + 4 ∧
        t.me.p = s.me.p) ∧
    (∀ h, s.me.hold = some h → h.phase = .poll 0 → 0 < s.me.bound →
      h.since + s.me.bound ≤ s.cyc.toNat →
      ∃ t, exec (.waite m) s = .next t ∧ t.me.a = 0 ∧ t.me.flag stZ = true ∧ t.me.pc = s.me.pc + 4)

/-- ICINV discards instruction caches by scope; TLBW writes an entry and TLBINV leaves none that it names (R36, R217,
R218, R219, R207). Every scope empties the I-cache of the issuing core and the code cache of its cluster (for CTX and
CORE the model's choice, log entry 16), CLUSTER and PART also the I-caches of every core of the cluster; the resident
regions stay as they are. In a service core: TLBW with a well-formed operand pair and V set enters the entry of P5 and A
in the TLB of the core it names, in service, or in the TLB of the cluster; TLBINV of scope CORE, with no store under way
that may have used a removed entry, leaves in the target TLB no entry that covers the address of the device in P5, or
with ALL none of the device. -/
def Obligations.CachesAndTranslations : Prop :=
  (∀ s : State, s.issues {} →
    ∀ sc : ICScope, ∃ t, exec (.icinv sc) s = .next t ∧ t.me = s.me.advance ∧
      (t.core s.k).icache = [] ∧ (t.cluster (clusOf s.k)).codeCache = [] ∧
      (sc = .cluster ∨ sc = .part → ∀ k, clusOf k = clusOf s.k → (t.core k).icache = []) ∧
      ∀ cl, (t.cluster cl).resident = (s.cluster cl).resident) ∧
  (∀ (s : State) (c : BitVec 6), s.issues admS → s.inService (s.target c) = true →
    (tlbwBad (s.me.ptr 5) s.me.a = false → getBit s.me.a 51 = true →
      (∃ t, exec (.tlbw false c) s = .next t ∧ t.me.pc = s.me.pc + 4 ∧
        tlbwEntry (s.me.ptr 5) s.me.a ∈ (t.core (s.target c)).tlb) ∧
      ∃ t, exec (.tlbw true c) s = .next t ∧ t.me.pc = s.me.pc + 4 ∧
        tlbwEntry (s.me.ptr 5) s.me.a ∈ (t.cluster (clusOf s.k)).tlb) ∧
    ∀ all : Bool, (s.tlbRemove (s.target c) .core all (s.me.ptr 5)).tlbBusy (s.target c) .core all (s.me.ptr 5) = false →
      ∃ t, exec (.tlbinv all c .core) s = .next t ∧ t.me.pc = s.me.pc + 4 ∧
        ∀ e ∈ (t.core (s.target c)).tlb, e.removedBy all (s.me.ptr 5) = false)

/-- HALT and GSTOP stop and resume cores; a core out of service answers 1 (R222, R223, R207). In a service core, for a
target in service: HALT of a running core that stands (no phase, no access sent, no transfer unit under way) and has no
other stop to take stops it, with its CYC and packet counts recorded and A = 0; HALT with RESUME lets a halted core with
an empty inbox run again with A = 0, and gives A = 1 for a core that runs; GSTOP of a partition whose cores all stand,
none being saved, leaves every one of its cores in service stopped, with A = 0; and with RESUME it leaves none of them
stopped by GSTOP. HALT, GSTOP, REVOKE, CTXSV and CTXLD of a core that is out of service only write 1 to A. -/
def Obligations.HaltAndGstopStopCores : Prop :=
  (∀ (s : State) (c : BitVec 6), s.issues admS → s.inService (s.target c) = true →
    let k := s.target c
    (s.stands k = true → (s.core k).stop = .running → (s.core k).savedAt = none → (s.core k).stopReq = none →
      ∃ t, exec (.halt false c) s = .next t ∧ (t.core k).stop = .halted ∧ (t.core k).gscyc = s.cyc ∧
        (t.core k).gstx = (s.core k).tx ∧ (t.core k).gsrx = (s.core k).rx ∧ t.me.a = 0 ∧ t.me.pc = s.me.pc + 4) ∧
    ((s.core k).stop = .halted → (s.core k).inbox = [] →
      ∃ t, exec (.halt true c) s = .next t ∧ (t.core k).stop = .running ∧ t.me.a = 0 ∧ t.me.pc = s.me.pc + 4) ∧
    ((s.core k).stop = .running → exec (.halt true c) s = .next (s.setMe (s.me.setA 1).advance)) ∧
    ((∀ j ∈ s.gang k, s.stands j = true ∧ (s.core j).saving = false) →
      ∃ t, exec (.gstop c false) s = .next t ∧ (∀ j ∈ s.gang k, (t.core j).stop ≠ .running) ∧ t.me.a = 0 ∧
        t.me.pc = s.me.pc + 4) ∧
    ((∀ j ∈ s.gang k, (s.core j).inbox = []) →
      ∃ t, exec (.gstop c true) s = .next t ∧ (∀ j ∈ s.gang k, (t.core j).stop ≠ .gstopped) ∧ t.me.a = 0 ∧
        t.me.pc = s.me.pc + 4)) ∧
  (∀ (s : State) (c : BitVec 6) (r : Bool), s.issues admS → s.inService (s.target c) = false →
    let t := s.setMe (s.me.setA 1).advance
    exec (.halt r c) s = .next t ∧ exec (.gstop c r) s = .next t ∧ exec (.revoke c) s = .next t ∧
    exec (.ctxsv c) s = .next t ∧ exec (.ctxld c) s = .next t)

/-- REVOKE frees a core; CTXSV saves one and CTXLD loads it again (R220, R123, R221, R353, R356). In a service core, for
a target in service that holds a task and whose stores under way are all settled by the abort, REVOKE leaves the target
without a task and A = 0; for a target that holds none it writes 1 to A and changes nothing else. In a service core, for
a target in service: a CTXSV whose area is mapped for writing, of a task that is not yet saved nor being stopped or
revoked, whose contexts stand once the save is requested and whose pages do not move, completes with A = 0 and the core
saved in that area. A CTXLD of a saved core that names its own area, still as it was written, its pages not moving, in
its own partition, with an empty inbox, completes with A = 0 and the core no longer saved, its state to be restored from
that area. Where the instruction sends the core a packet, no earlier one of its class to it is on its way. -/
def Obligations.RevokeSaveAndLoadOfACore : Prop :=
  (∀ (s : State) (c : BitVec 6), s.issues admS → s.inService (s.target c) = true →
    ((s.core (s.target c)).task ≠ none → s.settled (.core s.k) (.core (s.target c)) .ctrl = true → (((s.pass (.core s.k) (.core (s.target c)) .ctrl).abortTask (s.target c)).core (s.target c)).revoking = false →
      ∃ t, exec (.revoke c) s = .next t ∧ (t.core (s.target c)).task = none ∧ t.me.a = 0) ∧
    ((s.core (s.target c)).task = none → exec (.revoke c) s = .next (s.setMe (s.me.setA 1).advance))) ∧
  (∀ (s : State) (c : BitVec 6), s.issues admS → s.inService (s.target c) = true →
    let k := s.target c
    let key := areaKey (s.areaDevice k) (addrOf (s.me.ptr 5))
    let s1 := (((s.pass (.core s.k) (.core k) .ctrl).beginSave k key).recallAll k).drainAcks k
    (∀ pages, (s.core k).stop = .running → (s.core k).task ≠ none → (s.core k).savedAt = none → (s.core k).stopReq = none →
      (s.core k).revoking = false → s.areaPages key true ≠ none → s.settled (.core s.k) (.core k) .ctrl = true →
      s1.areaPages key true = some pages → s1.saveReady k = true → s1.areaMoves key true = false →
      ∃ t, exec (.ctxsv c) s = .next t ∧ (t.core k).savedAt = some key ∧ (t.core k).stopReq = none ∧ t.me.a = 0) ∧
    ∀ e, (s.core k).savedAt = some key → s.saved.find key = some e → e.saver = k → s.partOfSite k = some e.part →
      s.areaGood key e = true → s.areaMoves key false = false → s.settled (.core s.k) (.core k) .ctrl = true →
      (s.core k).inbox = [] →
      ∃ t, exec (.ctxld c) s = .next t ∧ (t.core k).savedAt = none ∧ (t.core k).restoreFrom = some key ∧
        (t.core k).mx.absent = (s.core k).mx.queue.isEmpty ∧ t.me.a = 0)

/-- REISSUE sends the store of a failed log entry again (R216, R94). For a failed entry without order qualifier whose
address is translated for writing, with no store of the context under way to its line and none that fences it, REISSUE
posts the entry with its address and data and goes on, memory being as before. -/
def Obligations.ReissuePostsAFailedEntryAgain : Prop :=
  ∀ (s : State) (e : BitVec 3) (pa : Nat), s.issues admG →
    let x := s.me.log.get e.toFin
    x.state = .failed → x.rel = false → s.xlateGW x.space x.addr true = .ok pa → s.me.postedTo x.space x.addr = false →
    s.fenced s.k s.c = false →
    ∃ t, exec (.reissue e) s = .next t ∧ t.me.pc = s.me.pc + 4 ∧ (t.me.log.get e.toFin).state = .posted ∧
      (t.me.log.get e.toFin).addr = x.addr ∧ (t.me.log.get e.toFin).data = x.data ∧ (t.me.log.get e.toFin).pa = pa ∧
      t.mem = s.mem

/-- The arithmetic functions with a memory operand give their exact results and flags (R71, R72, Table 4-2). For an
aligned operand that can be read, with m its value extended as the function says: ADD, ADC, SUB, SBC and RSB write the
exact sum or difference modulo 2^64 with C the carry (or no borrow) and V the overflow of the exact signed value;
ADDS, ADDSU, SUBS and SUBSU clamp the exact value of the n-bit operands and set V and Q when they do; CMP sets the
flags of SUB alone. The pointer is updated, the out-of-range record noted, the PC advanced, and nothing else changes. -/
def Obligations.AluOnMemoryArithmetic : Prop :=
  ∀ (s : State) (z : Size) (m : MemOp 12) (v : Word), s.lOperand true z m v →
    let y := s.afterL z m
    let x := extend true z v
    let n := 8 * z.bytes
    let c := bitNat (getBit y.st stC)
    let b := 1 - c
    let res := fun (r : Res) => Host.Outcome.next (s.setMe (y.setRes r).advance)
    let clamp := fun (lo hi e : Int) =>
      ({ val := BitVec.ofInt 64 (max lo (min hi e)), v := some (decide (e < lo ∨ hi < e)), sat := decide (e < lo ∨ hi < e) } : Res)
    exec (.add z m) s = res { val := y.a + x, c := some (decide (2 ^ 64 ≤ y.a.toNat + x.toNat)), v := some (overflows (y.a.toInt + x.toInt)) } ∧
    exec (.adc z m) s = res { val := y.a + x + BitVec.ofNat 64 c, c := some (decide (2 ^ 64 ≤ y.a.toNat + x.toNat + c)), v := some (overflows (y.a.toInt + x.toInt + c)) } ∧
    exec (.sub z m) s = res { val := y.a - x, c := some (decide (x.toNat ≤ y.a.toNat)), v := some (overflows (y.a.toInt - x.toInt)) } ∧
    exec (.sbc z m) s = res { val := y.a - x - BitVec.ofNat 64 b, c := some (decide (x.toNat + b ≤ y.a.toNat)), v := some (overflows (y.a.toInt - x.toInt - b)) } ∧
    exec (.rsb z m) s = res { val := x - y.a, c := some (decide (y.a.toNat ≤ x.toNat)), v := some (overflows (x.toInt - y.a.toInt)) } ∧
    exec (.cmp z m) s = .next (s.setMe (y.setCmp { val := y.a - x, c := some (decide (x.toNat ≤ y.a.toNat)), v := some (overflows (y.a.toInt - x.toInt)) }).advance) ∧
    exec (.adds z m) s = res (clamp (-2 ^ (n - 1)) (2 ^ (n - 1) - 1) ((y.a.setWidth n).toInt + x.toInt)) ∧
    exec (.subs z m) s = res (clamp (-2 ^ (n - 1)) (2 ^ (n - 1) - 1) ((y.a.setWidth n).toInt - x.toInt)) ∧
    exec (.addsu z m) s = res (clamp 0 (2 ^ n - 1) ((y.a.setWidth n).toNat + v.toNat)) ∧
    exec (.subsu z m) s = res (clamp 0 (2 ^ n - 1) ((y.a.setWidth n).toNat - v.toNat))

/-- The logic, shift, minimum and test functions with a memory operand (R71, R73, Table 4-2). For an aligned operand
that can be read: AND, OR, XOR and ANDN write the bitwise result; SHL, SHR, SAR, ROL and ROR move A by the low six bits
of the operand, with C the last bit moved out and unchanged for a count of 0; MIN, MAX, MINU and MAXU write the lesser
or greater of A and the operand; TST sets Z and N of the conjunction alone. C and V are otherwise unchanged. -/
def Obligations.AluOnMemoryLogicAndShifts : Prop :=
  ∀ (s : State) (z : Size) (m : MemOp 12) (v : Word), s.lOperand true z m v →
    let y := s.afterL z m
    let x := extend true z v
    let k := v.toNat % 64
    let res := fun (r : Res) => Host.Outcome.next (s.setMe (y.setRes r).advance)
    let last := fun (b : Bool) => if k = 0 then none else some b
    exec (.and z m) s = res { val := y.a &&& v } ∧ exec (.or z m) s = res { val := y.a ||| v } ∧
    exec (.xor z m) s = res { val := y.a ^^^ v } ∧ exec (.andn z m) s = res { val := y.a &&& ~~~v } ∧
    exec (.shl z m) s = res { val := y.a <<< k, c := last (y.a.getLsbD (64 - k)) } ∧
    exec (.shr z m) s = res { val := y.a >>> k, c := last (y.a.getLsbD (k - 1)) } ∧
    exec (.sar z m) s = res { val := y.a.sshiftRight k, c := last (y.a.getLsbD (k - 1)) } ∧
    exec (.rol z m) s = res { val := y.a.rotateLeft k, c := last ((y.a.rotateLeft k).getLsbD 0) } ∧
    exec (.ror z m) s = res { val := y.a.rotateRight k, c := last ((y.a.rotateRight k).getLsbD 63) } ∧
    exec (.min z m) s = res { val := if y.a.slt x then y.a else x } ∧
    exec (.max z m) s = res { val := if y.a.slt x then x else y.a } ∧
    exec (.minu z m) s = res { val := if y.a < v then y.a else v } ∧
    exec (.maxu z m) s = res { val := if y.a < v then v else y.a } ∧
    exec (.tst z m) s = .next (s.setMe (y.setCmp { val := y.a &&& v }).advance)

/-- Multiplication and division with a memory operand; a division by zero traps (R71, R74, R208, Table 4-2). For an
aligned operand that can be read: MUL writes the low 64 bits of the product with V the signed overflow, MULH and MULHU
the high 64; for an operand other than 0, DIV and REM give the signed quotient rounded toward zero and its remainder,
V set only for the one quotient outside INT64, and DIVU and REMU the unsigned ones with V clear. For each of DIV,
DIVU, REM and REMU with a readable operand 0 and a context that is no guest, handles no trap and has its frame in the
attached slot 0 of an unpoisoned bank: the trap records DIVZ at the PC, TADDR is the effective address and TVAL is A;
A and the operand pointer, unless it is P6, are unchanged. -/
def Obligations.AluOnMemoryProducts : Prop :=
  (∀ (s : State) (z : Size) (m : MemOp 12) (v : Word), s.lOperand false z m v →
    let y := s.afterL z m
    let x := extend true z v
    let res := fun (r : Res) => Host.Outcome.next (s.setMe (y.setRes r).advance)
    let ov := decide (y.a.toInt = -2 ^ 63 ∧ x.toInt = -1)
    exec (.mul z m) s = res { val := y.a * x, v := some (overflows (y.a.toInt * x.toInt)) } ∧
    exec (.mulh z m) s = res { val := BitVec.ofInt 64 (y.a.toInt * x.toInt / 2 ^ 64) } ∧
    exec (.mulhu z m) s = res { val := BitVec.ofNat 64 (y.a.toNat * v.toNat / 2 ^ 64) } ∧
    (v ≠ 0 →
      exec (.div z m) s = res { val := y.a.sdiv x, v := some ov } ∧
      exec (.rem z m) s = res { val := y.a.srem x, v := some ov } ∧
      exec (.divu z m) s = res { val := y.a / v, v := some false } ∧
      exec (.remu z m) s = res { val := y.a % v, v := some false })) ∧
  (∀ (s : State) (z : Size) (m : MemOp 12) (i : Instr), i ∈ [Instr.div z m, .divu z m, .rem z m, .remu z m] →
    s.lOperand false z m 0 → s.c < 11 → s.me.guest = none → s.me.flag stTRP = false →
    (s.slot s.k 0).state = .attached → (s.bank (clusOf s.k) (s.slot s.k 0).bank).poison = 0 →
    ∃ t, exec i s = .next t ∧ t.me.tpc = s.me.pc.setWidth 64 ∧ t.me.tcause = causeDivz.setWidth 64 ∧
      t.me.taddr = (eaOf m s.me).setWidth 64 ∧ t.me.tval = s.me.a ∧ t.me.a = s.me.a ∧
      (∀ p : PReg, p ≠ 6 → t.me.ptr p = s.me.ptr p))

/-- The immediate functions give their exact results and flags (R75, Table 4-3). ADDI, RSBI and CMPI act with the
sign-extended immediate as ADD, RSB and CMP do, ADDSI clamps to INT64 with V and Q, MULI multiplies, ANDI, ORI, XORI and
TSTI use the zero-extended immediate, and SHLI, SHRI, SARI and RORI shift by the six-bit count; LI loads the
sign-extended immediate, LIH shifts A left by 20 and inserts it, and neither changes a flag. -/
def Obligations.ImmediateAlu : Prop :=
  ∀ (s : State) (i : BitVec 20) (h : BitVec 6), s.issues {} →
    let y := s.me
    let x : Word := i.signExtend 64
    let u : Word := i.setWidth 64
    let k := h.toNat
    let res := fun (r : Res) => Host.Outcome.next (s.setMe (y.setRes r).advance)
    let last := fun (b : Bool) => if k = 0 then none else some b
    let e := y.a.toInt + x.toInt
    exec (.addi i) s = res { val := y.a + x, c := some (decide (2 ^ 64 ≤ y.a.toNat + x.toNat)), v := some (overflows e) } ∧
    exec (.addsi i) s = res { val := BitVec.ofInt 64 (max (-2 ^ 63) (min (2 ^ 63 - 1) e)), v := some (overflows e), sat := overflows e } ∧
    exec (.rsbi i) s = res { val := x - y.a, c := some (decide (y.a.toNat ≤ x.toNat)), v := some (overflows (x.toInt - y.a.toInt)) } ∧
    exec (.muli i) s = res { val := y.a * x, v := some (overflows (y.a.toInt * x.toInt)) } ∧
    exec (.andi i) s = res { val := y.a &&& u } ∧ exec (.ori i) s = res { val := y.a ||| u } ∧
    exec (.xori i) s = res { val := y.a ^^^ u } ∧
    exec (.shli h) s = res { val := y.a <<< k, c := last (y.a.getLsbD (64 - k)) } ∧
    exec (.shri h) s = res { val := y.a >>> k, c := last (y.a.getLsbD (k - 1)) } ∧
    exec (.sari h) s = res { val := y.a.sshiftRight k, c := last (y.a.getLsbD (k - 1)) } ∧
    exec (.rori h) s = res { val := y.a.rotateRight k, c := last ((y.a.rotateRight k).getLsbD 63) } ∧
    exec (.cmpi i) s = .next (s.setMe (y.setCmp { val := y.a - x, c := some (decide (x.toNat ≤ y.a.toNat)), v := some (overflows (y.a.toInt - x.toInt)) }).advance) ∧
    exec (.tsti i) s = .next (s.setMe (y.setCmp { val := y.a &&& u }).advance) ∧
    exec (.li i) s = .next (s.setMe { y.advance with a := x }) ∧
    exec (.lih i) s = .next (s.setMe { y.advance with a := y.a <<< 20 ||| u })

/-- The unary functions replace A and set Z and N (R76, Table 4-4). NOT, NEG, ABS, NEGS, ABSS, CLZ, CTZ, POPC, BSWAP and
the six extensions write the function of A: the counts of leading zeros, trailing zeros and ones are those of the
64-bit value, byte j of BSWAP is byte 7 - j of A, and NEG, ABS, NEGS and ABSS of the most negative value overflow or
clamp as stated. -/
def Obligations.UnaryFunctions : Prop :=
  ∀ s : State, s.issues {} →
    let y := s.me
    let res := fun (r : Res) => Host.Outcome.next (s.setMe (y.setRes r).advance)
    let low := decide (y.a.toInt = -2 ^ 63)
    exec .not s = res { val := ~~~y.a } ∧
    exec .neg s = res { val := -y.a, c := some (decide (y.a = 0)), v := some low } ∧
    exec .abs s = res { val := if y.a.toInt < 0 then -y.a else y.a, v := some low } ∧
    exec .negs s = res { val := BitVec.ofInt 64 (min (2 ^ 63 - 1) (-y.a.toInt)), v := some low, sat := low } ∧
    exec .abss s = res { val := BitVec.ofInt 64 (min (2 ^ 63 - 1) y.a.toInt.natAbs), v := some low, sat := low } ∧
    (∃ n, exec .clz s = res { val := BitVec.ofNat 64 n } ∧ n ≤ 64 ∧ y.a.toNat < 2 ^ (64 - n) ∧ (n < 64 → y.a.getLsbD (63 - n) = true)) ∧
    (∃ n, exec .ctz s = res { val := BitVec.ofNat 64 n } ∧ n ≤ 64 ∧ y.a.toNat % 2 ^ n = 0 ∧ (n < 64 → y.a.getLsbD n = true)) ∧
    exec .popc s = res { val := BitVec.ofNat 64 ((List.range 64).countP fun j => y.a.getLsbD j) } ∧
    (∃ w : Word, exec .bswap s = res { val := w } ∧ ∀ j < 64, w.getLsbD j = y.a.getLsbD (8 * (7 - j / 8) + j % 8)) ∧
    exec .sextb s = res { val := BitVec.ofInt 64 (y.a.setWidth 8).toInt } ∧
    exec .sexth s = res { val := BitVec.ofInt 64 (y.a.setWidth 16).toInt } ∧
    exec .sextw s = res { val := BitVec.ofInt 64 (y.a.setWidth 32).toInt } ∧
    exec .zextb s = res { val := y.a &&& 0xFF } ∧ exec .zexth s = res { val := y.a &&& 0xFFFF } ∧
    exec .zextw s = res { val := y.a &&& 0xFFFFFFFF }

/-- The pointer functions move addresses and strides as Table 4-7 gives (R80, R17, Table 4-7). PMOV copies the image;
PADDI and PADDA give Pn the stride of Pm and its address plus the immediate or A, modulo 2^48; PSTR replaces the
stride alone; PGET and PSET move the image to and from A; PSUB writes the sign-extended difference of the addresses to
A with Z and N. Nothing else changes. -/
def Obligations.PointerFunctions : Prop :=
  ∀ (s : State) (n m : PReg) (i : BitVec 16), s.issues {} →
    let y := s.me
    let set := fun (w : Word) => Host.Outcome.next (s.setMe ({ y with p := y.p.set n.toNat w n.isLt }).advance)
    exec (.pmov n m) s = set (y.ptr m) ∧
    exec (.paddi n m i) s = set ((y.ptr m &&& 0xFFFF000000000000) ||| ((y.ptr m + i.signExtend 64) &&& 0xFFFFFFFFFFFF)) ∧
    exec (.padda n m) s = set ((y.ptr m &&& 0xFFFF000000000000) ||| ((y.ptr m + y.a) &&& 0xFFFFFFFFFFFF)) ∧
    exec (.pstr n i) s = set ((i.setWidth 64 <<< 48) ||| (y.ptr n &&& 0xFFFFFFFFFFFF)) ∧
    exec (.pget n) s = .next (s.setMe { y.advance with a := y.ptr n }) ∧
    exec (.pset n) s = set y.a ∧
    ∃ d : Word, d = ((y.ptr n - y.ptr m).setWidth 48).signExtend 64 ∧
      exec (.psub n m) s = .next (s.setMe ({ y.setZN d with a := d }).advance)

/-- CALL writes the address of the next instruction to P7, its stride 0, and transfers control (R82). Where it may
execute, CALL writes zext(PC + 4) to P7 and sets the PC to PC + 4 × sext(off22), and changes nothing else. That it is
not admitted in a flow phase, and its encoding, are clauses as well. -/
def Obligations.CallWritesP7AndBranches : Prop :=
  (∀ (s : State) (o : BitVec 22), s.issues {} →
    exec (.call o) s = .next (s.setMe { s.me with
      p := s.me.p.set 7 ((s.me.pc + 4).setWidth 64), pc := s.me.pc + 4 * o.signExtend 48, hold := none })) ∧
  (∀ (s : State) (o : BitVec 22), s.me.flag stFLW = true →
    exec (.call o) s = .next (s.takeTrap s.k s.c
      { tpc := s.me.pc, cause := causeIllctx, addr := s.me.pc.setWidth 64, val := wordOf (.call o) })) ∧
  ∀ o : BitVec 22, encode (.call o) = some ((0x12 : BitVec 6) ++ (0 : BitVec 4) ++ o : BitVec 32)

/-- B, JMP, RET, LOOP and DBNZ transfer control as their rules say (R81, R83, R84, R44, R35). B goes to PC + 4 ×
sext(off22) when its condition on the flags holds and to PC + 4 otherwise; JMP goes to its pointer address plus the
sign-extended displacement and RET to the address in P7, where these are multiples of 4; LOOP loads its counter from
A[15:0] and skips the body when it is 0; DBNZ decrements its counter modulo 2^16 and goes back while it is not 0. -/
def Obligations.BranchesJumpsAndLoops : Prop :=
  ∀ (s : State) (c : Cond) (o : BitVec 22) (d : BitVec 16) (n : PReg) (k : Bool), s.issues {} →
    let y := s.me
    let jump := fun (y1 : Ctx) (t : Addr) => Host.Outcome.next (s.setMe { y1 with pc := t, hold := none })
    let Z := getBit y.st 0; let N := getBit y.st 1; let C := getBit y.st 2; let V := getBit y.st 3; let Q := getBit y.st 4
    let holds := match c with
      | .eq => Z | .ne => !Z | .lt => N != V | .ge => N == V | .le => Z || (N != V) | .gt => !Z && (N == V)
      | .ult => !C | .uge => C | .ule => !C || Z | .ugt => C && !Z | .neg => N | .pos => !N | .ov => V | .nov => !V
      | .sat => Q | .always => true
    let lc := if k then y.lc1 else y.lc0
    let back : Addr := y.pc + 4 * d.signExtend 48
    let setLc := fun (v : BitVec 16) => if k then { y with lc1 := v } else { y with lc0 := v }
    exec (.b c o) s = jump y (if holds then y.pc + 4 * o.signExtend 48 else y.pc + 4) ∧
    (bits (addrOf (y.ptr n) + d.signExtend 48) 0 2 = 0 → exec (.jmp n d) s = jump y (addrOf (y.ptr n) + d.signExtend 48)) ∧
    (bits (addrOf (y.ptr 7)) 0 2 = 0 → exec .ret s = jump y (addrOf (y.ptr 7))) ∧
    exec (.loop k d) s = jump (setLc (bits y.a 0 16)) (if bits y.a 0 16 = 0 then back else y.pc + 4) ∧
    exec (.dbnz k d) s = jump (setLc (lc - 1)) (if lc = 1 then y.pc + 4 else back)

/-- The scalar float functions write one rounded result to A; FCMP sets the flags of its order (R77, R78, R79, R16, R56,
R58, Table 4-5, Table 4-6). For an aligned operand that can be read, with a the FP32 value of A[31:0] and m that of
the operand: FADD, FSUB, FRSUB, FMUL, FDIV, FMIN, FMAX, FSQRT and the conversions write the result rounded by ST.RM to
A with the bits above the format 0, and no flag changes; FCVTI writes the clamped INT32 sign-extended and sets Q when
it clamps or meets a NaN. The rounded operations are those of the model’s exact arithmetic (03). For an aligned FP32
operand that can be read, FCMP compares A with it: equal sets Z and C, less sets N, greater sets C, and unordered sets
C and V; the other flags of the four are cleared and A is unchanged. -/
def Obligations.ScalarFloatingPoint : Prop :=
  (∀ (s : State) (z : Size) (m : MemOp 12) (v : Word), s.lOperand false z m v →
    let y := s.afterL z m
    let a := FFmt.unpack .f32 (y.a.toNat % 2 ^ 32)
    let x := FFmt.unpack .f32 v.toNat
    let w := fun (n : Nat) => Host.Outcome.next (s.setMe { y.advance with a := BitVec.ofNat 64 n })
    (z = .w →
      exec (.fadd m) s = w (fAdd .f32 y.rm a x) ∧ exec (.fsub m) s = w (fSub .f32 y.rm a x) ∧
      exec (.frsub m) s = w (fSub .f32 y.rm x a) ∧ exec (.fmul m) s = w (fMul .f32 y.rm a x) ∧
      exec (.fdiv m) s = w (fDiv .f32 y.rm a x) ∧ exec (.fmin m) s = w (FFmt.pack .f32 y.rm (FVal.min a x)) ∧
      exec (.fmax m) s = w (FFmt.pack .f32 y.rm (FVal.max a x)) ∧ exec (.fsqrt m) s = w (fSqrt .f32 y.rm x) ∧
      exec (.frndbf m) s = w (FFmt.pack .bf16 y.rm x) ∧ exec (.frndhf m) s = w (FFmt.pack .f16 y.rm x) ∧
      exec (.fcvtf m) s = w (FFmt.pack .f32 y.rm (FVal.int (v.setWidth 32).toInt)) ∧
      exec (.fcvtuf m) s = w (FFmt.pack .f32 y.rm (FVal.int v.toNat)) ∧
      exec (.fcvti m) s = .next (s.setMe { y.advance with
        a := BitVec.ofInt 64 (floatToInt y.rm 32 x).1
        st := if (floatToInt y.rm 32 x).2 then putBit y.st stQ true else y.st })) ∧
    (z = .h →
      exec (.fcvtbf m) s = w (FFmt.pack .f32 y.rm (FFmt.unpack .bf16 v.toNat)) ∧
      exec (.fcvthf m) s = w (FFmt.pack .f32 y.rm (FFmt.unpack .f16 v.toNat)))) ∧
  (∀ (s : State) (m : MemOp 12) (v : Word), s.lOperand false .w m v →
    let a := FFmt.unpack .f32 (s.me.a.toNat % 2 ^ 32)
    let x := FFmt.unpack .f32 v.toNat
    ∃ t, exec (.fcmp m) s = .next t ∧ s.onlyMe t ∧ t.me.a = s.me.a ∧ t.me.pc = s.me.pc + 4 ∧
      t.me.flag stZ = decide (FVal.cmp a x = some .eq) ∧ t.me.flag stN = decide (FVal.cmp a x = some .lt) ∧
      t.me.flag stC = decide (FVal.cmp a x ≠ some .lt) ∧ t.me.flag stV = decide (FVal.cmp a x = none) ∧
      (∀ i, 4 ≤ i → t.me.flag i = s.me.flag i))

/-- What the scalar instructions leave unchanged (R15, R19, R71, R75, R77, R80, R42, R21). Whenever the executing
context is replaced and nothing else, as by every instruction on registers and every one that only reads L space: every
byte of G memory and every bank reads as before, every other context, the special registers of every core and every
other unit are as before. For every ALU, compare and float instruction whose operand can be read (and is not 0 for a
division): the next state differs in the executing context alone; there every pointer but that of the operand, whose
stride is kept, LC0, LC1, RV, the trap record, the log and the latches are unchanged, the PC is the next instruction,
and ST changes in Z, N, C, V and Q only. -/
def Obligations.WhatTheScalarInstructionsKeep : Prop :=
  (∀ (s : State) (y : Ctx), s.onlyMe (s.setMe y) ∧ (s.setMe y).me = y ∧
    (∀ a, Memory.read (s.setMe y).mem a = Memory.read s.mem a) ∧
    (∀ cl b, (s.setMe y).bank cl b = s.bank cl b) ∧ (∀ k n, (s.setMe y).slot k n = s.slot k n)) ∧
  (∀ (s t : State) (z : Size) (m : MemOp 12) (v : Word) (i : Instr),
    i ∈ [Instr.add z m, .adc z m, .sub z m, .sbc z m, .rsb z m, .adds z m, .addsu z m, .subs z m, .subsu z m, .and z m,
      .or z m, .xor z m, .andn z m, .shl z m, .shr z m, .sar z m, .rol z m, .ror z m, .min z m, .max z m, .minu z m,
      .maxu z m, .cmp z m, .tst z m, .mul z m, .mulh z m, .mulhu z m, .div z m, .divu z m, .rem z m, .remu z m] ∨
      (z = .w ∧ i ∈ [Instr.fadd m, .fsub m, .frsub m, .fmul m, .fdiv m, .fmin m, .fmax m, .fcmp m, .fsqrt m, .frndbf m,
        .frndhf m, .fcvti m, .fcvtf m, .fcvtuf m]) ∨ (z = .h ∧ i ∈ [Instr.fcvtbf m, .fcvthf m]) →
    s.lOperand false z m v → v ≠ 0 → exec i s = .next t →
    s.onlyMe t ∧ (∀ p : PReg, p ≠ m.p → t.me.ptr p = s.me.ptr p) ∧
      bits (t.me.ptr m.p) 48 16 = bits (s.me.ptr m.p) 48 16 ∧ addrOf (t.me.ptr m.p) = npOf m s.me z.bytes ∧
      t.me.pc = s.me.pc + 4 ∧ t.me.lc0 = s.me.lc0 ∧ t.me.lc1 = s.me.lc1 ∧ t.me.rv = s.me.rv ∧ t.me.tpc = s.me.tpc ∧
      t.me.tcause = s.me.tcause ∧ t.me.taddr = s.me.taddr ∧ t.me.tval = s.me.tval ∧ t.me.log = s.me.log ∧
      t.me.latches = s.me.latches ∧ (∀ j, 5 ≤ j → t.me.flag j = s.me.flag j) ∧
      ∀ a, Memory.read t.mem a = Memory.read s.mem a)

/-- The first out-of-range L access is recorded until OORCLR clears it (R21). The record of an out-of-range L access is
written when OORF is clear and left alone while it is set; an access within the window never changes it; OORCLR clears
both registers; OORF reads as one bit and OORA as 48. -/
def Obligations.OutOfRangeRecord : Prop :=
  (∀ (y : Ctx) (ea : Addr), outOfRange ea = true → y.oorf = false →
    (y.noteRange ea).oorf = true ∧ (y.noteRange ea).oora = ea) ∧
  (∀ (y : Ctx) (ea : Addr), y.oorf = true → y.noteRange ea = y) ∧
  (∀ (y : Ctx) (ea : Addr), outOfRange ea = false → y.noteRange ea = y) ∧
  (∀ (s : State) (z : Size) (sx : Bool) (m : MemOp 15), s.issues (admL true) → aligned (eaOf m s.me) z.bytes = true →
    outOfRange (eaOf m s.me) = true →
    ∃ t, exec (.ldl z sx m) s = .next t ∧ t.me.a = 0 ∧ t.me.oorf = true ∧
      t.me.oora = if s.me.oorf then s.me.oora else eaOf m s.me) ∧
  (∀ s : State, s.issues {} → ∃ t, exec .oorclr s = .next t ∧ t.me.oorf = false ∧ t.me.oora = 0) ∧
  ∀ (s : State) (k c : Nat), s.csrGet k c .oorf = BitVec.ofNat 64 (bitNat (s.ctx k c).oorf) ∧
    s.csrGet k c .oora = (s.ctx k c).oora.setWidth 64

/-- LDL, STL, LDC and STC read and write the bytes of one bank (R87, R28, R88, R91, R39, R2, R42). For an aligned
address that reaches an unpoisoned granule of a bank: LDL and LDC leave in A the bytes there, little-endian and extended
as the form says, and change the executing context alone; STL and STC store the low bytes of A there, and every other
byte of that bank, every other bank and every other context is unchanged. Out of range, LDL loads 0 and STL stores
nothing. -/
def Obligations.BankLoadsAndStores : Prop :=
  ∀ (s : State) (z : Size) (sx : Bool) (m : MemOp 15) (b : Nat),
    let y := s.me
    let ea := eaOf m y
    let y1 := ptrAfter m y z.bytes
    let cl := clusOf s.k
    let byte := fun j => (s.bank cl b).byte (offsetOf ea + j)
    aligned ea z.bytes = true →
    (s.issues (admL true) → outOfRange ea = true →
      exec (.ldl z sx m) s = .next (s.setMe ((y1.noteRange ea).setA 0).advance) ∧
      exec (.stl z m) s = .next (s.setMe (y1.noteRange ea).advance)) ∧
    (s.issues (admL true) → s.reachesL ea b →
      (∃ v, Loaded z sx byte v ∧ exec (.ldl z sx m) s = .next (s.setMe (y1.setA v).advance)) ∧
      ∃ t, exec (.stl z m) s = .next t ∧ t.me = y1.advance ∧ s.onlyMeAndBank t b ∧
        (s.bank cl b).storedTo (t.bank cl b) (offsetOf ea) z.bytes y.a) ∧
    (s.issues admC → s.reachesC ea b →
      (∃ v, Loaded z sx byte v ∧ exec (.ldc z sx m) s = .next (s.setMe (y1.setA v).advance)) ∧
      ∃ t, exec (.stc z m) s = .next t ∧ t.me = y1.advance ∧ s.onlyMeAndBank t b ∧
        (s.bank cl b).storedTo (t.bank cl b) (offsetOf ea) z.bytes y.a)

/-- LDG and LDW, ordered or not, load the bytes at their physical address (R93, R95, R97, R39, R2). For an aligned
address that is translated and whose access has nothing to wait for, a clear way and no fault at the slice: A becomes
the bytes of G memory at the physical address, extended as the form says, the pointer is updated and the next
instruction follows; G memory, the banks, the slots and every other context are unchanged. A LDW of either form orders
as an acquire and release. Where the way is not clear an LDG waits with its request under way in a packet, and it
completes with the value of its answer. -/
def Obligations.GlobalLoadsReadTheirBytes : Prop :=
  (∀ (s : State) (z : Size) (sx : Bool) (m : MemOp 15) (since : Nat) (v : Word), s.bars admG = none →
    (s.taskOf s.k s.c).bind Task.twin = none →
    s.me.hold = some { instr := .ldg z sx m, since := since, phase := .answered none v } →
    ∃ t, exec (.ldg z sx m) s = .next t ∧ t.me.a = extend sx z v ∧ s.me.went t.me m z.bytes ∧ t.mem = s.mem ∧ s.keepsL t) ∧
  ∀ (s : State) (z : Size) (sx : Bool) (o : Order) (sc : Scope) (m : MemOp 15) (m3 : MemOp 13) (pa : Nat),
    let loads := fun (i : Instr) (n : Nat) (x : MemOp n) =>
      ∃ t, exec i s = .next t ∧ Loaded z sx (fun j => Memory.read s.mem (pa + j)) t.me.a ∧ s.me.went t.me x z.bytes ∧
        t.me.log = s.me.log ∧ t.mem = s.mem ∧ s.keepsL t
    (aligned (eaOf m s.me) z.bytes = true →
      (s.reachesG false (eaOf m s.me) pa false .none .part → loads (.ldg z sx m) 15 m) ∧
      (s.reachesG true (eaOf m s.me) pa false .ar .dev → loads (.ldw z sx m) 15 m) ∧
      (s.sendsG false (eaOf m s.me) pa false .none .part →
        ∃ t r, exec (.ldg z sx m) s = .next t ∧ t.me.phase = some (.asked s.packetSeq) ∧ t.me.pc = s.me.pc ∧ t.mem = s.mem ∧
          (t.packets.find s.packetSeq).map (fun p => (p.dst, p.cls, p.payload)) = some (.slice (sliceOf pa), .req, .ask r) ∧
          r.pa = pa ∧ r.ea = eaOf m s.me ∧ r.core = s.k ∧ r.ctx = s.c)) ∧
    (aligned (eaOf m3 s.me) z.bytes = true →
      (s.reachesG false (eaOf m3 s.me) pa false o sc → loads (.ldgOrdered z sx o sc m3) 13 m3) ∧
      (s.reachesG true (eaOf m3 s.me) pa false .ar .dev → loads (.ldwOrdered z sx o m3) 13 m3))

/-- STG and STW, ordered or not, enter their store in the lowest free log entry and go on (R94, R95, R97, R22). For an
aligned address translated for writing, with no store of the context under way to the line or fencing it and a free
entry: the store stands in the lowest free entry with its address, physical address, size and the low bytes of A,
posted at once unless it orders as a release; A, the other entries and all of memory are unchanged. -/
def Obligations.GlobalStoresArePosted : Prop :=
  ∀ (s : State) (z : Size) (o : Order) (sc : Scope) (m : MemOp 15) (m3 : MemOp 13) (pa : Nat) (e : Fin 8),
    freeEntry s.me = some e →
    let posts := fun (i : Instr) (w : Bool) (n : Nat) (x : MemOp n) (o : Order) =>
      s.issues admG → aligned (eaOf x s.me) z.bytes = true → s.xlateGW w (eaOf x s.me) true = .ok pa →
      s.me.postedTo w (eaOf x s.me) = false → s.fenced s.k s.c = false →
      ∃ t, exec i s = .next t ∧ t.mem = s.mem ∧ s.keepsL t ∧ t.me.a = s.me.a ∧ s.me.went t.me x z.bytes ∧
        (∀ f : Fin 8, f ≠ e → t.me.log.get f = s.me.log.get f) ∧
        let l := t.me.log.get e
        l.busy = true ∧ (orderRel o = false → l.state = .posted) ∧ l.space = w ∧ l.addr = eaOf x s.me ∧ l.pa = pa ∧
          l.size = z ∧ l.data = lowBytes s.me.a z.bytes
    posts (.stg z m) false 15 m .none ∧ posts (.stgOrdered z o sc m3) false 13 m3 o ∧
    posts (.stw z m) true 15 m .ar ∧ posts (.stwOrdered z o m3) true 13 m3 .ar

/-- The full/empty instructions read, write, fill and empty granules (R99, R100, R101, R102, R91). On an unpoisoned
granule of a bank on which nothing waits: the waiting loads leave its bytes in A once it is full, and their .c forms
empty it; a load of an empty granule is held; STLF and STCF store and set it full; FESET, FECLR and FETST set, clear and
read its bit. Out of range the L loads and FETST give 0 and FESET and FECLR do nothing. An STLF that fills a granule on
which one context waits completes that load with the bytes now there, and the granule stays full unless it is a .c form.
-/
def Obligations.FullEmptyAccesses : Prop :=
  ∀ (s : State) (z : Size) (m : MemOp 12) (b : Nat),
    let y := s.me
    let ea := eaOf m y
    let y1 := ptrAfter m y z.bytes
    let cl := clusOf s.k
    let g := granuleOf ea
    let bk := s.bank cl b
    let byte := fun j => bk.byte (offsetOf ea + j)
    let setBit := fun (t : State) (x : Bank) (f : Bool) => s.onlyMeAndBank t b ∧ t.bank cl b = x.setFull g f
    let take := fun (i ic : Instr) => bk.isFull g = true →
      (∃ v, Loaded z false byte v ∧ exec i s = .next (s.setMe (y1.setA v).advance)) ∧
      (s.feWaiters cl b g = [] → ∃ t v, Loaded z false byte v ∧ exec ic s = .next t ∧ t.me = (y1.setA v).advance ∧
        setBit t bk false)
    let waits := fun (i : Instr) => bk.isFull g = false →
      ∃ h, exec i s = .next (s.setMe { y with hold := some { instr := i, since := s.cyc.toNat, phase := .poll h } })
    (s.issues (admL false) → aligned ea z.bytes = true → s.reachesL ea b →
      take (.ldlf z m) (.ldlfC z m) ∧ waits (.ldlf z m) ∧ waits (.ldlfC z m) ∧
      (s.feWaiters cl b g = [] → ∃ t, exec (.stlf z m) s = .next t ∧ t.me = y1.advance ∧ s.onlyMeAndBank t b ∧
        bk.storedTo { t.bank cl b with full := bk.full } (offsetOf ea) z.bytes y.a ∧
        (t.bank cl b).full = (bk.setFull g true).full) ∧
      ∀ w : FeWaiter, bk.isFull g = false → s.feWaiters cl b g = [w] → (w.core, w.ctx) ≠ s.cur → s.feLate w = false →
        let x := s.ctx w.core w.ctx
        let n := w.form.size
        let wa := eaOf w.form.operand x
        granuleOf wa = g → aligned wa n.bytes = true →
        ∃ t v, exec (.stlf z m) s = .next t ∧ t.me = y1.advance ∧
          Loaded n false (fun j => (t.bank cl b).byte (offsetOf wa + j)) v ∧
          t.ctx w.core w.ctx = ((ptrAfter w.form.operand x n.bytes).setA v).advance ∧
          bk.storedTo { t.bank cl b with full := bk.full } (offsetOf ea) z.bytes y.a ∧
          (t.bank cl b).isFull g = !w.form.take) ∧
    (s.issues admC → aligned ea z.bytes = true → s.reachesC ea b →
      take (.ldcf z m) (.ldcfC z m) ∧ waits (.ldcf z m) ∧ waits (.ldcfC z m) ∧
      (s.feWaiters cl b g = [] → ∃ t, exec (.stcf z m) s = .next t ∧ t.me.a = y.a ∧ y.went t.me m z.bytes ∧
        bk.storedTo { t.bank cl b with full := bk.full } (offsetOf ea) z.bytes y.a ∧
        (t.bank cl b).full = (bk.setFull g true).full)) ∧
    (s.issues (admL false) → s.reachesL ea b →
      (s.feWaiters cl b g = [] → ∃ t, exec (.feset m) s = .next t ∧ t.me = (ptrAfter m y 1).advance ∧ setBit t bk true) ∧
      (∃ t, exec (.feclr m) s = .next t ∧ t.me = (ptrAfter m y 1).advance ∧ setBit t bk false) ∧
      ∃ t, exec (.fetst m) s = .next t ∧ s.onlyMe t ∧ t.me.a = (if bk.isFull g then 1 else 0) ∧
        t.me.flag stZ = !bk.isFull g ∧ t.me.flag stN = false ∧ t.me.pc = y.pc + 4) ∧
    (s.issues (admL false) → outOfRange ea = true →
      (aligned ea z.bytes = true → exec (.ldlf z m) s = .next (s.setMe ((y1.noteRange ea).setA 0).advance) ∧
        exec (.ldlfC z m) s = .next (s.setMe ((y1.noteRange ea).setA 0).advance)) ∧
      exec (.feset m) s = .next (s.setMe ((ptrAfter m y 1).noteRange ea).advance) ∧
      exec (.feclr m) s = .next (s.setMe ((ptrAfter m y 1).noteRange ea).advance) ∧
      ∃ t, exec (.fetst m) s = .next t ∧ t.me.a = 0 ∧ t.me.flag stZ = true)

/-- The atomics return the old value and store the new one of Table 5-8 (R103, R104, R95, Table 5-8). For an aligned
word or doubleword that the access reaches: A becomes the old value, zero-extended, and the memory there the new value
of the function (sum, conjunction, disjunction, exclusive or, lesser or greater signed or unsigned, or A itself); a
compare-and-swap whose pointer is not P6 stores A only if the old value equals the low bytes of P6, and sets Z to that.
No other byte of G memory, or of the bank, changes. -/
def Obligations.AtomicsUpdateTheirWord : Prop :=
  ∀ (s : State) (d : Bool) (o : Order) (sc : Scope) (m : MemOp 8),
    let y := s.me
    let z := amoSize d
    let n := z.bytes
    let ea := eaOf m y
    let x := y.a.toNat % 256 ^ n
    let cmp := (y.ptr 6).toNat % 256 ^ n
    let sg := fun (v : Nat) => (if v < 256 ^ n / 2 then (v : Int) else (v : Int) - 256 ^ n)
    aligned ea n = true →
    (∀ pa : Nat, s.reachesG false ea pa true o sc →
      let old := Memory.readN s.mem pa n
      let does := fun (i : Instr) (new : Nat) => ∃ t, exec i s = .next t ∧ t.me.a.toNat = old ∧ y.went t.me m n ∧
        Memory.readN t.mem pa n = new % 256 ^ n ∧ s.keepsG t pa n ∧ s.keepsL t
      does (.amogAdd d o sc m) (old + x) ∧ does (.amogAnd d o sc m) (old &&& x) ∧ does (.amogOr d o sc m) (old ||| x) ∧
      does (.amogXor d o sc m) (old ^^^ x) ∧ does (.amogMin d o sc m) (if sg x < sg old then x else old) ∧
      does (.amogMax d o sc m) (if sg old < sg x then x else old) ∧ does (.amogMinu d o sc m) (min old x) ∧
      does (.amogMaxu d o sc m) (max old x) ∧ does (.amogSwap d o sc m) x ∧
      (m.p ≠ 6 → ∃ t, exec (.amogCas d o sc m) s = .next t ∧ t.me.a.toNat = old ∧ t.me.pc = y.pc + 4 ∧
        t.me.flag stZ = decide (old = cmp) ∧ (∀ i, i ≠ stZ → t.me.flag i = y.flag i) ∧
        Memory.readN t.mem pa n = (if old = cmp then x else old) ∧ s.keepsG t pa n ∧ s.keepsL t)) ∧
    ∀ b : Nat, s.issues admC → s.reachesC ea b →
      let bk := s.bank (clusOf s.k) b
      ∃ old : Word, Loaded z false (fun j => bk.byte (offsetOf ea + j)) old ∧
        let does := fun (i : Instr) (new : Word) => ∃ t, exec i s = .next t ∧ t.me.a = old ∧ y.went t.me m n ∧
          s.onlyMeAndBank t b ∧ bk.storedTo (t.bank (clusOf s.k) b) (offsetOf ea) n new
        does (.amocAdd d m) (old + y.a) ∧ does (.amocAnd d m) (old &&& y.a) ∧ does (.amocOr d m) (old ||| y.a) ∧
        does (.amocSwap d m) y.a ∧
        (m.p ≠ 6 → ∃ t, exec (.amocCas d m) s = .next t ∧ t.me.a = old ∧ t.me.flag stZ = decide (old.toNat = cmp) ∧
          s.onlyMeAndBank t b ∧ t.me.pc = y.pc + 4 ∧
          bk.storedTo (t.bank (clusOf s.k) b) (offsetOf ea) n (if old.toNat = cmp then y.a else old))

/-- BALLOC, ATT, DET, DET.z, ARM, BWAIT, OPEN, CLOSE and BQRY act on their slot (R110, R111, R113, R114, R115, R116,
R117, R108). For a slot other than 0: BALLOC and ATT attach a free bank to an EMPTY slot, zeroed unless the device kept
it, with A its number or 0, and with none to take say so in A; ARM writes the tag; DET and DET.z of an attached bank
whose drain set is empty (no command uses it, no unit of a copy has reached it, no access has come to its slot) empty
the slot and return the bank, kept by the device or zeroed; of an ARMED slot they only empty it; BWAIT, OPEN and CLOSE
go on at an attached slot, CLOSE where no unit of a copy has reached the bank, OPEN and CLOSE writing its flag. BQRY
reads the entry of any slot. -/
def Obligations.BankInstructionsMoveBanks : Prop :=
  ∀ (s : State) (n : BitVec 4) (tag : BitVec 16), s.issues { mig := false } →
    let k := s.k
    let cl := clusOf k
    let sl := s.slot k n.toNat
    let goes := fun (t : State) => t.me.pc = s.me.pc + 4 ∧ t.me.hold = none ∧ t.mem = s.mem ∧
      ∀ i, i ≠ n.toNat → t.slot k i = s.slot k i
    exec (.bqry n) s = .next (s.setMe (s.me.setA (sl.image.setWidth 64)).advance) ∧
    (n ≠ 0 →
      (sl.state = .empty →
        (∀ b, (s.cluster cl).pick (quadIn k) = some b → b < 768 ∧ (s.bank cl b).free = true ∧
          ∃ t, exec (.balloc n) s = .next t ∧ goes t ∧ t.me.a = BitVec.ofNat 64 b ∧ t.me.flag stN = false ∧
            t.slot k n.toNat = { bank := b, state := .attached } ∧ (t.bank cl b).state = .held k n.toNat ∧
            (t.bank cl b).full = 0 ∧ ∀ o < 4096, (t.bank cl b).byte o = 0) ∧
        ((s.cluster cl).pick (quadIn k) = none → (∀ b < 768, (s.bank cl b).free = false) ∧
          ∃ t, exec (.balloc n) s = .next t ∧ s.onlyMe t ∧ t.me.a = 0x8000000000000000 ∧ t.me.flag stN = true ∧
            t.me.flag stZ = false ∧ t.me.pc = s.me.pc + 4) ∧
        (let b := (bits s.me.a 0 10).toNat
        b < 768 →
          ((s.bank cl b).free = true → ∃ t, exec (.att n) s = .next t ∧ goes t ∧ t.me.a = 0 ∧ t.me.flag stZ = true ∧
            t.slot k n.toNat = { bank := b, state := .attached } ∧ (t.bank cl b).state = .held k n.toNat ∧
            ∀ o < 4096, (t.bank cl b).byte o =
              if (s.bank cl b).state = .kept (s.vdevOf k s.c) then (s.bank cl b).byte o else 0) ∧
          ((s.bank cl b).free = false → ∃ t, exec (.att n) s = .next t ∧ s.onlyMe t ∧ t.me.a = 1 ∧ t.me.flag stZ = false ∧
            t.me.pc = s.me.pc + 4)) ∧
        ∃ t, exec (.arm n tag) s = .next t ∧ goes t ∧ t.me = s.me.advance ∧
          (t.slot k n.toNat).state = .armed ∧ (t.slot k n.toNat).tag = tag) ∧
      (sl.state = .armed → (∃ t, exec (.det n) s = .next t ∧ goes t ∧ t.slot k n.toNat = {}) ∧
        ∃ t, exec (.detZ n) s = .next t ∧ goes t ∧ t.slot k n.toNat = {}) ∧
      (sl.state = .attached →
        exec (.bwait n) s = .next (s.setMe s.me.advance) ∧
        (∃ t, exec (.openSlot n) s = .next t ∧ goes t ∧ t.slot k n.toNat = { sl with opened := true }) ∧
        (s.unitsIn cl sl.bank = false → ∃ t, exec (.closeSlot n) s = .next t ∧ goes t ∧ t.slot k n.toNat = { sl with opened := false }) ∧
        ((s.core k).cameTo n.toNat = false → s.drains k sl.bank = false → (s.bank cl sl.bank).marked = false →
          (∃ t, exec (.det n) s = .next t ∧ goes t ∧ t.slot k n.toNat = {} ∧
            t.bank cl sl.bank = { s.bank cl sl.bank with state := .kept (s.vdevOf k s.c) }) ∧
          ∃ t, exec (.detZ n) s = .next t ∧ goes t ∧ t.slot k n.toNat = {} ∧
            t.bank cl sl.bank = { (s.bank cl sl.bank).zeroed with state := .clean })))

/-- HOV hands a bank over, or returns it with a status; its events and those of a release take it step by step (R118,
R119, R120, R112, R113). A HOV of an attached bank whose drain set is empty, with its release complete and a well-formed
target in the cluster, in service, in the same partition and with a task: to a slot ARMED with the tag it leaves A = 0
with Z, its own slot EMPTY and the target slot attached to the bank with its bytes; to any other slot it leaves A = 1
and its slot attached, OPEN as before. The events carry a held HOV from drain over arrival to its status, and complete
a held DET or DET.z. -/
def Obligations.HandOversMoveABank : Prop :=
  (∀ (s : State) (n : BitVec 4) (j : Nat), s.issues { mig := false } → n ≠ 0 →
    (s.taskOf s.k s.c).bind Task.twin = none →
    let a := s.me.a
    let k := s.k
    let sl := s.slot k n.toNat
    let d := s.slot j (hovSlot a)
    hovBad a = false → hovTarget k a = some j → sl.state = .attached → (s.core k).cameTo n.toNat = false → s.hovReady k s.c n.toNat = true →
    s.inService j = true → s.partOf j = s.partOf k → (s.partOf k).isSome = true → (s.core j).task.isSome = true →
    (s.core j).revoking = false → clusOf j = clusOf k →
    (d.state = .armed → d.tag = hovTag a → (∀ e ∈ (s.core j).ctxs, e.2.feWaitL = none) → ∃ t, exec (.hov n) s = .next t ∧ t.me.a = 0 ∧ t.me.flag stZ = true ∧
      t.me.pc = s.me.pc + 4 ∧ t.slot k n.toNat = {} ∧
      t.slot j (hovSlot a) = { bank := sl.bank, state := .attached, tag := hovTag a } ∧
      (t.bank (clusOf k) sl.bank) = { s.bank (clusOf k) sl.bank with state := .held j (hovSlot a) } ∧ t.mem = s.mem) ∧
    (¬ (d.state = .armed ∧ d.tag = hovTag a) → (j, hovSlot a) ≠ (k, n.toNat) → ∃ t, exec (.hov n) s = .next t ∧ t.me.a = 1 ∧ t.me.flag stZ = false ∧
      t.me.pc = s.me.pc + 4 ∧ (t.slot k n.toNat).state = .attached ∧ (t.slot k n.toNat).opened = sl.opened ∧
      (t.slot k n.toNat).bank = sl.bank ∧ t.mem = s.mem)) ∧
  (∀ (s : State) (k c since : Nat) (n : BitVec 4),
    let held := fun (i : Instr) (p : Phase) => (s.ctx k c).hold = some { instr := i, since := since, phase := p }
    (held (.hov n) .hovDrain → s.hovReady k c n.toNat = true →
      ∃ t, exec (.hovDrainDone k c) s = .next t ∧ (t.ctx k c).phase = some .hovSent) ∧
    (held (.hov n) .hovSent → (∀ j, ∀ e ∈ (s.core j).ctxs, e.2.feWaitL = none) → ∃ t st, exec (.hovArrival k c) s = .next t ∧ (t.ctx k c).phase = some (.hovBack st)) ∧
    (∀ st, held (.hov n) (.hovBack st) → (s.ctx k c).live = true → ∃ t, exec (.hovStatusReturn k c) s = .next t ∧
      (t.ctx k c).a = st.setWidth 64 ∧ (t.ctx k c).flag stZ = (st == 0) ∧ (t.ctx k c).pc = (s.ctx k c).pc + 4 ∧
      (t.ctx k c).hold = none) ∧
    ∀ b, (s.bank (clusOf k) b).marked = false → (s.ctx k c).live = true →
      (held (.det n) (.release b) → s.drains k b = false → ∃ t, exec (.bankReleaseDrainDone k c) s = .next t ∧
        (t.bank (clusOf k) b).state = .kept (s.vdevOf k c) ∧ t.ctx k c = (s.ctx k c).advance) ∧
      (held (.detZ n) (.release b) → s.drains k b = false → ∃ t, exec (.bankReleaseDrainDone k c) s = .next t ∧
        (t.ctx k c).phase = some (.zeroing b)) ∧
      (held (.detZ n) (.zeroing b) → ∃ t, exec (.detZZeroingDone k c) s = .next t ∧
        t.bank (clusOf k) b = { (s.bank (clusOf k) b).zeroed with state := .clean } ∧ t.ctx k c = (s.ctx k c).advance))

/-- START, START.M, HWAIT, HKILL and END of a helper (R13, R188, R189, R190, R191). In the control context: START of a
helper that is not live makes it live at the target with A and the pointers of its starter, ST holding RM, BTO, SUP
and HLP, with MIG for START.M, its counters and RV 0; HWAIT of one that is not live leaves its reason in A; HKILL of
one that is not live leaves 0, and of one that stands with no store under way stops it, discards its failed entries,
counts them in A and records reason 1. END in a helper that is no guest, handles no trap and has no store under way
ends it with reason 0. -/
def Obligations.HelpersStartWaitAndEnd : Prop :=
  ∀ (s : State) (h : BitVec 4) (o : BitVec 16), s.me.hold = none →
    let k := s.k
    let x := s.ctx k h.toNat
    (s.c = 0 → 1 ≤ h.toNat → h.toNat ≤ 10 →
      (x.live = false → x.guest = none → ∀ mig : Bool, s.bars { helper := false, twin := !mig } = none →
        ∃ t, exec (if mig then .startM h o else .start h o) s = .next t ∧ t.me = s.me.advance ∧
          let y := t.ctx k h.toNat
          y.live = true ∧ y.pc = s.me.pc + 4 * o.signExtend 48 ∧ y.a = s.me.a ∧ y.p = s.me.p ∧ y.lc0 = 0 ∧ y.lc1 = 0 ∧
            y.rv = 0 ∧ y.st = (s.me.st &&& 0xFFFF1060) ||| (if mig then 0x300 else 0x100) ∧ y.hold = none ∧ y.latches = 0) ∧
      (x.live = false → s.bars { helper := false } = none →
        (∃ t, exec (.hwait h) s = .next t ∧ s.onlyMe t ∧ t.me.a = ((s.core k).reasons.get 2 h.toNat).setWidth 64 ∧
          t.me.flag stZ = decide (t.me.a = 0) ∧ t.me.flag stN = false ∧ t.me.pc = s.me.pc + 4) ∧
        ∃ t, exec (.hkill h) s = .next t ∧ s.onlyMe t ∧ t.me.a = 0 ∧ t.me.flag stZ = true ∧ t.me.pc = s.me.pc + 4) ∧
      (x.live = true → x.guest = none → x.away = none → x.midway = false → x.anyPosted = false → s.bars { helper := false } = none →
        ∃ t, exec (.hkill h) s = .next t ∧ (t.ctx k h.toNat).live = false ∧ (t.ctx k h.toNat).hold = none ∧
          t.me.a = BitVec.ofNat 64 x.failedCount ∧ (∀ e, ((t.ctx k h.toNat).log.get e).state ≠ .failed) ∧
          (t.core k).reasons.get 2 h.toNat = 1 ∧ t.me.pc = s.me.pc + 4)) ∧
    (s.bars {} = none → s.c ≠ 0 → s.me.guest = none → s.me.flag stTRP = false → s.me.anyPosted = false →
      ∃ t, exec .endT s = .next t ∧ t.me.live = false ∧ t.me.owed = none ∧ t.me.log = s.me.log ∧
        (t.core k).reasons.get 2 s.c = 0 ∧ t.mem = s.mem)

/-- END in the control context ends the task; SPAWN queues one (R189, R122, R12, R194, R266). In the control context of
a core with a task, with no live helper, no store under way or failed, every command complete and no unit of another
core’s copy in its banks: END leaves the core without a task, its attach table empty, its engines and contexts as after
reset, and in no group of its partition. With a record aligned to 32 bytes, translated, and sound at its slice, which
may be reached at once, stores complete and no twin: a well-formed record leaves A = 0 with Z and appends the task to
the partition’s queue while it holds fewer than 4096; a full queue leaves 1 and a bad record 2, and queue nothing. -/
def Obligations.TasksEndAndSpawn : Prop :=
  (∀ (s : State), s.issues {} → s.c = 0 → s.me.flag stTRP = false → (s.core s.k).task.isSome = true →
    (s.core s.k).liveHelpers = [] → (s.core s.k).anyPosted = false → s.me.anyPosted = false → failedEntry s.me = none →
    (s.core s.k).enginesIdle = true → s.unitsOn s.k = false →
    ∃ t, exec .endT s = .next t ∧ (t.core s.k).task = none ∧ (∀ n, n < 12 → t.slot s.k n = {}) ∧
      (t.core s.k).mx = {} ∧ (t.core s.k).vx = {} ∧ (t.core s.k).cx = {} ∧
      (∀ e ∈ (t.core s.k).ctxs, e.2.guest.isSome = true) ∧ (t.core s.k).revoking = false ∧
      (∀ p g, s.partOf s.k = some p → s.k ∉ ((t.part p).group g).members)) ∧
  (∀ (s : State) (pa : Nat) (k : Task), s.issues {} →
    let a := addrOf s.me.a
    let v := s.vdevOf s.k s.c
    let rc := Memory.readN s.mem pa 32
    bits a 0 5 = 0 → s.releasable s.k s.c .dev = true → s.fenced s.k s.c = false → s.taskOf s.k s.c = some k →
    k.twin = none → s.xlateCluster (clusOf s.k) v a false = some pa → s.sliceFree pa = true →
    s.quiet (.core (s.homeOf s.k s.c)) (.slice (sliceOf pa)) .req .rsp = true → s.sliceCheck v pa = none →
    (s.spawnBad v rc = true → ∃ t, exec .spawn s = .next t ∧ t.me.a = 2 ∧ t.me.flag stZ = false ∧ t.parts = s.parts ∧
      t.me.pc = s.me.pc + 4) ∧
    (s.spawnBad v rc = false → 4096 ≤ (s.part k.part).spawned.length →
      ∃ t, exec .spawn s = .next t ∧ t.me.a = 1 ∧ t.parts = s.parts ∧ t.me.pc = s.me.pc + 4) ∧
    (s.spawnBad v rc = false → (s.part k.part).spawned.length < 4096 →
      ∃ t, exec .spawn s = .next t ∧ t.me.a = 0 ∧ t.me.flag stZ = true ∧ t.me.pc = s.me.pc + 4 ∧ t.mem = s.mem ∧
        (t.part k.part).spawned = (s.part k.part).spawned ++ [spawnTask k rc]))

/-- JOIN, LEAVE and BAR, and the events of the barrier unit (R195, R196, R197). JOIN makes its core a member of the
group of its partition and LEAVE takes it out, and no other group is joined or left. A BAR that is the last arrival of
an episode of barriers completes at once and ends the episode; one that is not the last holds its context as arrived. A
barrier arrival of a core whose one group has an episode of barriers in which every member has arrived ends that episode
and releases every arrival, and it ends nothing that is not complete; a barrier release lets a released BAR go on. -/
def Obligations.GroupsAndBarriers : Prop :=
  (∀ (s : State) (g : BitVec 8), s.issues admGrp → s.c = 0 →
    let p := s.myPart
    let gr := (s.part p).group g.toNat
    (∃ t, exec (.join g) s = .next t ∧ t.me = s.me.advance ∧ s.k ∈ ((t.part p).group g.toNat).members ∧
      (∀ j, j ≠ s.k → (j ∈ ((t.part p).group g.toNat).members ↔ j ∈ gr.members)) ∧
      (∀ h, h ≠ g.toNat → (t.part p).group h = (s.part p).group h)) ∧
    (∃ t, exec (.leave g) s = .next t ∧ t.me = s.me.advance ∧ s.k ∉ ((t.part p).group g.toNat).members ∧
      (∀ j, j ≠ s.k → (j ∈ ((t.part p).group g.toNat).members ↔ j ∈ gr.members)) ∧
      (∀ h, h ≠ g.toNat → (t.part p).group h = (s.part p).group h)) ∧
    (s.k ∈ gr.members → s.releasable s.k s.c .part = true → gr.pending = none → (∀ e ∈ gr.arrived, e.2 = Arrival.bar) →
      ((∀ j ∈ gr.members, j = s.k ∨ ∃ e ∈ gr.arrived, e.1 = j) →
        ∃ t, exec (.bar g) s = .next t ∧ t.me = s.me.advance ∧ ((t.part p).group g.toNat).arrived = [] ∧ t.mem = s.mem) ∧
      ((∃ j ∈ gr.members, j ≠ s.k ∧ ∀ e ∈ gr.arrived, e.1 ≠ j) →
        ∃ t, exec (.bar g) s = .next t ∧ t.me.phase = some (.arrived false false) ∧ t.me.pc = s.me.pc ∧
          (s.k, Arrival.bar) ∈ ((t.part p).group g.toNat).arrived))) ∧
  (∀ (s : State) (k since : Nat) (g : BitVec 8) (b : Bool),
    (s.ctx k 0).hold = some { instr := .bar g, since := since, phase := .arrived true b } →
    exec (.barrierRelease k) s = .next (s.setCtx k 0 (s.ctx k 0).advance)) ∧
  (∀ (s : State) (k p g : Nat) (gr : Group), s.partOf k = some p → (s.part p).groups.find g = some gr → k ∈ gr.members →
    (∀ e ∈ (s.part p).groups, e.1 ≠ g → k ∉ e.2.members) →
    (∀ j ∈ gr.members, ∃ e ∈ gr.arrived, e.1 = j) → (∀ e ∈ gr.arrived, e.2 = Arrival.bar) →
    ∃ t, exec (.barrierArrival k) s = .next t ∧ ((t.part p).group g).arrived = [] ∧
      ((t.part p).group g).members = gr.members ∧
      (∀ e ∈ gr.arrived, ∀ h, (s.ctx e.1 0).hold = some h →
        (t.ctx e.1 0).hold = some { h with phase := .arrived true false } ∧ (t.ctx e.1 0).pc = (s.ctx e.1 0).pc) ∧ t.mem = s.mem) ∧
  ∀ (s : State) (k : Nat), (∃ t, exec (.barrierArrival k) s = .next t ∧ t.mem = s.mem) ∧
    (∀ p, s.partOf k = some p →
      (∀ e ∈ (s.part p).groups, k ∈ e.2.members → ∃ j ∈ ((s.part p).group e.1).members, ∀ a ∈ ((s.part p).group e.1).arrived, a.1 ≠ j) →
      exec (.barrierArrival k) s = .next s)

/-- FLOW opens a phase; XMIT, MUXS, RECV and XFWD move granules in it; FLEND closes it (R198, R201, R202, R203, R204). A
FLOW that is the last arrival with the same n of members that all run, within FLOWMAX, its words in pages that do not
move, opens the phase: ST.FLW set, FLOWCYC 0, no input selected. In the phase, at its slot: XMIT puts the granule at its
pointer on the output of the next c-cycle and advances the pointer by its stride; MUXS selects an input; RECV of a valid
granule, with no fault of the phase and nothing waiting on the granule, writes it whole, sets it full, and counts one
that is missing; XFWD puts the selected input on an output. FLEND of the last member with no fault leaves the count of
missed granules in A[47:32], ST.FLW clear and the core out of the phase. -/
def Obligations.FlowPhasesOpenMoveAndClose : Prop :=
  (∀ (s : State) (g : BitVec 8) (n : BitVec 14), s.issues { helper := false, mig := false, twin := false } → s.c = 0 →
    let gr := (s.part s.myPart).group g.toNat
    s.k ∈ gr.members → gr.members.Nodup → n.toNat ≤ (s.part s.myPart).flowmax.toNat → (s.core s.k).absentSlot = none →
    s.releasable s.k s.c .part = true → s.lockMoves s.k s.c (s.me.pc + 4) = false → gr.pending = none →
    (∀ j ∈ gr.members, s.coreRuns j = true) →
    (∀ j ∈ gr.members, j = s.k ∨ ∃ e ∈ gr.arrived, e.1 = j) → (∀ e ∈ gr.arrived, e.2 = Arrival.flow n.toNat) →
    ∃ t, exec (.flow g n) s = .next t ∧ t.me.flag stFLW = true ∧ t.me.pc = s.me.pc + 4 ∧ t.me.hold = none ∧
      (t.core s.k).flowcyc = 0 ∧ (t.core s.k).sel = none ∧ t.coreFlows s.k = true ∧ t.me.a = s.me.a ∧ t.mem = s.mem) ∧
  (∀ (s : State) (l : Link) (p : PReg) (sl : BitVec 16), s.issues admFlow → (s.core s.k).flowcyc.toNat = sl.toNat →
    let y := s.me
    let ea := addrOf (y.ptr p)
    let x := s.core s.k
    let moved := withAddr (y.ptr p) (ea + strideOf (y.ptr p))
    (∀ gv, bits ea 0 4 = 0 → s.lGranule s.k ea = .ok gv → ∃ t, exec (.xmit l p sl) s = .next t ∧
      (l, gv, false) ∈ (t.core s.k).outsNext ∧ (∀ e ∈ x.outsNext, e.1 ≠ l → e ∈ (t.core s.k).outsNext) ∧
      t.me.ptr p = moved ∧ t.me.pc = y.pc + 4 ∧ s.keepsL t) ∧
    (∃ t, exec (.muxs l sl) s = .next t ∧ (t.core s.k).sel = some l ∧ t.me = y.advance ∧ s.keepsL t) ∧
    (∀ d b, x.sel = some d → bits ea 0 4 = 0 → outOfRange ea = false → s.lBank s.k true ea = .ok b →
      (∀ gv ps, s.input s.k d = some (gv, ps) → s.phaseSpoiled s.k = false →
        s.feWaiters (clusOf s.k) b (granuleOf ea) = [] → ∃ t, exec (.recv p sl) s = .next t ∧
        (t.bank (clusOf s.k) b).granule (granuleOf ea) = gv ∧ (t.bank (clusOf s.k) b).isFull (granuleOf ea) = true ∧
        (t.bank (clusOf s.k) b).isPoison (granuleOf ea) = ps ∧ t.me.ptr p = moved ∧ t.me.pc = y.pc + 4 ∧
        ∀ i, i ≠ granuleOf ea → (t.bank (clusOf s.k) b).granule i = (s.bank (clusOf s.k) b).granule i) ∧
      (s.input s.k d = none → ∃ t, exec (.recv p sl) s = .next t ∧ t.bank (clusOf s.k) b = s.bank (clusOf s.k) b ∧
        t.me.ptr p = moved ∧ (∀ f, x.flow = some f → (t.core s.k).flow.map Flow.nrxe = some (f.nrxe + 1)))) ∧
    (∀ d gv, x.sel = some d → s.input s.k d = some gv → ∃ t, exec (.xfwd l sl) s = .next t ∧
      (l, gv.1, gv.2) ∈ (t.core s.k).outsNext ∧ t.me = y.advance ∧ s.keepsL t)) ∧
  ∀ (s : State) (f : Flow) (r : PhaseRec) (p : Nat), s.issues admFlow → s.c = 0 → (s.core s.k).flow = some f →
    s.partOf s.k = some p → ((s.part p).group f.group).phase = some r → (∀ j ∈ r.going, j = s.k) → r.faults = [] →
    ∃ t, exec .flend s = .next t ∧ t.me.flag stFLW = false ∧ (t.core s.k).flow = none ∧
      t.me.a = BitVec.ofNat 64 (f.nrxe.toNat * 2 ^ 32) ∧ t.me.flag stZ = decide (f.nrxe = 0) ∧ t.me.pc = s.me.pc + 4 ∧
      t.mem = s.mem

/-- The flow release opens a pending phase; an overrun faults; reports and the closing end a waiting FLEND (R198, R200,
R203, R204, R208, R211). A flow release of a pending episode in which every member has arrived and runs records the
phase and opens it at every member; one that waits for a member changes nothing. FLOWCYC reaching n before the FLEND
ends the phase of that core, and with its frame in an attached slot 0 of an unpoisoned bank enters its handler with
SLOT, TADDR and TVAL n, at the PC, ST.FLW clear, the fault recorded for the group; where n is not reached nothing
happens. A fault report or a closing that finds every member’s phase ended completes a waiting FLEND with the status in
A; with a member still in its phase, or no FLEND waiting, it changes nothing. -/
def Obligations.EventsOfAFlowPhase : Prop :=
  (∀ (s : State) (p g n : Nat),
    let gr := (s.part p).group g
    gr.pending = some n →
    (gr.members ≠ [] → gr.members.Nodup → (∀ m ∈ gr.members, ∃ e ∈ gr.arrived, e.1 = m) → (∀ m ∈ gr.members, s.coreRuns m = true) →
      (∀ m ∈ gr.members, (s.core m).flow.isSome = true) →
      ∃ t, exec (.flowRelease p g) s = .next t ∧ (∀ m ∈ gr.members, t.coreFlows m = true ∧ (t.core m).flowcyc = 0 ∧
          (t.core m).sel = none ∧ (t.ctx m 0).flag stFLW = true ∧ (t.ctx m 0).pc = (s.ctx m 0).pc + 4 ∧ (t.ctx m 0).hold = none ∧
          (t.ctx m 0).a = (s.ctx m 0).a) ∧
        ((t.part p).group g).pending = none ∧ ((t.part p).group g).arrived = [] ∧
        ((t.part p).group g).phase.map PhaseRec.going = some gr.members ∧ t.mem = s.mem) ∧
    ((∃ m ∈ gr.members, s.coreRuns m = false) → exec (.flowRelease p g) s = .next s)) ∧
  (∀ (s : State) (k : Nat), (s.overrun k = none → exec (.flowSlotOverrun k) s = .next s) ∧
    ∀ n p, s.overrun k = some n → s.partOf k = some p → (s.ctx k 0).guest = none → (s.ctx k 0).flag stFLW = true →
      ∃ t, exec (.flowSlotOverrun k) s = .next t ∧ (t.core k).flow = none ∧ (t.ctx k 0).flag stFLW = false ∧
        (∀ f r, s.phaseOf k = some (f, r) → ((t.part p).group f.group).phase.map PhaseRec.faults =
          some (r.faults ++ [((s.core k).flowcyc.toNat, clusOf k, clocOf k, causeSlot)])) ∧
        ((s.ctx k 0).flag stTRP = false → (s.slot k 0).state = .attached →
          (s.bank (clusOf k) (s.slot k 0).bank).poison = 0 →
          t.trapped k 0 (s.ctx k 0).pc (causeSlot.setWidth 64) (BitVec.ofNat 64 n) (BitVec.ofNat 64 n) (s.core k).tvec ∧
            t.mem = s.mem)) ∧
  ∀ (s : State) (k since : Nat), ∀ i ∈ [Instr.flendClosing k, Instr.flowFaultReport k],
    ((s.ctx k 0).hold = some { instr := .flend, since := since, phase := .closing } →
      (∀ f r, s.phaseOf k = some (f, r) →
        (r.going = [] → ∃ t, exec i s = .next t ∧ (t.ctx k 0).a = flendWord f r ∧ (t.ctx k 0).flag stZ = decide (flendWord f r = 0) ∧
          (t.ctx k 0).flag stN = false ∧ (t.ctx k 0).pc = (s.ctx k 0).pc + 4 ∧ (t.ctx k 0).hold = none ∧
          (t.core k).flow = none ∧ t.mem = s.mem) ∧
        (r.going ≠ [] → exec i s = .next s)) ∧
      (s.phaseOf k = none → ∃ t, exec i s = .next t ∧ (t.ctx k 0).a = 0 ∧ (t.ctx k 0).pc = (s.ctx k 0).pc + 4 ∧
        (t.ctx k 0).hold = none ∧ t.mem = s.mem)) ∧
    ((s.ctx k 0).phase ≠ some .closing → exec i s = .next s)

/-- The register accesses and plain commands of the engines are queued; their waits end when all is complete (R126,
R133, R148, R152, R165, R172, R179). With the engine context present and room in its queue, MXWR, MXWRG, MXRD, MXCKL,
MXCKF, VWR, VWRG, VRD, CWR and CWRG, and with no engine error MXFLIP, MXZERO and MXSWAP, stand as the last entry of
their queue with the captured pointer, and MXRD, MXCKL and VRD owe their context a value. MXWAIT, VWAIT and RDWAIT go on
when every command enqueued before them has completed; CWAIT then puts CV7, with BUSY 0, on its way to RV and clears the
record; both take the tier-1 lines of those commands as their own context’s. -/
def Obligations.EngineRegisterAccessesAndWaits : Prop :=
  ∀ (s : State) (k : BitVec 4) (n : BitVec 5) (a : PReg),
    let x := s.core s.k
    let does := fun (e : Engine) (i : Instr) (a b : PReg) (rv : Bool) => ∃ t, exec i s = .next t ∧ s.enqueued t e i a b rv
    let group := fun (regs : Nat) => k.toNat + n.toNat ≤ regs ∧ (addrOf (s.me.ptr a)).toNat % 8 = 0 ∧
      (addrOf (s.me.ptr a)).toNat + 8 * n.toNat ≤ 0xC000 ∧ ∃ vs, s.groupRead (addrOf (s.me.ptr a)) n.toNat = .ok vs
    (s.engineTakes .mx admE false →
      does .mx (.mxwr k a) a 0 false ∧ does .mx .mxckf 0 0 false ∧ (group 16 → does .mx (.mxwrg k n a) a 0 false) ∧
      (x.mx.err = false → does .mx .mxflip 0 0 false ∧ does .mx .mxzero 0 0 false ∧ does .mx .mxswap 0 0 false)) ∧
    (s.engineTakes .mx admE true → does .mx (.mxrd k) 0 0 true ∧ does .mx .mxckl 0 0 true) ∧
    (s.engineTakes .vx admE false → does .vx (.vwr k a) a 0 false ∧ (group 8 → does .vx (.vwrg k n a) a 0 false)) ∧
    (s.engineTakes .vx admE true → does .vx (.vrd k) 0 0 true) ∧
    (s.engineTakes .cx (admCp true) false →
      does .cx (.cwr k a) a 0 false ∧ (group 8 → does .cx (.cwrg k n a) a 0 false)) ∧
    let waited := fun (e : Engine) (m : Adm) (target : Nat) => s.bars m = none ∧ x.engineAbsent e = false ∧
      ((s.me.hold = none ∧ target = x.enqueued e) ∨ s.me.phase = some (.until target)) ∧ ∀ q ∈ x.queueOf e, target ≤ q.nth
    (∀ n, waited .mx admE n → x.mx.err = false → exec .mxwait s = .next (s.setMe s.me.advance)) ∧
    (∀ n, waited .vx admE n → x.vx.err = false → exec .vwait s = .next (s.setMe s.me.advance)) ∧
    ∀ n, waited .cx (admCp true) n →
      (∃ t, exec .rdwait s = .next t ∧ t = (s.takeThrough s.k s.c n).setMe s.me.advance ∧ t.mem = s.mem ∧ s.keepsL t) ∧
      (s.me.flag stRVF = false → s.me.owed = none → ∃ t, exec .cwait s = .next t ∧
        (t.core s.k).returns = x.returns ++ [(s.c, x.cmdSeq, putBit (cvGet x.cx.cv 7) 0 false)] ∧ cvGet (t.core s.k).cx.cv 7 = 0 ∧
        (∀ j, j < 7 → cvGet (t.core s.k).cx.cv j = cvGet x.cx.cv j) ∧ t.me = { s.me.advance with owed := some x.cmdSeq } ∧
        t.through = (s.takeThrough s.k s.c n).through ∧ t.mem = s.mem ∧ s.keepsL t)

/-- The vector commands are queued with their operands checked (R151, R154, R156). With the context present, no engine
error pending and room in the queue: a command whose registers it rejects is queued to fail when it executes, and one
whose operands are aligned, lie in the window and in attached slots is queued with the banks of its footprint; a VRED
to RV owes its context the value. -/
def Obligations.VectorCommandsAreQueued : Prop :=
  ∀ (s : State) (a b : PReg) (sc u rv : Bool) (r : ROp) (c : VCond) (i : Instr),
    i ∈ [Instr.vadd a b sc, .vsub a b sc, .vmul a b sc, .vfma a b sc, .vmin a b sc, .vmax a b sc, .vabs a b, .vneg a b,
      .vexp2 a b, .vlog2 a b, .vrcp a b, .vrsq a b, .vtanh a b, .vcvt a b, .vred a b r rv, .vscan a b, .vafs a b u,
      .vsel a b sc, .vclamp a b, .vcmp a b c sc, .vgath a b, .vscat a b] →
    let ret := match i with
      | .vred _ _ _ v => v
      | _ => false
    s.engineTakes .vx admE ret → (s.core s.k).vx.err = false →
    (∀ os, vOperands i (s.vcAhead s.k) (s.me.ptr a) (s.me.ptr b) = some os →
      (∀ o ∈ os, o.aligned = true) ∧ s.footAttached (os.map VOp.foot).flatten) →
    ∃ t, exec i s = .next t ∧ s.enqueued t .vx i a b ret

/-- The matrix commands with operands and the copies are queued with their footprint (R126, R129, R131, R169, R174,
R180). With the context present, room in the queue, and for the matrix engine no error pending: MXLS and MXST with
16-byte element and even header addresses, MXRTY, the eight copies, RDADD with aligned addresses and RDFLUSH are queued
when every byte of their footprint lies in an attached slot of the window; the C and X copies only in a task that is no
twin. -/
def Obligations.MatrixAndCopyCommandsAreQueued : Prop :=
  ∀ (s : State) (a b : PReg),
    let x := s.core s.k
    let mg := s.mgAhead s.k
    let pa := (addrOf (s.me.ptr a)).toNat
    let pb := (addrOf (s.me.ptr b)).toNat
    let does := fun (e : Engine) (i : Instr) (a b : PReg) => ∃ t, exec i s = .next t ∧ s.enqueued t e i a b false
    let foot := fun (i : Instr) => s.footAttached (copyFoot i x.cx.ahead (s.me.ptr a) (s.me.ptr b))
    (s.engineTakes .mx admE false → x.mx.err = false →
      (pa % 16 = 0 → (bxOf (mgWfmt mg) ≠ none → pb % 2 = 0) → s.footAttached (planeFoot (mgWfmt mg) pa pb) →
        does .mx (.mxls a b) a b) ∧
      (pa % 16 = 0 → mgEs mg % 16 = 0 → (bxOf (mgAfmt mg) ≠ none → pb % 2 = 0 ∧ mgHs mg % 2 = 0) →
        s.footAttached (streamFoot (mgAfmt mg) (mgM mg) (mgEs mg) (mgHs mg) pa pb) → does .mx (.mxst a b) a b) ∧
      (s.footAttached x.mx.retryFoot → does .mx .mxrty 0 0)) ∧
    (s.engineTakes .cx (admCp true) false →
      (∀ i ∈ [Instr.cg2l a b, .cl2g a b, .cw2l a b, .cl2w a b], foot i → does .cx i a b) ∧
      (redMisaligned x.cx.ahead (s.me.ptr a) (s.me.ptr b) = none → foot (.rdadd a b) → does .cx (.rdadd a b) a b) ∧
      does .cx (.rdflush a) a 0) ∧
    (s.engineTakes .cx (admCp false) false →
      ∀ i ∈ [Instr.cl2c a b, .cc2l a b, .cx2g a b, .cg2x a b], foot i → does .cx i a b)

/-- MXDRN holds its context until its check is decided, and lets it go on when it passes (R141, R127, R148). On a core
whose engine is idle with a visible result, sizes within range, no scale or bias vector and no rejected injection:
MXDRN is queued and its context held; the grant of its quad, with no other command there, decides the check; when it
passes the context goes on at the next instruction and PASS is set. -/
def Obligations.ADrainWritesWhenItsCheckPasses : Prop :=
  ∀ (s : State) (a b : PReg),
    let k := s.k
    let x := s.core k
    let mg := x.mx.mg
    let pa := (addrOf (s.me.ptr a)).toNat
    let q := quadOf k
    s.engineTakes .mx admE false → x.mx.err = false → x.mx.queue = [] → x.mx.flag mgVIS = true →
    1 ≤ mgM mg → mgM mg ≤ 32 → 1 ≤ mgNcol mg → mgNcol mg ≤ 32 → mgOfmt mg ≠ 3 → mgScl mg = false → mgBia mg = false →
    pa % 16 = 0 → mgOs mg % 16 = 0 → s.footAttached (drainFoot mg pa (addrOf (s.me.ptr b)).toNat) →
    injectBad (s.mgRead x.mx 14) = false → ((x.mx.inject (s.mgRead x.mx 14)).check).pass = true →
    k < sites → s.throttled = false → s.enginesRun k = true → (∀ j ∈ quadCores q, j ≠ k → (s.core j).mx.queue = []) →
    (∀ e ∈ s.footBanks k (drainFoot mg pa (addrOf (s.me.ptr b)).toNat), e.2 ≠ noBank) →
    ∃ t u, exec (.mxdrn a b) s = .next t ∧ t.me.pc = s.me.pc ∧ t.me.phase = some (.verdict x.cmdSeq) ∧
      (t.core k).mx.queue.map Cmd.instr = [.mxdrn a b] ∧
      exec (.matrixCommandGrant q) t = .next u ∧ u.me.pc = s.me.pc + 4 ∧ u.me.hold = none ∧
      (u.core k).mx.flag mgPASS = true ∧ (u.core k).mx.flag mgFAIL = false ∧ u.mem = s.mem

/-- A posted store is performed at its slice and acknowledged, or refused, reported and trapped on (R94, R96, R98, R22,
R324). A store taken by its slice and servable there, nothing before it being for its line and its page not moving: with
nothing wrong its bytes stand at its physical address and no other byte changes, and its entry is performed; with a
fault its entry is refused with the cause and memory is as before; either way the slice answers the core. When that
answer is due at a core that takes it, an acknowledgement frees a performed entry, and a report turns a refused one into
a failed one; a stopped core parks either in its inbox, but where its task is aborted. A late fault takes a precise trap with the late flag, the
entry’s address and its number. A write-through, with no completion doubleword waiting, takes its line from those that
lag behind. -/
def Obligations.StoresArePerformedAtTheirSlices : Prop :=
  (∀ (s : State) (k c e sl : Nat) (y : Taken),
    let x := s.logEntry k c e
    let v := s.vdevOf k c
    let answered := fun (t : State) => (t.packets.find s.packetSeq).map (fun p => (p.src, p.dst, p.payload)) =
      some (.slice (sliceOf x.pa), .core (s.homeOf k c), .ack k c e)
    e < 8 → x.mate = none → s.takenAt k c e = some (sl, y) → y.ask = none → y.lone = none → s.servable sl y = true →
    (s.storeFails v x y.poisoned = none →
      ∃ t, exec (.sliceAccess k c e) s = .next t ∧ Memory.readN t.mem x.pa x.size.bytes = x.data.toNat % 256 ^ x.size.bytes ∧
        s.keepsG t x.pa x.size.bytes ∧ (t.logEntry k c e).state = .performed ∧ (t.logEntry k c e).pa = x.pa ∧ answered t) ∧
    ∀ cause, s.storeFails v x y.poisoned = some cause →
      ∃ t, exec (.sliceAccess k c e) s = .next t ∧ t.mem = s.mem ∧ (t.logEntry k c e).state = .refused ∧
        (t.logEntry k c e).cause = cause ∧ answered t) ∧
  (∀ (s : State) (k c e j id : Nat) (p : Packet), (s.logEntry k c e).mate = none → (s.core k).revoking = false →
    s.ackOf k c e = some (id, p) → p.dst = .core j → s.fencedNode (.core j) = false → (s.core j).savedAt = none →
    (s.core j).inbox.length < 64 →
    ((s.core j).takesNow p.payload = true → (s.logEntry k c e).state = .performed →
      ∃ t, exec (.storeAcknowledge k c e) s = .next t ∧ (t.logEntry k c e).state = .free ∧ t.mem = s.mem) ∧
    ((s.core j).takesNow p.payload = true → (s.logEntry k c e).state = .refused →
      ∃ t, exec (.lateFaultReport k c e) s = .next t ∧ t.logEntry k c e = { s.logEntry k c e with state := .failed } ∧
        t.mem = s.mem) ∧
    ∀ i : Instr, (s.core j).saving = false → (s.core j).stop ≠ .running → (s.core j).revoking = false →
      ((s.logEntry k c e).state = .performed ∧ i = .storeAcknowledge k c e ∨
        (s.logEntry k c e).state = .refused ∧ i = .lateFaultReport k c e) →
      ∃ t, exec i s = .next t ∧ (t.core j).inbox = (s.core j).inbox ++ [p] ∧ t.logEntry k c e = s.logEntry k c e ∧
        t.mem = s.mem) ∧
  (∀ (s : State) (k c : Nat) (e : Fin 8), (s.ctx k c).lateEntry = some e → (s.ctx k c).hold = none → s.frameReady k c →
    let x := (s.ctx k c).log.get e
    ∃ t, exec (.lateFaultTrap k c) s = .next t ∧ t.mem = s.mem ∧
      t.trapped k c (s.ctx k c).pc (x.cause.setWidth 64 ||| 0x10000) (x.addr.setWidth 64) (BitVec.ofNat 64 e.val) (s.core k).tvec) ∧
  ∀ (s : State) (line : Nat), (∃ t, exec (.tier1WriteThrough line) s = .next t) ∧
    ((∀ d ∈ s.vdevs, ∀ x ∈ d.2.streams, x.2.owed = []) → (∀ l ∈ s.launches, l.2.dones = []) →
      ∃ t, exec (.tier1WriteThrough line) s = .next t ∧ (∀ u ∈ t.through, u.line ≠ line) ∧
        (∀ u ∈ s.through, u.line ≠ line → u ∈ t.through) ∧ t.mem = s.mem)

/-- The events that let a held context go on (R93, R290, R35, R100, R356, R215, R193, R98). A response completes a held
load; a translation miss is served by the entry of the walk, or marked as having no mapping, where nothing is on its way
between the core and its service core; an instruction miss of a context that may issue, the page of its line not moving,
brings its line into the I-cache, and the code cache where it was read from memory, or traps with the fault of the line;
where no page of the save area moves, a bank miss that something waits for attaches a bank with the saved bytes and full
bits, and a register miss makes a context, or the engine its held instruction names, present again; an expired bound
ends a wait; latches set at home for a helper that is away leave in one message. -/
def Obligations.MissesAndWaitsAreServed : Prop :=
  (∀ (s : State) (k c since pa : Nat) (z : Size) (sx : Bool) (m : MemOp 15),
    let u : State := { s with cur := (k, c) }
    (s.ctx k c).hold = some { instr := .ldg z sx m, since := since, phase := .held } →
    aligned (eaOf m u.me) z.bytes = true → u.reachesG false (eaOf m u.me) pa false .none .part →
    (s.ctx k c).lateEntry = none → s.enabled k c = true →
    ∃ t, exec (.gResponse k c) s = .next t ∧ t.cur = s.cur ∧ t.mem = s.mem ∧ (t.ctx k c).hold = none ∧
      (t.ctx k c).pc = (s.ctx k c).pc + 4 ∧ Loaded z sx (fun j => Memory.read s.mem (pa + j)) (t.ctx k c).a) ∧
  (∀ (s : State) (k c v : Nat) (va : Addr) (wr ex : Bool), (s.ctx k c).phase = some (.miss v va wr ex) →
    s.quiet (.core k) (.core (serviceOf (clusOf k))) .ctrl .ctrl = true →
    (∀ e, s.walk v va = .leaf e → ∃ t, exec (.tlbMissRequest k c) s = .next t ∧ e ∈ (t.core k).tlb ∧
      e ∈ (t.cluster (clusOf k)).tlb ∧ t.mem = s.mem ∧ t.ctx k c = s.ctx k c) ∧
    (s.walk v va = .none → ∃ t, exec (.tlbMissRequest k c) s = .next t ∧ (t.ctx k c).tlbBad = true ∧ t.host = s.host) ∧
    (s.walk v va = .malformed → ∃ t, exec (.tlbMissRequest k c) s = .next t ∧ (t.ctx k c).tlbBad = true ∧
      t.host = s.host ++ [.badEntry v va])) ∧
  (∀ (s : State) (k c : Nat), s.enabled k c = true → (s.ctx k c).hold = none → (s.ctx k c).absent = false →
    s.coreFlows k = false → s.fetchable k c = false → (s.ctx k c).codeBad ≠ some (s.ctx k c).pc →
    s.lineMoves k (s.vdevOf k c) (s.ctx k c).pc = false →
    (∀ x fresh, s.readLine k (s.vdevOf k c) (s.ctx k c).pc = .inr (x, fresh) →
      ∃ t, exec (.fetchRefill k c) s = .next t ∧ x ∈ (t.core k).icache ∧
        (fresh = true → x ∈ (t.cluster (clusOf k)).codeCache) ∧ t.mem = s.mem ∧
        (t.ctx k c = s.ctx k c ∨ t.ctx k c = { s.ctx k c with codeBad := none })) ∧
    ∀ cause, s.readLine k (s.vdevOf k c) (s.ctx k c).pc = .inl cause → s.frameReady k c →
      ∃ t, exec (.fetchRefill k c) s = .next t ∧ t.mem = s.mem ∧
        t.trapped k c (s.ctx k c).pc (cause.setWidth 64) ((s.ctx k c).pc.setWidth 64) 0 (s.core k).tvec) ∧
  (∀ (s : State) (k key n b : Nat) (e : Saved) (bk : Bank), s.restores k key e → s.restoreWaits k = false →
    (s.slot k n).state = .absent → s.slotWanted k n = true → (s.cluster (clusOf k)).pick (quadIn k) = some b → e.banks.find n = some bk →
    ∃ t, exec (.bankMissMicrotrap k n) s = .next t ∧
      t.slot k n = { bank := b, state := .attached, tag := (s.slot k n).tag } ∧
      (t.bank (clusOf k) b).data = bk.data ∧ (t.bank (clusOf k) b).full = bk.full ∧ (t.bank (clusOf k) b).state = .held k n) ∧
  (∀ (s : State) (k c key : Nat) (e : Saved), s.restores k key e → s.restoreWaits k = false →
    ((s.ctx k c).absent = true → ∃ t, exec (.registerMissMicrotrap k c) s = .next t ∧ (t.ctx k c).absent = false ∧
      (t.ctx k c).a = (s.ctx k c).a ∧ (t.ctx k c).p = (s.ctx k c).p) ∧
    ∀ since, (s.ctx k c).absent = false → (s.ctx k c).hold = some { instr := .vwait, since := since, phase := .engineMiss } →
      ∃ t, exec (.registerMissMicrotrap k c) s = .next t ∧ (t.core k).vx.absent = false) ∧
  (∀ (s : State) (k c since : Nat) (i : Instr) (a : Word), (s.ctx k c).hold = some { instr := i, since := since, phase := .poll a } →
    0 < (s.ctx k c).bound → since + (s.ctx k c).bound ≤ s.cyc.toNat →
    ∃ t, exec (.btoTimeout k c) s = .next t ∧ t.mem = s.mem ∧
      ((∀ m, i ≠ .waite m) → (t.ctx k c).phase = some (.abandoned causeTimeout (addrOf a))) ∧
      ((∃ m, i = .waite m) → (t.ctx k c).phase = some .expired)) ∧
  ∀ (s : State) (k h a c : Nat), (s.ctx k h).away = some (a, c) → (s.ctx k h).latches ≠ 0 →
    ∃ t, exec (.eventLatchMessage k h) s = .next t ∧ (t.ctx k h).latches = 0 ∧
      (t.packets.find s.packetSeq).map Packet.payload = some (.latch k h (s.ctx k h).latches)

/-- The events that carry stops, saves, aborts and helper migrations on (R222, R353, R349, R268, R270, R271, R193). A
requested halt takes place at a core that stands; a save whose area is mapped for writing, its pages not moving, and
whose core stands, its helpers recalled and the parked answers to its stores taken, completes; the timer of a DOUBLE
stop aborts the task except under HALT before its release. A sample writes CLOAD, and with migration disabled moves
nothing; a helper whose message is the next of its cores becomes a guest of a free context of its destination, and its
home records where it is. -/
def Obligations.StopsAndSavesComplete : Prop :=
  (∀ (s : State) (k : Nat), (s.core k).stopReq = some .halt → s.stands k = true → (s.core k).stop = .running →
    (s.core k).savedAt = none →
    ∃ t, exec (.coreStopReached k) s = .next t ∧ (t.core k).stop = .halted ∧ (t.core k).stopReq = none ∧
      (t.core k).gscyc = s.cyc ∧ t.mem = s.mem) ∧
  (∀ (s : State) (k key : Nat) (pages : List Nat), (s.core k).stopReq = some (.save key) →
    let s1 := (s.recallAll k).drainAcks k
    s1.areaPages key true = some pages → s1.saveReady k = true → s1.areaMoves key true = false →
    ∃ t, exec (.saveSequence k) s = .next t ∧ (t.core k).savedAt = some key ∧ (t.core k).stopReq = none) ∧
  (∀ (s : State) (k : Nat), (s.core k).stop = .double →
    (s.debug = .halt → (s.core k).doubleReleased = false → exec (.doubleAbortTimer k) s = .next s) ∧
    ((s.debug ≠ .halt ∨ (s.core k).doubleReleased = true) → ((s.abortTask k).core k).revoking = false →
      ∃ t, exec (.doubleAbortTimer k) s = .next t ∧ (t.core k).task = none)) ∧
  (∀ (s : State) (cl : Nat), (∃ t, exec (.cloadSample cl) s = .next t ∧ (t.cluster cl).cload = cloadWord (s.loads cl)) ∧
    (getBit (s.cluster cl).migctl 0 = false →
      exec (.cloadSample cl) s = .next (s.setCluster cl { s.cluster cl with cload := cloadWord (s.loads cl) }))) ∧
  ∀ (s : State) (cl c : Nat) (m : Migration) (r : List Migration), (s.cluster cl).moving = m :: r → m.dst ≠ m.home →
    m.recalled = false → seqGet s.seqIn (.core m.src, .core m.dst, .ctrl) = m.seq → s.inService m.dst = true → s.freeContext m.dst = some c →
    ∃ t, exec (.helperMigrationArrival cl) s = .next t ∧ t.ctx m.dst c = { m.ctx with guest := some (m.home, m.helper) } ∧
      (t.ctx m.home m.helper).away = some (m.dst, c) ∧ (t.cluster cl).moving = r

/-- Grants execute commands, completions take them from their queues, and the reducers sum and flush (R127, R132, R138,
R152, R171, R177, R178, R181, R20, R304). A granted register write of an engine takes its writable fields; a granted
MXZERO opens a chain with an empty working result, and an MXFLIP exchanges the planes. A command that has moved
everything completes: it leaves the queue and is counted; the completion of a copy records its status in CV7. With one
core ready, a copy grant performs its turn. The first contribution of an element opens its accumulator, a flush writes
its sum and closes it; a value under way reaches RV of the context it is owed to. -/
def Obligations.EngineGrantsAndCompletions : Prop :=
  (∀ (s : State) (q k : Nat) (c : Cmd), k ∈ quadCores q → (quadCores q).Nodup →
    (s.mxNext q k = some c → c.started = false → (∀ j ∈ quadCores q, j ≠ k → s.mxNext q j = none) →
      (∀ i a, c.instr = .mxwr i a → ∃ t, exec (.matrixCommandGrant q) s = .next t ∧
        (t.core k).mx.mg = mgWrite s.injects (s.core k).mx.mg i.toNat c.pa ∧ t.mem = s.mem) ∧
      (c.instr = .mxzero → ∃ t, exec (.matrixCommandGrant q) s = .next t ∧ (t.core k).mx.working = {} ∧
        (t.core k).mx.flag mgOPEN = true ∧ t.mem = s.mem) ∧
      (c.instr = .mxflip → (s.core k).mx.shadow.isSome = true → ∃ t, exec (.matrixCommandGrant q) s = .next t ∧
        (t.core k).mx.active = (s.core k).mx.shadow ∧ (t.core k).mx.shadow = (s.core k).mx.active ∧ t.mem = s.mem)) ∧
    (s.vxNext q k = some c → c.started = false → (∀ j ∈ quadCores q, j ≠ k → s.vxNext q j = none) →
      ∀ i a, c.instr = .vwr i a → ∃ t, exec (.vectorCommandGrant q) s = .next t ∧
        (t.core k).vx.vc = vcWrite (s.core k).vx.vc i.toNat c.pa ∧ t.mem = s.mem)) ∧
  (∀ (s : State) (k : Nat) (c : Cmd), s.enginesRun k = true →
    (mxTurn (s.core k).mx.queue = some c → c.present = true → c.moved = true →
      ∃ t, exec (.matrixCommandComplete k) s = .next t ∧ (∀ x ∈ (t.core k).mx.queue, x.id ≠ c.id) ∧
        (t.core k).mx.completed = (s.core k).mx.completed + 1 ∧ t.mem = s.mem) ∧
    ((s.core k).vx.queue.find? Cmd.ran = some c → c.present = true → c.moved = true →
      ∃ t, exec (.vectorCommandComplete k) s = .next t ∧ (∀ x ∈ (t.core k).vx.queue, x.id ≠ c.id) ∧
        (t.core k).vx.completed = (s.core k).vx.completed + 1 ∧ t.mem = s.mem)) ∧
  (∀ (s : State) (cl i : Nat) (r : CopyReady), s.copyReady cl = [(i, r)] →
    (∃ k, s.copyGo k = some r.after) ∧
    ((r.free = true ∨ r.going = true) → exec (.copyTransferGrant cl) s = .next r.after) ∧
    (r.free = false → r.going = false → ∃ t, exec (.copyTransferGrant cl) s = .next t ∧ t.cores = r.after.cores ∧
      t.mem = r.after.mem)) ∧
  (∀ (s : State) (k : Nat) (c : Cmd) (r : List Cmd), (s.core k).cx.queue = c :: r → c.ran = true → c.answered = true →
    (s.core k).savedAt = none → ∃ t, exec (.copyCommandComplete k) s = .next t ∧ (∀ x ∈ (t.core k).cx.queue, x.id ≠ c.id) ∧
      (t.core k).cx.cv = cvRecord (s.core k).cx.cv c.status c.pc ∧ (t.core k).cx.completed = (s.core k).cx.completed + 1 ∧
      t.mem = s.mem) ∧
  (∀ (s : State) (sl core task cmd pa count srcid v : Nat) (bf det : Bool) (x : W32) (r : List CollItem),
    ((s.slice sl).coll = .add core task cmd pa bf det count srcid x :: r → (s.slice sl).accs.find pa = none →
      (s.slice sl).overlaps pa bf = false → (s.slice sl).accs.length < 16384 →
      ∃ t, exec (.reductionContribution sl) s = .next t ∧ (t.slice sl).coll = r ∧ t.mem = s.mem ∧
        ((t.slice sl).accs.find pa).map (fun a => (a.bf16, a.det, a.count, a.got, a.sum)) = some (bf, det, count, 1, x)) ∧
    ∀ a, (s.slice sl).coll = [.flush core cmd v pa bf] → (s.slice sl).accs.find pa = some a → a.bad = false → a.bf16 = bf →
      a.det = false → s.deviceHeld v = false → s.sliceFree pa = true → s.sliceCheck v pa = none →
      ∃ t, exec (.reductionFlush sl) s = .next t ∧ (t.slice sl).coll = [] ∧ (t.slice sl).accs.find pa = none ∧
        Memory.readN t.mem pa (if bf then 2 else 4) = leNat a.bytes ∧ s.keepsG t pa (if bf then 2 else 4)) ∧
  ∀ (s : State) (k c id : Nat) (v : Word) (r : List (Nat × Nat × Word)), (s.core k).returns = (c, id, v) :: r →
    (s.ctx k c).owed = some id → ∃ t, exec (.rvFill k) s = .next t ∧ (t.ctx k c).rv = v ∧ (t.ctx k c).flag stRVF = true ∧
      (t.ctx k c).owed = none ∧ (t.core k).returns = r ∧ t.mem = s.mem

/-- A stream takes its next record, runs it, and writes its completion doubleword (R272, R273, R275, R280). A stream
that may fetch and whose record can be read takes it: a well-formed one runs, with HEAD advanced; a bad one fails the
stream with DETAIL 0x01. When the stream’s own command completes, the stream has no command, a failure sets ERR with its
DETAIL (which stays that of what set ERR where it is set already), and a completion word that can be written at once
holds STATUS, DETAIL and RESULT. A dying stream that has neither commands nor records nor doublewords left is gone. That
every rule a record breaks is found when it is taken (log entry 38), that DETAIL stays while ERR is set, and that a
stream which is gone has the registers of one that never was (log entry 41), are the model’s choices. -/
def Obligations.StreamsFetchRunAndComplete : Prop :=
  (∀ (s : State) (v q : Nat) (rc : BitVec 512), s.mayFetch v q = true → (s.strm v q).err = false →
    s.readRecord v ((s.strm v q).recordAt (s.strm v q).head) = .ok rc →
    (s.recordOk v rc = true → ∃ t, exec (.streamRecordFetch v q) s = .next t ∧ (t.strm v q).head = (s.strm v q).head + 1 ∧
      (t.job v q 0).map (fun j => (j.rc, j.state)) = some (rc, .running) ∧ t.mem = s.mem) ∧
    (s.recordOk v rc = false → ∃ t, exec (.streamRecordFetch v q) s = .next t ∧ (t.strm v q).err = true ∧
      (t.strm v q).detail = 0x01 ∧ t.job v q 0 = none)) ∧
  (∀ (s : State) (v q st result : Nat) (j : Job) (d : Byte), s.job v q 0 = some j → st < 256 → result < 2 ^ 32 →
    let t := s.endJob v q 0 st d result
    (t.strm v q).jobs = [] ∧ (t.strm v q).graph = none ∧
    (st = stFailed → (t.strm v q).err = true ∧ (t.strm v q).detail = if (s.strm v q).err then (s.strm v q).detail else d) ∧
    (st ≠ stFailed → (t.strm v q).err = (s.strm v q).err) ∧
    ∀ pa, rcCw j.rc ≠ 0 → (rcCw j.rc).toNat % 8 = 0 → (s.strm v q).owed = [] → s.deviceBehind v = false →
      s.deviceXlate v (rcCw j.rc).toNat true = .ok pa → s.sliceCheck v pa = none →
      Memory.readN t.mem pa 8 = st + d.toNat * 2 ^ 8 + result * 2 ^ 32 ∧ s.keepsG t pa 8 ∧ (t.strm v q).owed = []) ∧
  ∀ (s : State) (v q : Nat), (s.strm v q).live = true → (s.strm v q).dying = true → (s.strm v q).jobs = [] →
    (s.strm v q).head = (s.strm v q).tail → (s.strm v q).owed = [] →
    exec (.streamDestroyComplete v q) s = .next (s.setStream v q {})

/-- GRAPH commands define, launch, edit and destroy graphs; their nodes start when due (R277, R278). GRAPH define of a
descriptor whose nodes keep the rules adds a graph under an unused id, which it returns; launch makes the graph live
once more and its nodes wait in the stream; edit replaces one node of a graph that is not live; destroy removes a
graph that is not live, and of a live one answers BUSY; a graph that does not exist fails with DETAIL 0x08. A node
whose predecessors are all DONE, their doublewords written, starts. -/
def Obligations.GraphCommandsAndNodes : Prop :=
  ∀ (s : State) (v q : Nat) (j : Job), (s.runs v q 0 0x02 = some j →
    let node := s.deviceNode v
    let g := rcField j.rc 80 12
    let a := rcField j.rc 128 48
    let d := s.vdev v
    (rcSub j.rc = 0 → ∀ hd bs l id, s.deviceRead v a 64 false = .ok hd →
      let n := 64 + 128 * min 1024 (leNat hd % 2 ^ 11)
      s.deviceRead v a n false = .ok bs → s.readNodes v bs = some l → s.newGraphId v = some id → d.graphs.find id = none ∧
      exec (.graphDefine v q) s = .next ((State.endJob
        { s.setVdev v { d with graphs := d.graphs.put id { nodes := l } } with fresh := s.fresh + 1 } v q 0 stDone 0 id).reachedBy node v a n)) ∧
    (∀ gr, d.graphs.find g = some gr →
      (rcSub j.rc = 1 → (s.strm v q).graph = none → ∃ t, exec (.graphLaunch v q) s = .next t ∧
        (t.strm v q).graph = some g ∧ (t.strm v q).jobs = (0, j) :: graphJobs gr.nodes ∧
        ((t.vdev v).graphs.find g).map Graph.live = some (gr.live + 1) ∧ t.mem = s.mem) ∧
      (rcSub j.rc = 2 → gr.live = 0 → rcCopy j.rc = false → ∀ bs, s.deviceRead v a 64 false = .ok bs →
        s.editOk v gr (rcField j.rc 176 16) (BitVec.ofNat 512 (leNat bs)) = true →
        exec (.graphEdit v q) s = .next (((s.setVdev v { d with graphs := d.graphs.put g { gr with
          nodes := editNodes gr.nodes (rcField j.rc 176 16) (BitVec.ofNat 512 (leNat bs)) } }).endJob v q 0 stDone 0 0).reachedBy node v a 64)) ∧
      (rcSub j.rc = 3 →
        (gr.live = 0 → exec (.graphDestroy v q) s = .next ((s.setVdev v { d with graphs := d.graphs.drop g }).endJob v q 0 stDone 0 0)) ∧
        (gr.live ≠ 0 → exec (.graphDestroy v q) s = .next (s.endJob v q 0 stBusy 0 0)))) ∧
    (d.graphs.find g = none → rcSub j.rc = 3 → exec (.graphDestroy v q) s = .next (s.endJob v q 0 stFailed 0x08 0))) ∧
  ∀ n, (s.strm v q).jobs.find n = some j → n ≠ 0 → j.state = .waiting → (s.strm v q).dying = false → s.deviceHeld v = false →
    (s.strm v q).owed = [] → (∀ p ∈ j.preds, ((s.strm v q).jobs.find (p + 1)).map Job.state = some .done) →
    ∃ t, exec (.graphNodeStart v q n) s = .next t ∧ (t.job v q n).map Job.state = some .running ∧
      (∀ m, m ≠ n → t.job v q m = s.job v q m) ∧ t.mem = s.mem

/-- A launch is accepted, its tasks are placed in order, and it completes (R261, R264, R265, R266, R267, R274, R33). A
LAUNCH whose parameter block passes its tests becomes a launch of the stream’s partition; one that fails completes
FAILED with the DETAIL of the test. The placement of the head launch’s next run of one task starts it on its core, at
ENTRY with its linear index in A; that of a spawned task starts it at its entry with its argument; a co-resident
launch at the head first holds the cores, then starts all at once. A launch of which nothing waits or runs completes
and is gone. -/
def Obligations.LaunchesPlaceTheirTasks : Prop :=
  (∀ (s : State) (v q n : Nat) (j : Job) (w : BitVec 512), s.runs v q n 0x01 = some j → j.launch = none →
    (rcAddr j.rc 64).toNat % 64 = 0 → s.readRecord v (rcAddr j.rc 64).toNat = .ok w →
    (s.launchFails v (s.strm v q).part w = none → s.pagesMove v (lpbResb w) (64 * lpbResl w) = false →
      ∃ t : State, exec (.launch v q n) s =
          .next ((t.markHolding (s.strm v q).part).reachedBy (s.deviceNode v) v (rcAddr j.rc 64).toNat 64) ∧
      (t.job v q n).map Job.launch = some (some s.launchSeq) ∧ t.launchSeq = s.launchSeq + 1 ∧
      (t.launches.find s.launchSeq).map (fun x => (x.lpb, x.vdev, x.part, x.nextRun)) = some (w, v, (s.strm v q).part, 0) ∧
      t.mem = s.mem) ∧
    ∀ d, s.launchFails v (s.strm v q).part w = some d → ∃ t : State,
      exec (.launch v q n) s = .next ((t.endJob v q n stFailed d 0).reachedBy (s.deviceNode v) v (rcAddr j.rc 64).toNat 64) ∧
      t.job v q n = some j ∧ t.launches = s.launches ∧ t.mem = s.mem) ∧
  (∀ (s : State) (l k : Nat) (x : Launch), s.launches.find l = some x → s.partHeld x.part = false →
    (s.headLaunch x.part).map Prod.fst = some l → k < sites →
    (lpbCor x.lpb = false → x.requeued = [] → s.placeSpawned x.part = none → lpbSwiz x.lpb = 0 → x.nextRun < lpbTasks x.lpb →
      s.imagesMove x.vdev x.lpb = false → s.findRun l x 1 = some [[k]] →
      ∃ t : State, exec (.taskPlacement l) s = .next (t.markHolding x.part) ∧
        (t.core k).task.map (fun y => (y.launch, y.index, y.vdev)) = some (l, x.nextRun, x.vdev) ∧
        (t.ctx k 0).pc = BitVec.ofNat 48 (lpbEntry x.lpb) ∧ (t.ctx k 0).live = true ∧
        (t.ctx k 0).a = BitVec.ofNat 64 (linearIndex x.lpb (taskPoint x.lpb x.nextRun)) ∧ (t.ctx k 0).st = 0 ∧
        (t.launches.find l).map Launch.nextRun = some (x.nextRun + 1) ∧ t.mem = s.mem) ∧
    (lpbCor x.lpb = true →
      (x.holding = false → (s.part x.part).spawned = [] → (s.headLaunch x.part).map Prod.snd = some x →
        ∃ t, exec (.coresidentLaunchStart l) s = .next t ∧ (t.launches.find l).map Launch.holding = some true ∧
          t.cores = s.cores) ∧
      (x.holding = true → ∀ u, State.placeAll l (lpbRuns x.lpb) s = some u →
        exec (.coresidentLaunchStart l) s = .next (u.markHolding x.part)))) ∧
  (∀ (s : State) (p k : Nat) (x : Launch) (y : Task) (r : List Task) (entry data : Addr) (arg : Word),
    (s.part p).spawned = y :: r → y.spawn = some (entry, data, arg) → s.launches.find y.launch = some x →
    s.partHeld p = false → s.coresHeld p = false → s.imagesMove x.vdev x.lpb = false → s.nearest y.launch x y = some [k] → k < sites →
    ∃ t, exec (.spawnPlacement p) s = .next t ∧ (t.part p).spawned = r ∧ (t.core k).task.map (fun z => z.spawn) = some y.spawn ∧
      (t.ctx k 0).pc = entry ∧ (t.ctx k 0).a = arg ∧ (t.ctx k 0).ptr 0 = data.setWidth 64 ∧ (t.ctx k 0).live = true) ∧
  ∀ (s : State) (l : Nat) (x : Launch), s.launches.find l = some x → x.finished = true →
    let s1 : State := { s with launches := s.launches.drop l }
    let st := if x.killed then stCancelled else if x.failed.isSome then stFailed else stDone
    let d := if x.killed then 0 else x.failed.getD 0
    exec (.launchCompletion l) s = .next ((s1.endJob x.vdev x.stream x.job st d 0).markHolding x.part)

/-- COPY, FILL, WAITV, SIGNAL, PIN, UNPIN and TIER do what they name, step by step (R274, R276, R293, R294, R295). A
piece of a COPY or FILL is written and the command moves on, or completes with its last; WAITV completes once its
condition holds and fails with DETAIL 0x05 when its timeout has run out; SIGNAL stores its value or adds it, once the
lines of its device are written through; PIN raises the counts of its pages, or fails with 0x04; UNPIN first lowers them
and drops the translations, or fails with 0x04, then completes once no access to them is under way; TIER finds the
frames of its pages once, begins the moves that these need while they are pinned, waits for those under way and
completes when none is left, fails with 0x03 for want of room in the pool, or marks its range automatic; a moving page
arrives in the other tier. -/
def Obligations.StreamCommandsMoveBytesAndPages : Prop :=
  (∀ (s : State) (v q n : Nat) (j : Job) (s1 : State) (bs : List Byte),
    let u := rcField j.rc 128 48
    let d := rcField j.rc 64 48
    let a := BitVec.ofNat 64 (rcField j.rc 128 64)
    let node := s.deviceNode v
    let goes := fun (i : Instr) (total : Nat) (after : State → State) =>
      (j.pos + bs.length < total → j.kill = false → ∃ t : State, exec i s = .next (after t) ∧
        (t.job v q n).map Job.pos = some (j.pos + bs.length) ∧ t.mem = s1.mem) ∧
      (total ≤ j.pos + bs.length → ∃ t : State, exec i s = .next (after (t.endJob v q n stDone 0 0)) ∧ t.mem = s1.mem)
    (s.runs v q n 0x03 = some j → let total := rcField j.rc 176 40
      let z := granulePiece d j.pos total
      s.deviceRead v (u + j.pos) z false = .ok bs → bs.length = z →
      (∀ i < z, s.copyOverlap v d u total (j.pos + i) = false) → s.piecePut v d j.pos total bs = .ok s1 →
      goes (.copy v q n) total fun t => (t.reachedBy node v (d + j.pos) z).reachedBy node v (u + j.pos) z) ∧
    (s.runs v q n 0x04 = some j → let total := rcField j.rc 192 40
      bs = (List.replicate (granulePiece d j.pos total / 8) (leBytes 8 (rcField j.rc 128 64))).flatten →
      s.piecePut v d j.pos total bs = .ok s1 → goes (.fill v q n) total fun t => t.reachedBy node v (d + j.pos) bs.length) ∧
    (s.runs v q n 0x05 = some j → s.deviceRead v d 8 true = .ok bs →
      (waitvHolds j.rc (leNat bs) = true → exec (.waitv v q n) s = .next ((s.endJob v q n stDone 0 0).reachedBy node v d 8) ∧
        exec (.waitvReread v q n) s = .next ((s.endJob v q n stDone 0 0).reachedBy node v d 8)) ∧
      (waitvHolds j.rc (leNat bs) = false → exec (.waitv v q n) s = .next (s.reachedBy node v d 8) ∧
        exec (.waitvReread v q n) s = .next (s.reachedBy node v d 8))) ∧
    (s.runs v q n 0x05 = some j → rcField j.rc 224 32 ≠ 0 → j.since + 400 * rcField j.rc 224 32 ≤ s.cyc.toNat →
      exec (.waitvTimeout v q n) s = .next (s.endJob v q n stFailed 0x05 0)) ∧
    (s.runs v q n 0x06 = some j → s.deviceBehind v = false →
      (rcField j.rc 192 1 = 0 → s.deviceWrite v d (leBytes 8 a.toNat) = .ok s1 →
        exec (.signal v q n) s = .next ((s1.endJob v q n stDone 0 0).reachedBy node v d 8)) ∧
      (rcField j.rc 192 1 = 1 → s.deviceRead v d 8 false = .ok bs →
        s.deviceWrite v d (leBytes 8 ((leNat bs + a.toNat) % 2 ^ 64)) = .ok s1 →
        exec (.signal v q n) s = .next ((s1.endJob v q n stDone 0 0).reachedBy node v d 8)))) ∧
  (∀ (s s1 : State) (v q : Nat) (j : Job),
    let ps := rangePages j.rc
    let s0 := s.walkPages v ps
    let count := fun (f : Nat) => (ps.filter fun a => decide (s0.pageFrame v a = some f)).length
    (s.runs v q 0 0x07 = some j →
      (State.pinAll v ps s0 = some s1 → exec (.pin v q) s = .next (s1.endJob v q 0 stDone 0 0) ∧
        ∀ f, (s1.frame f).pins = (s.frame f).pins + count f) ∧
      (State.pinAll v ps s0 = none → exec (.pin v q) s = .next (s0.endJob v q 0 stFailed 0x04 0))) ∧
    (s.runs v q 0 0x08 = some j → (∀ a ∈ ps, s.ringPage v a = false) →
      (j.pos ≠ 1 → State.unpinAll v ps s0 = some s1 → ∃ t, exec (.unpin v q) s = .next t ∧
        (∀ f, (s1.frame f).pins + count f = (s.frame f).pins ∧ (t.frame f).pins = (s1.frame f).pins) ∧
        (t.job v q 0).map Job.pos = some 1 ∧ t.mem = s.mem) ∧
      (j.pos ≠ 1 → State.unpinAll v ps s0 = none → exec (.unpin v q) s = .next (s0.endJob v q 0 stFailed 0x04 0)) ∧
      (j.pos = 1 → s.accessesTo ((ps.filterMap fun a => s.pageFrame v a).filter fun f => decide ((s.frame f).pins = 0)) false = false →
        exec (.unpin v q) s = .next (s.endJob v q 0 stDone 0 0))) ∧
    ∀ fs, s.runs v q 0 0x09 = some j →
      let mine := j.pos = 0 ∧ s.tierFrames v j.rc = some fs ∨ j.pos ≠ 0 ∧ j.frames = fs
      let moves := fun (i : Instr) (up : Bool) => mine → (∀ f ∈ fs, 0 < (s.frame f).pins) →
        (j.detail = 0 → (∀ f ∈ fs, (s.frame f).moving = false ∧ (s.frame f).promoted = up) →
          ∃ t : State, exec i s = .next (t.endJob v q 0 stDone 0 0) ∧ t.mem = s.mem ∧
            ∀ f ∈ fs, (t.frame f).moving = false ∧ (t.frame f).promoted = up ∧ (t.frame f).automatic = false) ∧
        (j.pos ≠ 0 → (∃ f ∈ fs, (s.frame f).moving = true) → exec i s = .next (s.setJob v q 0 j)) ∧
        ∀ f, fs = [f] → (s.frame f).moving = false → (s.frame f).promoted = !up →
          ((up = true → s.poolRoom f = true) → ∃ t, exec i s = .next t ∧ (t.frame f).moving = true ∧
            (t.job v q 0).map Job.frames = some [f] ∧ t.mem = s.mem) ∧
          (up = true → s.poolRoom f = false → ∃ t : State, exec i s = .next (t.endJob v q 0 stFailed 0x03 0) ∧
            (t.frame f).moving = false)
      (rcField j.rc 144 2 = 0 → moves (.tierPromote v q) true) ∧
      (rcField j.rc 144 2 = 1 → moves (.tierKeep v q) false) ∧
      (rcField j.rc 144 2 = 2 → s.tierFrames v j.rc = some fs →
        ∃ u : State, exec (.tierAutomatic v q) s = .next (u.endJob v q 0 stDone 0 0) ∧
        ∀ f ∈ fs, (u.frame f).automatic = true)) ∧
  ∀ (s : State) (f : Nat), ((s.frame f).moving = true → ∃ t : State, exec (.pageMove f) s = .next t.payAll ∧
      (t.frame f).moving = false ∧ (t.frame f).promoted = !(s.frame f).promoted ∧ t.mem = s.mem) ∧
    ((s.frame f).moving = false → (s.frame f).automatic = true → 0 < (s.frame f).pins → (s.frame f).promoted = true →
      ∃ t, exec (.pageMove f) s = .next t ∧ (t.frame f).moving = true ∧ t.mem = s.mem)

/-- PREEMPT, QOS, KEY, COVE and MIGRATE act on the device or partition they name (R351, R332, R333, R336, R337, R338,
R345, R346, R347). With its command running: PREEMPT save holds the partition, and completes at once where no core holds
a task, and resume lets it go where nothing is saved; QOS sets levels and bounds, and the end of a window counts it; KEY
create gives a device keys and clears its counters and measurement, or fails with 0x03, and erase, once the streams of
the device are gone, closes its windows, and once no access to them is under way takes its keys, graphs and windows;
COVE create makes a window of frames its owner reaches no more through G, grant gives a device access, revoke takes it
and makes new accesses wait, and it and re-key change the key once no access is under way, destroy returns the frames;
MIGRATE begins logging, reports a round, and after a final ends the device here on commit, its windows closed first and
the accesses to them awaited, or goes on as before on abort. That KEY create fails with 0x03 wherever no tenant is
admitted, security state RMA included, and that a COVE create of bad pages fails with 0x04 before any other cause, are
the model’s choices (log entry 42), as is the order of the frames in the log buffer of a MIGRATE (log entry 43). -/
def Obligations.ManagementCommandsActOnDevices : Prop :=
  ∀ (s : State) (v q : Nat) (j : Job),
    let d := rcVdev j.rc
    let p := (s.strm v q).part
    let w := rcWin j.rc
    let a := rcField j.rc 112 48
    let cmd := fun (op sub : Nat) => s.runs v q 0 op = some j ∧ rcSub j.rc = sub
    let done := fun (i : Instr) (u : State) => exec i s = .next (u.endJob v q 0 stDone 0 0)
    let fails := fun (i : Instr) (c : Byte) => exec i s = .next (s.endJob v q 0 stFailed c 0)
    (cmd 0x0A 0 → s.liveCores p = [] → j.pos = 1 → ∃ u : State, done (.preemptSave v q) u ∧ (u.part p).held = true ∧ u.cores = s.cores) ∧
    (cmd 0x0A 1 → s.savedCores v p (rcField j.rc 128 48) = [] →
      done (.preemptResume v q) (s.setPart p { s.part p with held := false })) ∧
    (cmd 0x0B 0 → ∃ u : State, done (.qosLevels v q) u ∧ (u.vdev d).copyLevel = BitVec.ofNat 2 (rcField j.rc 96 2) ∧
      (u.vdev d).collLevel = BitVec.ofNat 2 (rcField j.rc 98 2) ∧ (∀ e, e ≠ d → u.vdev e = s.vdev e) ∧ u.mem = s.mem) ∧
    (cmd 0x0B 1 → ∃ u : State, done (.qosBound v q) u ∧
      (u.vdev d).bounds.get 0 (2 * rcField j.rc 96 3) = BitVec.ofNat 16 (rcField j.rc 112 16) ∧
      (u.vdev d).bounds.get 0 (2 * rcField j.rc 96 3 + 1) = BitVec.ofNat 16 (rcField j.rc 128 16)) ∧
    (∃ t, exec (.qosWindowEnd v) s = .next t ∧ (t.vdev v).window = (s.vdev v).window + 1 ∧ (t.vdev v).samples = 0 ∧ t.mem = s.mem) ∧
    (cmd 0x0C 0 →
      ((s.vdev d).keys = false → ∃ u : State,
        exec (.keyCreate v q) s = .next (if s.noTenants then s.endJob v q 0 stFailed 0x03 0 else u.endJob v q 0 stDone 0 0) ∧
        (u.vdev d).keys = true ∧
        (u.vdev d).vtime = 0 ∧ (u.vdev d).vcnt = Vector.replicate 8 0 ∧ (u.vdev d).measurement = List.replicate 64 0 ∧
        (u.vdev d).keyGen = (s.vdev d).keyGen + 1 ∧ u.mem = s.mem) ∧
      ((s.vdev d).keys = true → fails (.keyCreate v q) 0x03)) ∧
    (cmd 0x0C 1 →
      (j.pos = 1 → s.streamsGone d v q = true → ∃ t, exec (.keyErase v q) s = .next t ∧
        (∀ e ∈ t.windows, e.2.of d = true → e.2.rekeying = true) ∧ (t.job v q 0).map Job.pos = some 2 ∧ t.mem = s.mem) ∧
      (2 ≤ j.pos → (∀ e ∈ s.windows, e.2.of d = true → s.coveBusy e.1 e.2 = false) → ∃ u : State, done (.keyErase v q) u ∧
        (u.vdev d).keys = false ∧ (u.vdev d).graphs = [] ∧ (∀ e ∈ u.windows, e.2.owner ≠ d))) ∧
    (cmd 0x0D 0 → ∀ fs, s.coveFrames j.rc = some fs → s.windows.find w = none → s.accessesTo fs false = false →
      ∃ u : State, done (.coveCreate v q) u ∧ (∀ f ∈ fs, (u.frame f).cove = some w ∧ (u.frame f).owner = some d) ∧
        (u.windows.find w).map (fun x => (x.owner, x.frames, x.rekeying)) = some (d, fs, false) ∧ u.mem = s.mem) ∧
    (cmd 0x0D 0 → s.coveFrames j.rc = none →
      exec (.coveCreate v q) s = .next ((s.walkPages d (covePages j.rc)).endJob v q 0 stFailed 0x04 0)) ∧
    (∀ x, s.windows.find w = some x →
      (cmd 0x0D 1 → ∃ u : State, done (.coveGrant v q) u ∧ (u.windows.find w).map (fun y => y.holders.find d) =
        some (some (if rcField j.rc 192 1 = 1 then .grantedWrite else .grantedRead)) ∧ u.mem = s.mem) ∧
      (cmd 0x0D 2 → j.pos = 0 → ∃ t, exec (.coveRevoke v q) s = .next t ∧
        (t.windows.find w).map (fun y => (y.keyGen, y.rekeying, y.holders.find d)) = some (x.keyGen, true, some .revoked) ∧
        (t.job v q 0).map Job.pos = some 1 ∧ t.mem = s.mem) ∧
      (s.coveBusy w x = false → j.pos ≠ 0 →
        (∀ i : Instr, cmd 0x0D 2 ∧ i = .coveRevoke v q ∨ cmd 0x0D 3 ∧ i = .coveRekey v q → ∃ u : State, done i u ∧
          (u.windows.find w).map (fun y => (y.keyGen, y.rekeying, y.holders)) = some (x.keyGen + 1, false, x.holders) ∧
          u.mem = s.mem) ∧
        (cmd 0x0D 4 → ∃ u : State, done (.coveDestroy v q) u ∧ u.windows.find w = none ∧
          (∀ f ∈ x.frames, (u.frame f).cove = none ∧ (u.frame f).owner = some x.owner) ∧ u.mem = s.mem))) ∧
    (cmd 0x0E 0 → s.inCove d = false → (s.vdevs.filter fun e => e.2.migrating.isSome).length < 8 → (s.vdev d).migrating = none →
      ∃ u : State, done (.migrateBegin v q) u ∧ (u.vdev d).migrating = some { dest := rcField j.rc 160 6 } ∧ u.dirtyFrames d = [] ∧
        u.mem = s.mem) ∧
    (∀ m s1, (s.vdev d).migrating = some m → s.deviceWrite 0 a ((s.dirtyFrames d).flatMap fun f => leBytes 8 f) = .ok s1 →
        s.dirtyOvf d = false →
      (cmd 0x0E 1 → ∃ u : State, exec (.migrateRound v q) s =
          .next ((u.endJob v q 0 stDone 0 (s.dirtyFrames d).length).reachedBy (s.deviceNode 0) 0 a 8) ∧
        u.dirtyFrames d = [] ∧ u.mem = s1.mem) ∧
      (cmd 0x0E 2 → m.held = true →
        ∃ u : State, exec (.migrateFinal v q) s =
          .next ((u.endJob v q 0 stDone 0 (s.dirtyFrames d).length).reachedBy (s.deviceNode 0) 0 a 8) ∧
        (u.vdev d).migrating.map Migrating.finalDone = some true ∧ u.mem = s1.mem)) ∧
    (cmd 0x0E 3 → ∀ m, (s.vdev d).migrating = some m →
      (m.held = true → m.finalDone = true → j.pos = 0 → ∃ t, exec (.migrateCommit v q) s = .next t ∧
        (∀ e ∈ t.windows, e.2.of d = true → e.2.rekeying = true) ∧ (t.job v q 0).map Job.pos = some 1 ∧ t.mem = s.mem) ∧
      (j.pos ≠ 0 → (∀ e ∈ s.windows, e.2.of d = true → s.coveBusy e.1 e.2 = false) →
        ∃ u : State, done (.migrateCommit v q) u ∧ (u.vdev d).keys = false ∧ (∀ e ∈ u.launches, e.2.vdev ≠ d))) ∧
    (cmd 0x0E 4 → ∃ u : State, done (.migrateAbort v q) u ∧ (u.vdev d).migrating = none ∧ u.dirtyFrames d = [] ∧ u.mem = s.mem)

/-- What the host writes takes its effect, and an access to G space has one response (R272, R275, R280, R328, R342,
R343, R349, R294, R341, R385, R373, R374). Where the host reaches the module: SQTAIL, ERR, stream creation and
destruction, a link retrain, the release of a DOUBLE stop, PROMO, TRBASE, INTADDR and CTILE take the values written
where their rules allow. The debug state becomes NONE, TRACE but in PROD_LOCKED, and HALT in LAB and RMA, and stays as
it is in PROD_LOCKED and, for HALT, in PROD while a tenant has keys. A running cluster goes to NAP when it is idle, to
DROWSE when its cores stand, to DARK when its condition holds, and back to RUN. A free partition slot is created, an
idle one is resized or cleared, and one in use is not cleared. An attestation request with bit 63 set has its report,
but in security state RMA; a recovery image is taken in recovery mode alone, and a boot failure is told once INTADDR is
written. A read of at most 256 bytes answers them, a write stores all of them and answers, and a failed access answers
its cause, all once a port to the host is open. The model’s choices are: that a boot failure is told at a write of
INTADDR and that an image replaces the one that failed (log entry 35), the codes of CPWR (log entry 36), the bits that
TRBASE and DREL keep (log entry 40), that ERR clears alone and keeps DETAIL (log entry 41), and that the host is heard
before the ports are trained (log entry 63). -/
def Obligations.TheHostWritesAndReads : Prop :=
  (∀ (s : State) (v q : Nat) (x : Word), s.hostReach = true →
    (∃ t, exec (.sqtailWrite v q x) s = .next t ∧ (t.strm v q).tail = bits x 0 32 ∧ (t.strm v q).head = (s.strm v q).head ∧
      ((s.strm v q).live = true → 2 ^ (s.strm v q).size.toNat < (bits x 0 32 - (s.strm v q).head).toNat →
        (t.strm v q).err = true ∧ (t.strm v q).detail = 0x09) ∧ t.mem = s.mem) ∧
    (∃ t, exec (.sqstatErrClear v q) s = .next t ∧ t.strm v q = { s.strm v q with err := false, overran := false } ∧
      t.mem = s.mem) ∧
    (∀ slot, v < 512 → q < 64 → slot < 1024 → (s.part slot).valid = true → (s.part slot).vdev = v → (s.strm v q).live = false →
      ∃ t, exec (.streamCreate v q slot) s = .next t ∧ (t.strm v q).live = true ∧ (t.strm v q).part = slot ∧
        (t.strm v q).proc < 64 ∧ t.mem = s.mem) ∧
    ((s.strm v q).live = true → (s.strm v q).dying = false → (s.strm v q).jobs = [] → (s.strm v q).head = (s.strm v q).tail →
      ∃ t, exec (.streamDestroy v q) s = .next t ∧ (t.strm v q).dying = true ∧ (t.strm v q).jobs = [] ∧ t.mem = s.mem)) ∧
  (∀ (s : State) (x : Word) (n v : Nat), s.hostReach = true →
    (let asks := fun (d : BitVec 2) (r : Debug) => ∃ t, exec (.debugStateRequest d) s = .next t ∧ t.debug = r ∧ t.mem = s.mem;
      asks 0 .none ∧ (s.security ≠ .prodLocked → asks 1 .trace) ∧ (s.security = .lab ∨ s.security = .rma → asks 2 .halt) ∧
      (s.security = .prod → (∃ e ∈ s.vdevs, e.1 ≠ 0 ∧ e.2.keys = true) → asks 2 s.debug) ∧
      (s.security = .prodLocked → asks 1 s.debug ∧ asks 2 s.debug)) ∧
    (n < 32 → ∃ t, exec (.linkRetrainRequest n) s = .next t ∧ (t.dir n true).retraining = true ∧ (t.dir n false).retraining = true ∧
      t.lnkctl = BitVec.ofNat 64 n) ∧
    (∀ cloc, n < clusterCount → cloc < 64 → (s.core (coreAt n cloc)).stop = .double → s.debug = .halt →
      (s.core (coreAt n cloc)).doubleReleased = false →
      ∃ t, exec (.doubleRelease n cloc) s = .next t ∧ (t.core (coreAt n cloc)).doubleReleased = true ∧ getBit t.drel 63 = true) ∧
    (n < clusterCount → (s.cluster n).power = .run →
      (s.clusterIdle n = true → ∃ t, exec (.clusterPowerRequest n 1) s = .next t ∧ (t.cluster n).power = .nap) ∧
      (s.mayDark n = true → ∃ t, exec (.clusterPowerRequest n 3) s = .next t ∧ (t.cluster n).power = .dark)) ∧
    (n < clusterCount → (s.cluster n).power ≠ .dark →
      (∃ t, exec (.clusterPowerRequest n 2) s = .next t ∧ ((t.cluster n).power = .drowse ∧ (t.cluster n).request = none ∨
        (t.cluster n).power = .run ∧ (t.cluster n).request = some .drowse)) ∧
      (s.clusterLive n = [] → ∃ t, exec (.clusterPowerRequest n 2) s = .next t ∧ (t.cluster n).power = .drowse)) ∧
    (n < clusterCount → (s.cluster n).power ≠ .dark → ∃ t, exec (.clusterPowerRequest n 0) s = .next t ∧ (t.cluster n).power = .run) ∧
    (n < 1024 → (s.part n).valid = false → getBit x 63 = true → s.intervalFree n (bits x 0 20).toNat (bits x 20 20).toNat = true →
      ∃ t, exec (.partitionWrite n x) s = .next t ∧ (t.part n).valid = true ∧ (t.part n).base = (bits x 0 20).toNat ∧
        (t.part n).len = (bits x 20 20).toNat ∧ (t.part n).vdev = (bits x 40 9).toNat ∧ ∀ m, m ≠ n → t.part m = s.part m) ∧
    (n < 1024 → (s.part n).valid = true →
      (getBit x 63 = false → (s.partIdle n = true → ∃ t, exec (.partitionWrite n x) s = .next t ∧ (t.part n).valid = false ∧
          ∀ m, m ≠ n → t.part m = s.part m) ∧
        (s.partIdle n = false → exec (.partitionWrite n x) s = .next s)) ∧
      (getBit x 63 = true → (s.part n).vdev = (bits x 40 9).toNat → s.partIdle n = true →
        s.intervalFree n (bits x 0 20).toNat (bits x 20 20).toNat = true → ∃ t, exec (.partitionWrite n x) s = .next t ∧
          t.part n = { s.part n with base := (bits x 0 20).toNat, len := (bits x 20 20).toNat } ∧
          ∀ m, m ≠ n → t.part m = s.part m)) ∧
    (let s1 : State := { s with attreq := (bits x 0 9).setWidth 64 };
      (getBit x 63 = false ∨ s.security = .rma → exec (.attestationRequest x) s = .next s1) ∧
      (getBit x 63 = true → s.security ≠ .rma →
        exec (.attestationRequest x) s = .next { s1 with attrep := s.report (bits x 0 9).toNat, attReady := true } ∧
        (s.report (bits x 0 9).toNat).length = 1648)) ∧
    ((bits x 0 14).toNat ≤ 8192 → (∀ e ∈ s.frames, e.2.promoted = false ∧ e.2.moving = false) →
      exec (.promoWrite x) s = .next { s with promo := (bits x 0 14).setWidth 64 }) ∧
    (v < 512 → ∃ t, exec (.trbaseWrite v x) s = .next t ∧ (t.vdev v).trbase = x &&& 0xFFFFFFFFF000 ∧ (t.vdev v).trcnt = 0 ∧
      (t.vdev v).trdrop = 0 ∧ t.mem = s.mem) ∧
    (let s1 : State := { s with intaddr := x &&& 0xFFFFFFFFFFFF, intWritten := true };
      (s.failStep = 0 ∨ s.failTold = true → exec (.adminRegisterWrite 0x40 x) s = .next s1) ∧
      (s.failStep ≠ 0 → s.failTold = false → exec (.adminRegisterWrite 0x40 x) s =
        .next { s1 with failTold := true, host := s.host ++ [.bootFailure s.failStep.toNat] })) ∧
    (s.recovery = false →
      exec (.adminRegisterWrite 0x18 x) s = .next { s with ctile := x &&& 0x3FFF } ∧
      exec (.adminRegisterWrite 0 x) s = .next s) ∧
    ∀ im, (s.recovery = false → exec (.recoveryImageWrite im) s = .next s) ∧
      (s.recovery = true → exec (.recoveryImageWrite im) s =
        .next (if imageGood im then { s with flash := s.flash.put s.badImage im } else s))) ∧
  ∀ (s s1 : State) (v n : Nat) (a : Addr) (bs : List Byte) (c : Byte) (f : Addr), s.hostOpen = true →
    let told := fun (i : Instr) (t : State) (m : W32 → HostMsg) (z : Nat) => ∃ tag : W32, exec i s =
      .next (State.reachedBy { t with host := t.host ++ [m tag], fresh := t.fresh + 1 } s.hostNode v a.toNat z)
    (n ≤ 256 → s.deviceRead v a.toNat n true = .ok bs → told (.hostGRead v a n) s (fun g => .response v g bs) n) ∧
    (n ≤ 256 → s.deviceRead v a.toNat n true = .bad c f → told (.hostGRead v a n) s (fun g => .failure v g c) n) ∧
    (bs.length ≤ 256 → s.deviceWrite v a.toNat bs = .ok s1 →
      told (.hostGWrite v a bs) s1 (fun g => .response v g []) bs.length) ∧
    (bs.length ≤ 256 → s.deviceWrite v a.toNat bs = .bad c f → told (.hostGWrite v a bs) s (fun g => .failure v g c) bs.length)

/-- Packets are delivered in order or refused and sent again; a link acknowledges, replays and retrains (R314, R315,
R316, R318, R319, R324, R368, R369). A packet that is due is taken by a destination with room and its sequence number
passes on, into the inbox of a core that is stopped or is being saved and is not revoked; with no room it goes back to its source. A
refused packet that is the first of its source flies again; one that has stood at the head of its buffer for the
threshold enters the escape buffers and is told to the host. An elevator closes first, and a service core’s publication
raises its generation. On a link direction that is up, the expected packet with a good CRC advances the receiver, an
acknowledgement frees the replay buffer up to it and begins a replay where one was asked for, what is unacknowledged for
too long is replayed from the oldest on, a lane that goes down starts a retrain, and its end restores the widest group
that is up. -/
def Obligations.PacketsAndLinks : Prop :=
  (∀ (s : State) (id : Nat) (p : Packet), s.packets.find id = some p →
    (s.due p = true → p.payload.isAck = false → s.fencedNode p.dst = false → (p.poisoned = false ∨ p.cls ≠ .ctrl) →
      (∀ sl k c e, s.room p = true → p.dst = .slice sl → p.cls = .req → p.payload = .store k c e →
        ∃ t, exec (.packetDelivery id) s = .next t ∧
        t.packets.find id = none ∧ seqGet t.seqIn (p.src, p.dst, p.cls) = p.seq + 1 ∧
        ({ core := k, ctx := c, entry := e, poisoned := p.poisoned } : Taken) ∈ (t.slice sl).taken ∧ t.mem = s.mem) ∧
      (∀ k, s.room p = true → p.dst = .core k → p.payload = .plain → ∃ t, exec (.packetDelivery id) s = .next t ∧
        t.packets.find id = none ∧ (t.core k).rx = (s.core k).rx + 1 ∧
        ((s.core k).revoking = false → (t.core k).inbox =
          if (s.core k).stop = .running ∧ (s.core k).saving = false then (s.core k).inbox else (s.core k).inbox ++ [p])) ∧
      (s.room p = false → ∃ t, exec (.packetDelivery id) s = .next t ∧
        (t.packets.find id).map (fun q => (q.state, q.place)) = some (.nacked, .source) ∧ t.mem = s.mem)) ∧
    (p.state = .nacked → s.firstHeld p = true → s.fencedNode p.src = false → ∃ t, exec (.packetNackResend id) s = .next t ∧
      (t.packets.find id).map Packet.state = some .flying ∧ t.mem = s.mem) ∧
    (p.esc = false → s.heads p = true → p.since + s.esct ≤ s.cyc.toNat → (s.packets.map Prod.fst).Nodup →
      s.placeRoom { p with esc := true, enter := none, legs := [] } p.escapePlace = true →
      ∃ t, exec (.packetEscape id) s = .next t ∧ (t.packets.find id).map (fun q => (q.esc, q.cls, q.seq)) = some (true, p.cls, p.seq) ∧
        (t.cluster p.place.cluster).escapes = (s.cluster p.place.cluster).escapes + 1 ∧
        t.host = s.host ++ [.escapes p.place.cluster])) ∧
  (∀ (s : State) (cl : Nat),
    (cl < clusterCount → (s.cluster cl).elevator = .good →
      ∃ t, exec (.elevatorRetire cl) s = .next t ∧ (t.cluster cl).elevator = .closing ∧ t.mem = s.mem) ∧
    ∃ t, exec (.routeGenUpdate cl) s = .next t ∧ (t.cluster cl).gen = (s.cluster cl).gen + 1 ∧ t.mem = s.mem) ∧
  ∀ (s : State) (p : Nat) (out : Bool), p < 32 →
    let d := s.dir p out
    (d.up = true →
      (∀ x s1, s.linkOnWire p out d.next = some (x, s1) → x.copy = none → (∀ y ∈ d.replay, y.seq ≠ d.next) → ∀ ok : Bool,
        ∃ t, exec (.linkPacketReceive p out d.next ok) s = .next t ∧ (t.dir p out).next = d.next + 1 ∧
          (t.dir p out).expected = (if ok && decide (d.next = d.expected) then d.expected + 1 else d.expected) ∧
          (t.dir p out).nak = !(ok && decide (d.next = d.expected)) ∧ t.mem = s.mem) ∧
      (0 < d.unacked ∨ d.nak = true → ∃ t, exec (.linkAckTimer p out) s = .next t ∧ (t.dir p out).unacked = 0 ∧
        (t.dir p out).lastAck = s.cyc.toNat ∧ (t.dir p out).nak = false ∧
        (d.nak = true → (t.dir p out).again = ((t.dir p out).replay.head?).map LinkPacket.seq) ∧
        ∀ x ∈ (t.dir p out).replay, (d.next - x.seq).toNat ≤ (d.next - d.expected).toNat) ∧
      (∀ x r, d.replay = x :: r → x.sentAt + 2048 ≤ s.cyc.toNat → ∃ t, exec (.linkReplayTimeout p out) s = .next t ∧
        (t.dir p out).replay.map LinkPacket.seq = d.replay.map LinkPacket.seq ∧ (t.dir p out).again = some x.seq ∧
        ∀ y ∈ (t.dir p out).replay, y.sentAt = s.cyc.toNat)) ∧
    (∀ lane, lane < 16 → d.lanes.getLsbD lane = true → ∃ t, exec (.laneDown p out lane) s = .next t ∧
      (t.dir p out).retraining = true ∧ (t.dir p out).lanes.getLsbD lane = false ∧
      ∀ i, i ≠ lane → (t.dir p out).lanes.getLsbD i = d.lanes.getLsbD i) ∧
    (d.retraining = true → d.requested = false → laneWidth d.lanes ≠ 0 → ∃ t, exec (.linkRetrainDone p out) s = .next t ∧
      (t.dir p out).retraining = false ∧ (t.dir p out).width = laneWidth d.lanes ∧ (t.dir p out).lanes = d.lanes)

/-- Twins are compared, cores tested, errors contained and scrubbed; clusters sleep and wake; the module resets (R362,
R363, R366, R283, R296, R297, R335, R344, R377, R375, R365). Equal packets of a pair go on as one, and packets that
differ, or a twin that has waited too long without its counterpart, are a mismatch. A failed self-test quarantines a
core, or takes a quarantined one out of service. A contained error fences its cluster and tells the host. A scrubber
poisons a granule or line with an uncorrectable error, and a write-back of a line that is not yet stored, in a frame
with an owner or of a window, advances that line’s counter, where any other changes nothing. An idle cluster enters the
NAP requested, and wakes when it has cause; a power cap withholds grants; a thermal stop stops the cores that stand and
are not being saved, and its end lets them go; a DARK cluster that boots runs again; power-on reset leaves the reset
state but the boot flash, the fuses and the map-out list. -/
def Obligations.ErrorsTestsAndPower : Prop :=
  (∀ (s : State) (k : Nat) (y : Task) (w : Twin), (s.core k).task = some y → y.twin = some w →
    (∀ a b : Nat × Packet, w.primary = true → s.heldPair k w.partner = some (a, b) → a.1 ≠ b.1 →
      (packetsAgree a.2 b.2 = true → ∃ t, exec (.twinPacketCompare k) s = .next t ∧
        (t.packets.find a.1).map Packet.checked = some true ∧ t.packets.find b.1 = none ∧ t.mem = s.mem) ∧
      (packetsAgree a.2 b.2 = false → exec (.twinPacketCompare k) s = .next (s.twinMismatch k))) ∧
    (s.twinLate k w.partner = false → s.twinLate w.partner k = false → exec (.twinHashTimeout k) s = .next s) ∧
    (s.twinLate k w.partner = true → exec (.twinHashTimeout k) s = .next (s.twinMismatch k))) ∧
  (∀ (s : State) (k : Nat), (s.core k).testing = true →
    (∃ t, exec (.selfTestComplete k false) s = .next t ∧ (t.core k).testing = false ∧ t.mem = s.mem ∧
      ((s.core k).quarantined = false → (t.core k).quarantined = true ∧ (t.core k).outOfService = (s.core k).outOfService) ∧
      ((s.core k).quarantined = true → (t.core k).outOfService = true)) ∧
    ((s.core k).mismatchedAgain = false → ∃ t, exec (.selfTestComplete k true) s = .next t ∧ (t.core k).testing = false ∧
      (t.core k).quarantined = (s.core k).quarantined ∧ (t.core k).outOfService = (s.core k).outOfService)) ∧
  (∀ (s : State) (cl : Nat), cl < clusterCount →
    (∀ site, site ≠ .accumulator → ∃ t, exec (.containedError cl site) s = .next t ∧ (t.cluster cl).fenced = true ∧
      t.host.getLast? = some (.containment (s.tileNumber cl) site cl)) ∧
    (∀ b g, b < 768 → g < 256 → (s.bank cl b).state ≠ .gone → ∃ t, exec (.bankScrub cl b g .uncorrectable) s = .next t ∧
      (t.bank cl b).isPoison g = true ∧ (t.bank cl b).marked = true ∧ t.mem = s.mem)) ∧
  (∀ (s : State) (line : Nat),
    (∃ t, exec (.hbmScrub line .uncorrectable) s = .next t ∧ (t.line line).poison = true ∧ t.mem = s.mem) ∧
    exec (.hbmScrub line .corrected) s = .next s ∧
    ((s.stored.find line).isSome = true ∨ (s.frame (line / 512)).owner = none ∧ (s.frame (line / 512)).cove = none →
      exec (.lineWriteback line) s = .next s) ∧
    (s.stored.find line = none → (s.frame (line / 512)).owner ≠ none ∨ (s.frame (line / 512)).cove ≠ none →
      ∃ t, exec (.lineWriteback line) s = .next t ∧ t.mem = s.mem ∧ (t.stored.find line).isSome = true ∧
      let x := s.counter line
      let y := t.counter line
      (x.minor.get 0 (line % 64) ≠ 127 → y.major = x.major ∧ y.minor.get 0 (line % 64) = x.minor.get 0 (line % 64) + 1) ∧
      (x.minor.get 0 (line % 64) = 127 → y.major = x.major + 1 ∧ ∀ i, y.minor.get 0 i = 0))) ∧
  (∀ (s : State) (cl : Nat),
    ((s.cluster cl).request = some .nap → s.clusterIdle cl = true →
      exec (.napEntry cl) s = .next (s.setCluster cl { s.cluster cl with power := .nap, request := none })) ∧
    (((s.cluster cl).power = .nap ∨ (s.cluster cl).power = .drowse) →
      exec (.clusterWake cl) s = .next (if s.wakeCause cl then s.setCluster cl { s.cluster cl with power := .run } else s)) ∧
    (cl < clusterCount → (s.cluster cl).power = .dark → (s.cluster cl).booting = true → ∃ t, exec (.darkClusterBoot cl) s = .next t ∧
      (t.cluster cl).power = .run ∧ (t.cluster cl).tlb = [] ∧ (t.cluster cl).codeCache = [] ∧
      ∀ i, i < 64 → (t.core (coreAt cl i)).task = none ∧ (t.core (coreAt cl i)).stop = .running)) ∧
  ∀ s : State, (∀ b, exec (.powerCapThrottle b) s = .next { s with throttled := b }) ∧
    (∃ t, exec .thermalStop s = .next t ∧ t.thermal = true ∧ t.host.getLast? = some .thermal ∧ t.mem = s.mem ∧
      ∀ k < sites, ((∃ e ∈ s.cores, e.1 = k) ∨ ∃ e ∈ s.parts, e.2.valid = true ∧ k ∈ e.2.cores ∧ s.inService k = true) →
        (s.core k).saving = false → s.stands k = true → (t.core k).stop ≠ .running) ∧
    (∃ t, exec .thermalStopResume s = .next t ∧ t.thermal = false ∧
      ((∀ e ∈ s.cores, e.2.stop = .thermal → e.2.inbox = []) → t.mem = s.mem) ∧ ∀ e ∈ s.cores, (t.core e.1).stop ≠ .thermal) ∧
    ∃ t, exec .powerOnReset s = .next t ∧ t.flash = s.flash ∧ t.fuse = s.fuse ∧ t.inForce = s.fuse ∧ t.cores = [] ∧ t.clusters = [] ∧
      t.vdevs = [] ∧ t.mem = [] ∧ t.bootPhase = 0 ∧ t.cyc = 0 ∧ t.ctile = 0x81 ∧ ∀ e ∈ s.mapOut, e ∈ t.mapOut
end

