-- ==== Sys2Proof/Laws/Sparse.lean ====
section
/-! SUPPORT. Laws of sparse maps: what a key reads as after a write or a removal, and that the order of the keys is kept.
The read laws need no order: they hold of every list of pairs. -/

namespace Sys2Proof.Machine

variable {α : Type}

@[simp] theorem Sparse.find_nil (k : Nat) : Sparse.find ([] : Sparse α) k = none := rfl
@[simp] theorem Sparse.get_nil (d : α) (k : Nat) : Sparse.get ([] : Sparse α) d k = d := rfl
theorem Sparse.find_cons (j : Nat) (x : α) (t : Sparse α) (k : Nat) :
    Sparse.find ((j, x) :: t) k = if j = k then some x else Sparse.find t k := rfl

@[simp] theorem Sparse.find_put_self (m : Sparse α) (k : Nat) (x : α) : (m.put k x).find k = some x := by
  induction m with
  | nil => simp [Sparse.put, Sparse.find]
  | cons e t ih =>
    obtain ⟨j, y⟩ := e
    unfold Sparse.put
    split
    · simp [Sparse.find]
    · split
      · simp [Sparse.find]
      · rename_i h _
        simp [Sparse.find_cons, Ne.symm h, ih]

theorem Sparse.find_put_ne (m : Sparse α) {k i : Nat} (x : α) (h : i ≠ k) : (m.put k x).find i = m.find i := by
  induction m with
  | nil => simp [Sparse.put, Sparse.find, h.symm]
  | cons e t ih =>
    obtain ⟨j, y⟩ := e
    unfold Sparse.put
    split
    · rename_i hk
      simp [Sparse.find_cons, h.symm, ← hk]
    · split
      · simp [Sparse.find_cons, h.symm]
      · simp [Sparse.find_cons, ih]

@[simp] theorem Sparse.get_put_self (m : Sparse α) (d : α) (k : Nat) (x : α) : (m.put k x).get d k = x := by
  simp [Sparse.get]

theorem Sparse.get_put_ne (m : Sparse α) (d : α) {k i : Nat} (x : α) (h : i ≠ k) : (m.put k x).get d i = m.get d i := by
  simp [Sparse.get, Sparse.find_put_ne m x h]

theorem Sparse.find_filter_ne (m : Sparse α) (p : Nat × α → Bool) (k : Nat) (h : ∀ x, p (k, x) = true) :
    Sparse.find (m.filter p) k = m.find k := by
  induction m with
  | nil => rfl
  | cons e t ih =>
    obtain ⟨j, y⟩ := e
    by_cases hp : p (j, y) = true
    · simp [hp, Sparse.find_cons, ih]
    · by_cases hj : j = k
      · exact absurd (hj ▸ h y) hp
      · simp [hp, Sparse.find_cons, hj, ih]

theorem Sparse.find_filter_none (m : Sparse α) (p : Nat × α → Bool) (k : Nat) (h : ∀ x, p (k, x) = false) :
    Sparse.find (m.filter p) k = none := by
  induction m with
  | nil => rfl
  | cons e t ih =>
    obtain ⟨j, y⟩ := e
    by_cases hj : j = k
    · subst hj; simp [h, ih]
    · by_cases hp : p (j, y) = true <;> simp [hp, Sparse.find_cons, hj, ih]

@[simp] theorem Sparse.find_drop_self (m : Sparse α) (k : Nat) : (m.drop k).find k = none :=
  Sparse.find_filter_none m _ k (by simp)

theorem Sparse.find_drop_ne (m : Sparse α) {k i : Nat} (h : i ≠ k) : (m.drop k).find i = m.find i :=
  Sparse.find_filter_ne m _ i (by simp [h])

@[simp] theorem Sparse.get_drop_self (m : Sparse α) (d : α) (k : Nat) : (m.drop k).get d k = d := by simp [Sparse.get]

theorem Sparse.get_drop_ne (m : Sparse α) (d : α) {k i : Nat} (h : i ≠ k) : (m.drop k).get d i = m.get d i := by
  simp [Sparse.get, Sparse.find_drop_ne m h]

@[simp] theorem Sparse.get_putD_self [DecidableEq α] (m : Sparse α) (d : α) (k : Nat) (x : α) :
    (Sparse.putD d m k x).get d k = x := by
  unfold Sparse.putD; split <;> simp [*]

theorem Sparse.get_putD_ne [DecidableEq α] (m : Sparse α) (d : α) {k i : Nat} (x : α) (h : i ≠ k) :
    (Sparse.putD d m k x).get d i = m.get d i := by
  unfold Sparse.putD; split
  · exact Sparse.get_drop_ne m d h
  · exact Sparse.get_put_ne m d x h

/-! ### The order of the keys -/

/-- Keys strictly rise exactly when the list of keys is strictly sorted. -/
theorem Sparse.rising_iff (m : Sparse α) : m.rising = true ↔ m.Pairwise fun a b => a.1 < b.1 := by
  induction m with
  | nil => simp [Sparse.rising]
  | cons e t ih =>
    cases t with
    | nil => simp [Sparse.rising]
    | cons f u =>
      obtain ⟨j, x⟩ := e
      obtain ⟨k, y⟩ := f
      simp only [Sparse.rising, Bool.and_eq_true, decide_eq_true_eq, ih]
      constructor
      · rintro ⟨h, hp⟩
        refine List.Pairwise.cons ?_ hp
        intro b hb
        rcases List.mem_cons.mp hb with rfl | hb
        · exact h
        · exact lt_trans h ((List.pairwise_cons.mp hp).1 b hb)
      · intro h
        exact ⟨(List.pairwise_cons.mp h).1 _ (List.mem_cons_self ..), (List.pairwise_cons.mp h).2⟩

theorem Sparse.rising_filter (m : Sparse α) (p : Nat × α → Bool) (h : m.rising = true) :
    Sparse.rising (m.filter p) = true := by
  rw [Sparse.rising_iff] at h ⊢
  exact h.filter p

theorem Sparse.mem_put (m : Sparse α) (k : Nat) (x : α) (e : Nat × α) (h : e ∈ m.put k x) : e = (k, x) ∨ e ∈ m := by
  induction m with
  | nil => simpa [Sparse.put] using h
  | cons f t ih =>
    obtain ⟨j, y⟩ := f
    unfold Sparse.put at h
    split at h
    · rcases List.mem_cons.mp h with h | h
      · exact .inl h
      · exact .inr (List.mem_cons_of_mem _ h)
    · split at h
      · rcases List.mem_cons.mp h with h | h
        · exact .inl h
        · exact .inr h
      · rcases List.mem_cons.mp h with h | h
        · exact .inr (h ▸ List.mem_cons_self ..)
        · exact (ih h).imp id (List.mem_cons_of_mem _)

theorem Sparse.rising_put (m : Sparse α) (k : Nat) (x : α) (h : m.rising = true) : (m.put k x).rising = true := by
  rw [Sparse.rising_iff] at h ⊢
  induction m with
  | nil => simp [Sparse.put]
  | cons e t ih =>
    obtain ⟨j, y⟩ := e
    have ht := List.pairwise_cons.mp h
    unfold Sparse.put
    split
    · rename_i hk
      subst hk
      exact List.Pairwise.cons ht.1 ht.2
    · split
      · rename_i hk
        refine List.Pairwise.cons ?_ h
        intro b hb
        rcases List.mem_cons.mp hb with rfl | hb
        · exact hk
        · exact lt_trans hk (ht.1 b hb)
      · refine List.Pairwise.cons ?_ (ih ht.2)
        intro b hb
        rcases Sparse.mem_put t k x b hb with rfl | hb
        · simp only; omega
        · exact ht.1 b hb

end Sys2Proof.Machine
end

