-- ==== Sys2Proof/Laws/Memory.lean ====
section
/-! SUPPORT. Laws of G memory: reads after writes, and that every operation on memory keeps its canonical form. -/

namespace Sys2Proof.Machine

@[simp] theorem Memory.read_write_self (m : List Host.Cell) (a : Nat) (x : Byte) : Memory.read (Memory.write m a x) a = x :=
  Sparse.get_putD_self m 0 a x

theorem Memory.read_write_ne (m : List Host.Cell) {a b : Nat} (x : Byte) (h : b ≠ a) :
    Memory.read (Memory.write m a x) b = Memory.read m b :=
  Sparse.get_putD_ne m 0 x h

theorem Memory.wf_nil : Memory.wf [] = true := rfl

theorem Memory.wf_filter (m : List Host.Cell) (p : Host.Cell → Bool) (h : Memory.wf m = true) : Memory.wf (m.filter p) = true := by
  simp only [Memory.wf, Bool.and_eq_true] at h ⊢
  refine ⟨Sparse.rising_filter m p h.1, ?_⟩
  simp only [List.all_eq_true] at h ⊢
  exact fun e he => h.2 e (List.mem_filter.mp he).1

theorem Memory.wf_write (m : List Host.Cell) (a : Nat) (x : Byte) (h : Memory.wf m = true) :
    Memory.wf (Memory.write m a x) = true := by
  unfold Memory.write Sparse.putD
  split
  · exact Memory.wf_filter m _ h
  · rename_i hx
    simp only [Memory.wf, Bool.and_eq_true, List.all_eq_true] at h ⊢
    refine ⟨Sparse.rising_put m a x h.1, fun e he => ?_⟩
    rcases Sparse.mem_put m a x e he with rfl | he
    · simpa using hx
    · exact h.2 e he

theorem Memory.wf_writeN (m : List Host.Cell) (a v n : Nat) (h : Memory.wf m = true) :
    Memory.wf (Memory.writeN m a v n) = true := by
  induction n generalizing m a v with
  | zero => exact h
  | succ n ih => exact ih _ _ _ (Memory.wf_write m a _ h)

theorem Memory.wf_reset : Memory.wf State.reset.mem = true := rfl

theorem State.noteDirty_mem (s : State) (v pa : Nat) : (s.noteDirty v pa).mem = s.mem := by
  unfold State.noteDirty State.setSlice; split
  · simp only []; split
    · rfl
    · split <;> rfl
  · rfl

@[simp] theorem State.gStore_mem (s : State) (v pa n x : Nat) : (s.gStore v pa n x).mem = Memory.writeN s.mem pa x n := by
  unfold State.gStore; simp only [State.noteDirty_mem]; split <;> rfl

theorem State.gStore_wf (s : State) (v pa n x : Nat) (h : Memory.wf s.mem = true) :
    Memory.wf (s.gStore v pa n x).mem = true := by
  rw [State.gStore_mem]; exact Memory.wf_writeN _ _ _ _ h

end Sys2Proof.Machine
end

