-- ==== Sys2Proof/Laws/State.lean ====
section
/-! SUPPORT. Laws of the state: one lemma per field per update, and what an accessor reads after an update of its own unit
or of another. No later proof has to unfold a record update. -/

namespace Sys2Proof.Machine

/-! ### `State.setCore` -/

@[simp] theorem State.setCore_script (s : State) (k : Nat) (x : Core) : (s.setCore k x).script = s.script := rfl
@[simp] theorem State.setCore_fresh (s : State) (k : Nat) (x : Core) : (s.setCore k x).fresh = s.fresh := rfl
@[simp] theorem State.setCore_cur (s : State) (k : Nat) (x : Core) : (s.setCore k x).cur = s.cur := rfl
@[simp] theorem State.setCore_cyc (s : State) (k : Nat) (x : Core) : (s.setCore k x).cyc = s.cyc := rfl
@[simp] theorem State.setCore_quads (s : State) (k : Nat) (x : Core) : (s.setCore k x).quads = s.quads := rfl
@[simp] theorem State.setCore_clusters (s : State) (k : Nat) (x : Core) : (s.setCore k x).clusters = s.clusters := rfl
@[simp] theorem State.setCore_parts (s : State) (k : Nat) (x : Core) : (s.setCore k x).parts = s.parts := rfl
@[simp] theorem State.setCore_vdevs (s : State) (k : Nat) (x : Core) : (s.setCore k x).vdevs = s.vdevs := rfl
@[simp] theorem State.setCore_windows (s : State) (k : Nat) (x : Core) : (s.setCore k x).windows = s.windows := rfl
@[simp] theorem State.setCore_mem (s : State) (k : Nat) (x : Core) : (s.setCore k x).mem = s.mem := rfl
@[simp] theorem State.setCore_frames (s : State) (k : Nat) (x : Core) : (s.setCore k x).frames = s.frames := rfl
@[simp] theorem State.setCore_lines (s : State) (k : Nat) (x : Core) : (s.setCore k x).lines = s.lines := rfl
@[simp] theorem State.setCore_stored (s : State) (k : Nat) (x : Core) : (s.setCore k x).stored = s.stored := rfl
@[simp] theorem State.setCore_counters (s : State) (k : Nat) (x : Core) : (s.setCore k x).counters = s.counters := rfl
@[simp] theorem State.setCore_slices (s : State) (k : Nat) (x : Core) : (s.setCore k x).slices = s.slices := rfl
@[simp] theorem State.setCore_through (s : State) (k : Nat) (x : Core) : (s.setCore k x).through = s.through := rfl
@[simp] theorem State.setCore_launches (s : State) (k : Nat) (x : Core) : (s.setCore k x).launches = s.launches := rfl
@[simp] theorem State.setCore_launchSeq (s : State) (k : Nat) (x : Core) : (s.setCore k x).launchSeq = s.launchSeq := rfl
@[simp] theorem State.setCore_taskSeq (s : State) (k : Nat) (x : Core) : (s.setCore k x).taskSeq = s.taskSeq := rfl
@[simp] theorem State.setCore_saved (s : State) (k : Nat) (x : Core) : (s.setCore k x).saved = s.saved := rfl
@[simp] theorem State.setCore_packets (s : State) (k : Nat) (x : Core) : (s.setCore k x).packets = s.packets := rfl
@[simp] theorem State.setCore_packetSeq (s : State) (k : Nat) (x : Core) : (s.setCore k x).packetSeq = s.packetSeq := rfl
@[simp] theorem State.setCore_travel (s : State) (k : Nat) (x : Core) : (s.setCore k x).travel = s.travel := rfl
@[simp] theorem State.setCore_arrivals (s : State) (k : Nat) (x : Core) : (s.setCore k x).arrivals = s.arrivals := rfl
@[simp] theorem State.setCore_links (s : State) (k : Nat) (x : Core) : (s.setCore k x).links = s.links := rfl
@[simp] theorem State.setCore_hints (s : State) (k : Nat) (x : Core) : (s.setCore k x).hints = s.hints := rfl
@[simp] theorem State.setCore_esct (s : State) (k : Nat) (x : Core) : (s.setCore k x).esct = s.esct := rfl
@[simp] theorem State.setCore_seqOut (s : State) (k : Nat) (x : Core) : (s.setCore k x).seqOut = s.seqOut := rfl
@[simp] theorem State.setCore_seqIn (s : State) (k : Nat) (x : Core) : (s.setCore k x).seqIn = s.seqIn := rfl
@[simp] theorem State.setCore_ports (s : State) (k : Nat) (x : Core) : (s.setCore k x).ports = s.ports := rfl
@[simp] theorem State.setCore_host (s : State) (k : Nat) (x : Core) : (s.setCore k x).host = s.host := rfl
@[simp] theorem State.setCore_hostSent (s : State) (k : Nat) (x : Core) : (s.setCore k x).hostSent = s.hostSent := rfl
@[simp] theorem State.setCore_bootPhase (s : State) (k : Nat) (x : Core) : (s.setCore k x).bootPhase = s.bootPhase := rfl
@[simp] theorem State.setCore_recovery (s : State) (k : Nat) (x : Core) : (s.setCore k x).recovery = s.recovery := rfl
@[simp] theorem State.setCore_failStep (s : State) (k : Nat) (x : Core) : (s.setCore k x).failStep = s.failStep := rfl
@[simp] theorem State.setCore_intWritten (s : State) (k : Nat) (x : Core) : (s.setCore k x).intWritten = s.intWritten := rfl
@[simp] theorem State.setCore_failTold (s : State) (k : Nat) (x : Core) : (s.setCore k x).failTold = s.failTold := rfl
@[simp] theorem State.setCore_badImage (s : State) (k : Nat) (x : Core) : (s.setCore k x).badImage = s.badImage := rfl
@[simp] theorem State.setCore_flash (s : State) (k : Nat) (x : Core) : (s.setCore k x).flash = s.flash := rfl
@[simp] theorem State.setCore_mapOut (s : State) (k : Nat) (x : Core) : (s.setCore k x).mapOut = s.mapOut := rfl
@[simp] theorem State.setCore_fw (s : State) (k : Nat) (x : Core) : (s.setCore k x).fw = s.fw := rfl
@[simp] theorem State.setCore_fuse (s : State) (k : Nat) (x : Core) : (s.setCore k x).fuse = s.fuse := rfl
@[simp] theorem State.setCore_inForce (s : State) (k : Nat) (x : Core) : (s.setCore k x).inForce = s.inForce := rfl
@[simp] theorem State.setCore_debug (s : State) (k : Nat) (x : Core) : (s.setCore k x).debug = s.debug := rfl
@[simp] theorem State.setCore_ctile (s : State) (k : Nat) (x : Core) : (s.setCore k x).ctile = s.ctile := rfl
@[simp] theorem State.setCore_t1frames (s : State) (k : Nat) (x : Core) : (s.setCore k x).t1frames = s.t1frames := rfl
@[simp] theorem State.setCore_promo (s : State) (k : Nat) (x : Core) : (s.setCore k x).promo = s.promo := rfl
@[simp] theorem State.setCore_pwrcap (s : State) (k : Nat) (x : Core) : (s.setCore k x).pwrcap = s.pwrcap := rfl
@[simp] theorem State.setCore_intaddr (s : State) (k : Nat) (x : Core) : (s.setCore k x).intaddr = s.intaddr := rfl
@[simp] theorem State.setCore_lnkctl (s : State) (k : Nat) (x : Core) : (s.setCore k x).lnkctl = s.lnkctl := rfl
@[simp] theorem State.setCore_drel (s : State) (k : Nat) (x : Core) : (s.setCore k x).drel = s.drel := rfl
@[simp] theorem State.setCore_attreq (s : State) (k : Nat) (x : Core) : (s.setCore k x).attreq = s.attreq := rfl
@[simp] theorem State.setCore_nonce (s : State) (k : Nat) (x : Core) : (s.setCore k x).nonce = s.nonce := rfl
@[simp] theorem State.setCore_attrep (s : State) (k : Nat) (x : Core) : (s.setCore k x).attrep = s.attrep := rfl
@[simp] theorem State.setCore_attReady (s : State) (k : Nat) (x : Core) : (s.setCore k x).attReady = s.attReady := rfl
@[simp] theorem State.setCore_throttled (s : State) (k : Nat) (x : Core) : (s.setCore k x).throttled = s.throttled := rfl
@[simp] theorem State.setCore_thermal (s : State) (k : Nat) (x : Core) : (s.setCore k x).thermal = s.thermal := rfl

/-! ### `State.setCtx` -/

@[simp] theorem State.setCtx_script (s : State) (k c : Nat) (x : Ctx) : (s.setCtx k c x).script = s.script := rfl
@[simp] theorem State.setCtx_fresh (s : State) (k c : Nat) (x : Ctx) : (s.setCtx k c x).fresh = s.fresh := rfl
@[simp] theorem State.setCtx_cur (s : State) (k c : Nat) (x : Ctx) : (s.setCtx k c x).cur = s.cur := rfl
@[simp] theorem State.setCtx_cyc (s : State) (k c : Nat) (x : Ctx) : (s.setCtx k c x).cyc = s.cyc := rfl
@[simp] theorem State.setCtx_quads (s : State) (k c : Nat) (x : Ctx) : (s.setCtx k c x).quads = s.quads := rfl
@[simp] theorem State.setCtx_clusters (s : State) (k c : Nat) (x : Ctx) : (s.setCtx k c x).clusters = s.clusters := rfl
@[simp] theorem State.setCtx_parts (s : State) (k c : Nat) (x : Ctx) : (s.setCtx k c x).parts = s.parts := rfl
@[simp] theorem State.setCtx_vdevs (s : State) (k c : Nat) (x : Ctx) : (s.setCtx k c x).vdevs = s.vdevs := rfl
@[simp] theorem State.setCtx_windows (s : State) (k c : Nat) (x : Ctx) : (s.setCtx k c x).windows = s.windows := rfl
@[simp] theorem State.setCtx_mem (s : State) (k c : Nat) (x : Ctx) : (s.setCtx k c x).mem = s.mem := rfl
@[simp] theorem State.setCtx_frames (s : State) (k c : Nat) (x : Ctx) : (s.setCtx k c x).frames = s.frames := rfl
@[simp] theorem State.setCtx_lines (s : State) (k c : Nat) (x : Ctx) : (s.setCtx k c x).lines = s.lines := rfl
@[simp] theorem State.setCtx_stored (s : State) (k c : Nat) (x : Ctx) : (s.setCtx k c x).stored = s.stored := rfl
@[simp] theorem State.setCtx_counters (s : State) (k c : Nat) (x : Ctx) : (s.setCtx k c x).counters = s.counters := rfl
@[simp] theorem State.setCtx_slices (s : State) (k c : Nat) (x : Ctx) : (s.setCtx k c x).slices = s.slices := rfl
@[simp] theorem State.setCtx_through (s : State) (k c : Nat) (x : Ctx) : (s.setCtx k c x).through = s.through := rfl
@[simp] theorem State.setCtx_launches (s : State) (k c : Nat) (x : Ctx) : (s.setCtx k c x).launches = s.launches := rfl
@[simp] theorem State.setCtx_launchSeq (s : State) (k c : Nat) (x : Ctx) : (s.setCtx k c x).launchSeq = s.launchSeq := rfl
@[simp] theorem State.setCtx_taskSeq (s : State) (k c : Nat) (x : Ctx) : (s.setCtx k c x).taskSeq = s.taskSeq := rfl
@[simp] theorem State.setCtx_saved (s : State) (k c : Nat) (x : Ctx) : (s.setCtx k c x).saved = s.saved := rfl
@[simp] theorem State.setCtx_packets (s : State) (k c : Nat) (x : Ctx) : (s.setCtx k c x).packets = s.packets := rfl
@[simp] theorem State.setCtx_packetSeq (s : State) (k c : Nat) (x : Ctx) : (s.setCtx k c x).packetSeq = s.packetSeq := rfl
@[simp] theorem State.setCtx_travel (s : State) (k c : Nat) (x : Ctx) : (s.setCtx k c x).travel = s.travel := rfl
@[simp] theorem State.setCtx_arrivals (s : State) (k c : Nat) (x : Ctx) : (s.setCtx k c x).arrivals = s.arrivals := rfl
@[simp] theorem State.setCtx_links (s : State) (k c : Nat) (x : Ctx) : (s.setCtx k c x).links = s.links := rfl
@[simp] theorem State.setCtx_hints (s : State) (k c : Nat) (x : Ctx) : (s.setCtx k c x).hints = s.hints := rfl
@[simp] theorem State.setCtx_esct (s : State) (k c : Nat) (x : Ctx) : (s.setCtx k c x).esct = s.esct := rfl
@[simp] theorem State.setCtx_seqOut (s : State) (k c : Nat) (x : Ctx) : (s.setCtx k c x).seqOut = s.seqOut := rfl
@[simp] theorem State.setCtx_seqIn (s : State) (k c : Nat) (x : Ctx) : (s.setCtx k c x).seqIn = s.seqIn := rfl
@[simp] theorem State.setCtx_ports (s : State) (k c : Nat) (x : Ctx) : (s.setCtx k c x).ports = s.ports := rfl
@[simp] theorem State.setCtx_host (s : State) (k c : Nat) (x : Ctx) : (s.setCtx k c x).host = s.host := rfl
@[simp] theorem State.setCtx_hostSent (s : State) (k c : Nat) (x : Ctx) : (s.setCtx k c x).hostSent = s.hostSent := rfl
@[simp] theorem State.setCtx_bootPhase (s : State) (k c : Nat) (x : Ctx) : (s.setCtx k c x).bootPhase = s.bootPhase := rfl
@[simp] theorem State.setCtx_recovery (s : State) (k c : Nat) (x : Ctx) : (s.setCtx k c x).recovery = s.recovery := rfl
@[simp] theorem State.setCtx_failStep (s : State) (k c : Nat) (x : Ctx) : (s.setCtx k c x).failStep = s.failStep := rfl
@[simp] theorem State.setCtx_intWritten (s : State) (k c : Nat) (x : Ctx) : (s.setCtx k c x).intWritten = s.intWritten := rfl
@[simp] theorem State.setCtx_failTold (s : State) (k c : Nat) (x : Ctx) : (s.setCtx k c x).failTold = s.failTold := rfl
@[simp] theorem State.setCtx_badImage (s : State) (k c : Nat) (x : Ctx) : (s.setCtx k c x).badImage = s.badImage := rfl
@[simp] theorem State.setCtx_flash (s : State) (k c : Nat) (x : Ctx) : (s.setCtx k c x).flash = s.flash := rfl
@[simp] theorem State.setCtx_mapOut (s : State) (k c : Nat) (x : Ctx) : (s.setCtx k c x).mapOut = s.mapOut := rfl
@[simp] theorem State.setCtx_fw (s : State) (k c : Nat) (x : Ctx) : (s.setCtx k c x).fw = s.fw := rfl
@[simp] theorem State.setCtx_fuse (s : State) (k c : Nat) (x : Ctx) : (s.setCtx k c x).fuse = s.fuse := rfl
@[simp] theorem State.setCtx_inForce (s : State) (k c : Nat) (x : Ctx) : (s.setCtx k c x).inForce = s.inForce := rfl
@[simp] theorem State.setCtx_debug (s : State) (k c : Nat) (x : Ctx) : (s.setCtx k c x).debug = s.debug := rfl
@[simp] theorem State.setCtx_ctile (s : State) (k c : Nat) (x : Ctx) : (s.setCtx k c x).ctile = s.ctile := rfl
@[simp] theorem State.setCtx_t1frames (s : State) (k c : Nat) (x : Ctx) : (s.setCtx k c x).t1frames = s.t1frames := rfl
@[simp] theorem State.setCtx_promo (s : State) (k c : Nat) (x : Ctx) : (s.setCtx k c x).promo = s.promo := rfl
@[simp] theorem State.setCtx_pwrcap (s : State) (k c : Nat) (x : Ctx) : (s.setCtx k c x).pwrcap = s.pwrcap := rfl
@[simp] theorem State.setCtx_intaddr (s : State) (k c : Nat) (x : Ctx) : (s.setCtx k c x).intaddr = s.intaddr := rfl
@[simp] theorem State.setCtx_lnkctl (s : State) (k c : Nat) (x : Ctx) : (s.setCtx k c x).lnkctl = s.lnkctl := rfl
@[simp] theorem State.setCtx_drel (s : State) (k c : Nat) (x : Ctx) : (s.setCtx k c x).drel = s.drel := rfl
@[simp] theorem State.setCtx_attreq (s : State) (k c : Nat) (x : Ctx) : (s.setCtx k c x).attreq = s.attreq := rfl
@[simp] theorem State.setCtx_nonce (s : State) (k c : Nat) (x : Ctx) : (s.setCtx k c x).nonce = s.nonce := rfl
@[simp] theorem State.setCtx_attrep (s : State) (k c : Nat) (x : Ctx) : (s.setCtx k c x).attrep = s.attrep := rfl
@[simp] theorem State.setCtx_attReady (s : State) (k c : Nat) (x : Ctx) : (s.setCtx k c x).attReady = s.attReady := rfl
@[simp] theorem State.setCtx_throttled (s : State) (k c : Nat) (x : Ctx) : (s.setCtx k c x).throttled = s.throttled := rfl
@[simp] theorem State.setCtx_thermal (s : State) (k c : Nat) (x : Ctx) : (s.setCtx k c x).thermal = s.thermal := rfl

/-! ### `State.setMe` -/

@[simp] theorem State.setMe_script (s : State) (x : Ctx) : (s.setMe x).script = s.script := rfl
@[simp] theorem State.setMe_fresh (s : State) (x : Ctx) : (s.setMe x).fresh = s.fresh := rfl
@[simp] theorem State.setMe_cur (s : State) (x : Ctx) : (s.setMe x).cur = s.cur := rfl
@[simp] theorem State.setMe_cyc (s : State) (x : Ctx) : (s.setMe x).cyc = s.cyc := rfl
@[simp] theorem State.setMe_quads (s : State) (x : Ctx) : (s.setMe x).quads = s.quads := rfl
@[simp] theorem State.setMe_clusters (s : State) (x : Ctx) : (s.setMe x).clusters = s.clusters := rfl
@[simp] theorem State.setMe_parts (s : State) (x : Ctx) : (s.setMe x).parts = s.parts := rfl
@[simp] theorem State.setMe_vdevs (s : State) (x : Ctx) : (s.setMe x).vdevs = s.vdevs := rfl
@[simp] theorem State.setMe_windows (s : State) (x : Ctx) : (s.setMe x).windows = s.windows := rfl
@[simp] theorem State.setMe_mem (s : State) (x : Ctx) : (s.setMe x).mem = s.mem := rfl
@[simp] theorem State.setMe_frames (s : State) (x : Ctx) : (s.setMe x).frames = s.frames := rfl
@[simp] theorem State.setMe_lines (s : State) (x : Ctx) : (s.setMe x).lines = s.lines := rfl
@[simp] theorem State.setMe_stored (s : State) (x : Ctx) : (s.setMe x).stored = s.stored := rfl
@[simp] theorem State.setMe_counters (s : State) (x : Ctx) : (s.setMe x).counters = s.counters := rfl
@[simp] theorem State.setMe_slices (s : State) (x : Ctx) : (s.setMe x).slices = s.slices := rfl
@[simp] theorem State.setMe_through (s : State) (x : Ctx) : (s.setMe x).through = s.through := rfl
@[simp] theorem State.setMe_launches (s : State) (x : Ctx) : (s.setMe x).launches = s.launches := rfl
@[simp] theorem State.setMe_launchSeq (s : State) (x : Ctx) : (s.setMe x).launchSeq = s.launchSeq := rfl
@[simp] theorem State.setMe_taskSeq (s : State) (x : Ctx) : (s.setMe x).taskSeq = s.taskSeq := rfl
@[simp] theorem State.setMe_saved (s : State) (x : Ctx) : (s.setMe x).saved = s.saved := rfl
@[simp] theorem State.setMe_packets (s : State) (x : Ctx) : (s.setMe x).packets = s.packets := rfl
@[simp] theorem State.setMe_packetSeq (s : State) (x : Ctx) : (s.setMe x).packetSeq = s.packetSeq := rfl
@[simp] theorem State.setMe_travel (s : State) (x : Ctx) : (s.setMe x).travel = s.travel := rfl
@[simp] theorem State.setMe_arrivals (s : State) (x : Ctx) : (s.setMe x).arrivals = s.arrivals := rfl
@[simp] theorem State.setMe_links (s : State) (x : Ctx) : (s.setMe x).links = s.links := rfl
@[simp] theorem State.setMe_hints (s : State) (x : Ctx) : (s.setMe x).hints = s.hints := rfl
@[simp] theorem State.setMe_esct (s : State) (x : Ctx) : (s.setMe x).esct = s.esct := rfl
@[simp] theorem State.setMe_seqOut (s : State) (x : Ctx) : (s.setMe x).seqOut = s.seqOut := rfl
@[simp] theorem State.setMe_seqIn (s : State) (x : Ctx) : (s.setMe x).seqIn = s.seqIn := rfl
@[simp] theorem State.setMe_ports (s : State) (x : Ctx) : (s.setMe x).ports = s.ports := rfl
@[simp] theorem State.setMe_host (s : State) (x : Ctx) : (s.setMe x).host = s.host := rfl
@[simp] theorem State.setMe_hostSent (s : State) (x : Ctx) : (s.setMe x).hostSent = s.hostSent := rfl
@[simp] theorem State.setMe_bootPhase (s : State) (x : Ctx) : (s.setMe x).bootPhase = s.bootPhase := rfl
@[simp] theorem State.setMe_recovery (s : State) (x : Ctx) : (s.setMe x).recovery = s.recovery := rfl
@[simp] theorem State.setMe_failStep (s : State) (x : Ctx) : (s.setMe x).failStep = s.failStep := rfl
@[simp] theorem State.setMe_intWritten (s : State) (x : Ctx) : (s.setMe x).intWritten = s.intWritten := rfl
@[simp] theorem State.setMe_failTold (s : State) (x : Ctx) : (s.setMe x).failTold = s.failTold := rfl
@[simp] theorem State.setMe_badImage (s : State) (x : Ctx) : (s.setMe x).badImage = s.badImage := rfl
@[simp] theorem State.setMe_flash (s : State) (x : Ctx) : (s.setMe x).flash = s.flash := rfl
@[simp] theorem State.setMe_mapOut (s : State) (x : Ctx) : (s.setMe x).mapOut = s.mapOut := rfl
@[simp] theorem State.setMe_fw (s : State) (x : Ctx) : (s.setMe x).fw = s.fw := rfl
@[simp] theorem State.setMe_fuse (s : State) (x : Ctx) : (s.setMe x).fuse = s.fuse := rfl
@[simp] theorem State.setMe_inForce (s : State) (x : Ctx) : (s.setMe x).inForce = s.inForce := rfl
@[simp] theorem State.setMe_debug (s : State) (x : Ctx) : (s.setMe x).debug = s.debug := rfl
@[simp] theorem State.setMe_ctile (s : State) (x : Ctx) : (s.setMe x).ctile = s.ctile := rfl
@[simp] theorem State.setMe_t1frames (s : State) (x : Ctx) : (s.setMe x).t1frames = s.t1frames := rfl
@[simp] theorem State.setMe_promo (s : State) (x : Ctx) : (s.setMe x).promo = s.promo := rfl
@[simp] theorem State.setMe_pwrcap (s : State) (x : Ctx) : (s.setMe x).pwrcap = s.pwrcap := rfl
@[simp] theorem State.setMe_intaddr (s : State) (x : Ctx) : (s.setMe x).intaddr = s.intaddr := rfl
@[simp] theorem State.setMe_lnkctl (s : State) (x : Ctx) : (s.setMe x).lnkctl = s.lnkctl := rfl
@[simp] theorem State.setMe_drel (s : State) (x : Ctx) : (s.setMe x).drel = s.drel := rfl
@[simp] theorem State.setMe_attreq (s : State) (x : Ctx) : (s.setMe x).attreq = s.attreq := rfl
@[simp] theorem State.setMe_nonce (s : State) (x : Ctx) : (s.setMe x).nonce = s.nonce := rfl
@[simp] theorem State.setMe_attrep (s : State) (x : Ctx) : (s.setMe x).attrep = s.attrep := rfl
@[simp] theorem State.setMe_attReady (s : State) (x : Ctx) : (s.setMe x).attReady = s.attReady := rfl
@[simp] theorem State.setMe_throttled (s : State) (x : Ctx) : (s.setMe x).throttled = s.throttled := rfl
@[simp] theorem State.setMe_thermal (s : State) (x : Ctx) : (s.setMe x).thermal = s.thermal := rfl

/-! ### `State.setSlot` -/

@[simp] theorem State.setSlot_script (s : State) (k n : Nat) (x : Slot) : (s.setSlot k n x).script = s.script := rfl
@[simp] theorem State.setSlot_fresh (s : State) (k n : Nat) (x : Slot) : (s.setSlot k n x).fresh = s.fresh := rfl
@[simp] theorem State.setSlot_cur (s : State) (k n : Nat) (x : Slot) : (s.setSlot k n x).cur = s.cur := rfl
@[simp] theorem State.setSlot_cyc (s : State) (k n : Nat) (x : Slot) : (s.setSlot k n x).cyc = s.cyc := rfl
@[simp] theorem State.setSlot_quads (s : State) (k n : Nat) (x : Slot) : (s.setSlot k n x).quads = s.quads := rfl
@[simp] theorem State.setSlot_clusters (s : State) (k n : Nat) (x : Slot) : (s.setSlot k n x).clusters = s.clusters := rfl
@[simp] theorem State.setSlot_parts (s : State) (k n : Nat) (x : Slot) : (s.setSlot k n x).parts = s.parts := rfl
@[simp] theorem State.setSlot_vdevs (s : State) (k n : Nat) (x : Slot) : (s.setSlot k n x).vdevs = s.vdevs := rfl
@[simp] theorem State.setSlot_windows (s : State) (k n : Nat) (x : Slot) : (s.setSlot k n x).windows = s.windows := rfl
@[simp] theorem State.setSlot_mem (s : State) (k n : Nat) (x : Slot) : (s.setSlot k n x).mem = s.mem := rfl
@[simp] theorem State.setSlot_frames (s : State) (k n : Nat) (x : Slot) : (s.setSlot k n x).frames = s.frames := rfl
@[simp] theorem State.setSlot_lines (s : State) (k n : Nat) (x : Slot) : (s.setSlot k n x).lines = s.lines := rfl
@[simp] theorem State.setSlot_stored (s : State) (k n : Nat) (x : Slot) : (s.setSlot k n x).stored = s.stored := rfl
@[simp] theorem State.setSlot_counters (s : State) (k n : Nat) (x : Slot) : (s.setSlot k n x).counters = s.counters := rfl
@[simp] theorem State.setSlot_slices (s : State) (k n : Nat) (x : Slot) : (s.setSlot k n x).slices = s.slices := rfl
@[simp] theorem State.setSlot_through (s : State) (k n : Nat) (x : Slot) : (s.setSlot k n x).through = s.through := rfl
@[simp] theorem State.setSlot_launches (s : State) (k n : Nat) (x : Slot) : (s.setSlot k n x).launches = s.launches := rfl
@[simp] theorem State.setSlot_launchSeq (s : State) (k n : Nat) (x : Slot) : (s.setSlot k n x).launchSeq = s.launchSeq := rfl
@[simp] theorem State.setSlot_taskSeq (s : State) (k n : Nat) (x : Slot) : (s.setSlot k n x).taskSeq = s.taskSeq := rfl
@[simp] theorem State.setSlot_saved (s : State) (k n : Nat) (x : Slot) : (s.setSlot k n x).saved = s.saved := rfl
@[simp] theorem State.setSlot_packets (s : State) (k n : Nat) (x : Slot) : (s.setSlot k n x).packets = s.packets := rfl
@[simp] theorem State.setSlot_packetSeq (s : State) (k n : Nat) (x : Slot) : (s.setSlot k n x).packetSeq = s.packetSeq := rfl
@[simp] theorem State.setSlot_travel (s : State) (k n : Nat) (x : Slot) : (s.setSlot k n x).travel = s.travel := rfl
@[simp] theorem State.setSlot_arrivals (s : State) (k n : Nat) (x : Slot) : (s.setSlot k n x).arrivals = s.arrivals := rfl
@[simp] theorem State.setSlot_links (s : State) (k n : Nat) (x : Slot) : (s.setSlot k n x).links = s.links := rfl
@[simp] theorem State.setSlot_hints (s : State) (k n : Nat) (x : Slot) : (s.setSlot k n x).hints = s.hints := rfl
@[simp] theorem State.setSlot_esct (s : State) (k n : Nat) (x : Slot) : (s.setSlot k n x).esct = s.esct := rfl
@[simp] theorem State.setSlot_seqOut (s : State) (k n : Nat) (x : Slot) : (s.setSlot k n x).seqOut = s.seqOut := rfl
@[simp] theorem State.setSlot_seqIn (s : State) (k n : Nat) (x : Slot) : (s.setSlot k n x).seqIn = s.seqIn := rfl
@[simp] theorem State.setSlot_ports (s : State) (k n : Nat) (x : Slot) : (s.setSlot k n x).ports = s.ports := rfl
@[simp] theorem State.setSlot_host (s : State) (k n : Nat) (x : Slot) : (s.setSlot k n x).host = s.host := rfl
@[simp] theorem State.setSlot_hostSent (s : State) (k n : Nat) (x : Slot) : (s.setSlot k n x).hostSent = s.hostSent := rfl
@[simp] theorem State.setSlot_bootPhase (s : State) (k n : Nat) (x : Slot) : (s.setSlot k n x).bootPhase = s.bootPhase := rfl
@[simp] theorem State.setSlot_recovery (s : State) (k n : Nat) (x : Slot) : (s.setSlot k n x).recovery = s.recovery := rfl
@[simp] theorem State.setSlot_failStep (s : State) (k n : Nat) (x : Slot) : (s.setSlot k n x).failStep = s.failStep := rfl
@[simp] theorem State.setSlot_intWritten (s : State) (k n : Nat) (x : Slot) : (s.setSlot k n x).intWritten = s.intWritten := rfl
@[simp] theorem State.setSlot_failTold (s : State) (k n : Nat) (x : Slot) : (s.setSlot k n x).failTold = s.failTold := rfl
@[simp] theorem State.setSlot_badImage (s : State) (k n : Nat) (x : Slot) : (s.setSlot k n x).badImage = s.badImage := rfl
@[simp] theorem State.setSlot_flash (s : State) (k n : Nat) (x : Slot) : (s.setSlot k n x).flash = s.flash := rfl
@[simp] theorem State.setSlot_mapOut (s : State) (k n : Nat) (x : Slot) : (s.setSlot k n x).mapOut = s.mapOut := rfl
@[simp] theorem State.setSlot_fw (s : State) (k n : Nat) (x : Slot) : (s.setSlot k n x).fw = s.fw := rfl
@[simp] theorem State.setSlot_fuse (s : State) (k n : Nat) (x : Slot) : (s.setSlot k n x).fuse = s.fuse := rfl
@[simp] theorem State.setSlot_inForce (s : State) (k n : Nat) (x : Slot) : (s.setSlot k n x).inForce = s.inForce := rfl
@[simp] theorem State.setSlot_debug (s : State) (k n : Nat) (x : Slot) : (s.setSlot k n x).debug = s.debug := rfl
@[simp] theorem State.setSlot_ctile (s : State) (k n : Nat) (x : Slot) : (s.setSlot k n x).ctile = s.ctile := rfl
@[simp] theorem State.setSlot_t1frames (s : State) (k n : Nat) (x : Slot) : (s.setSlot k n x).t1frames = s.t1frames := rfl
@[simp] theorem State.setSlot_promo (s : State) (k n : Nat) (x : Slot) : (s.setSlot k n x).promo = s.promo := rfl
@[simp] theorem State.setSlot_pwrcap (s : State) (k n : Nat) (x : Slot) : (s.setSlot k n x).pwrcap = s.pwrcap := rfl
@[simp] theorem State.setSlot_intaddr (s : State) (k n : Nat) (x : Slot) : (s.setSlot k n x).intaddr = s.intaddr := rfl
@[simp] theorem State.setSlot_lnkctl (s : State) (k n : Nat) (x : Slot) : (s.setSlot k n x).lnkctl = s.lnkctl := rfl
@[simp] theorem State.setSlot_drel (s : State) (k n : Nat) (x : Slot) : (s.setSlot k n x).drel = s.drel := rfl
@[simp] theorem State.setSlot_attreq (s : State) (k n : Nat) (x : Slot) : (s.setSlot k n x).attreq = s.attreq := rfl
@[simp] theorem State.setSlot_nonce (s : State) (k n : Nat) (x : Slot) : (s.setSlot k n x).nonce = s.nonce := rfl
@[simp] theorem State.setSlot_attrep (s : State) (k n : Nat) (x : Slot) : (s.setSlot k n x).attrep = s.attrep := rfl
@[simp] theorem State.setSlot_attReady (s : State) (k n : Nat) (x : Slot) : (s.setSlot k n x).attReady = s.attReady := rfl
@[simp] theorem State.setSlot_throttled (s : State) (k n : Nat) (x : Slot) : (s.setSlot k n x).throttled = s.throttled := rfl
@[simp] theorem State.setSlot_thermal (s : State) (k n : Nat) (x : Slot) : (s.setSlot k n x).thermal = s.thermal := rfl

/-! ### `State.setCluster` -/

@[simp] theorem State.setCluster_script (s : State) (k : Nat) (x : Cluster) : (s.setCluster k x).script = s.script := rfl
@[simp] theorem State.setCluster_fresh (s : State) (k : Nat) (x : Cluster) : (s.setCluster k x).fresh = s.fresh := rfl
@[simp] theorem State.setCluster_cur (s : State) (k : Nat) (x : Cluster) : (s.setCluster k x).cur = s.cur := rfl
@[simp] theorem State.setCluster_cyc (s : State) (k : Nat) (x : Cluster) : (s.setCluster k x).cyc = s.cyc := rfl
@[simp] theorem State.setCluster_cores (s : State) (k : Nat) (x : Cluster) : (s.setCluster k x).cores = s.cores := rfl
@[simp] theorem State.setCluster_quads (s : State) (k : Nat) (x : Cluster) : (s.setCluster k x).quads = s.quads := rfl
@[simp] theorem State.setCluster_parts (s : State) (k : Nat) (x : Cluster) : (s.setCluster k x).parts = s.parts := rfl
@[simp] theorem State.setCluster_vdevs (s : State) (k : Nat) (x : Cluster) : (s.setCluster k x).vdevs = s.vdevs := rfl
@[simp] theorem State.setCluster_windows (s : State) (k : Nat) (x : Cluster) : (s.setCluster k x).windows = s.windows := rfl
@[simp] theorem State.setCluster_mem (s : State) (k : Nat) (x : Cluster) : (s.setCluster k x).mem = s.mem := rfl
@[simp] theorem State.setCluster_frames (s : State) (k : Nat) (x : Cluster) : (s.setCluster k x).frames = s.frames := rfl
@[simp] theorem State.setCluster_lines (s : State) (k : Nat) (x : Cluster) : (s.setCluster k x).lines = s.lines := rfl
@[simp] theorem State.setCluster_stored (s : State) (k : Nat) (x : Cluster) : (s.setCluster k x).stored = s.stored := rfl
@[simp] theorem State.setCluster_counters (s : State) (k : Nat) (x : Cluster) : (s.setCluster k x).counters = s.counters := rfl
@[simp] theorem State.setCluster_slices (s : State) (k : Nat) (x : Cluster) : (s.setCluster k x).slices = s.slices := rfl
@[simp] theorem State.setCluster_through (s : State) (k : Nat) (x : Cluster) : (s.setCluster k x).through = s.through := rfl
@[simp] theorem State.setCluster_launches (s : State) (k : Nat) (x : Cluster) : (s.setCluster k x).launches = s.launches := rfl
@[simp] theorem State.setCluster_launchSeq (s : State) (k : Nat) (x : Cluster) : (s.setCluster k x).launchSeq = s.launchSeq := rfl
@[simp] theorem State.setCluster_taskSeq (s : State) (k : Nat) (x : Cluster) : (s.setCluster k x).taskSeq = s.taskSeq := rfl
@[simp] theorem State.setCluster_saved (s : State) (k : Nat) (x : Cluster) : (s.setCluster k x).saved = s.saved := rfl
@[simp] theorem State.setCluster_packets (s : State) (k : Nat) (x : Cluster) : (s.setCluster k x).packets = s.packets := rfl
@[simp] theorem State.setCluster_packetSeq (s : State) (k : Nat) (x : Cluster) : (s.setCluster k x).packetSeq = s.packetSeq := rfl
@[simp] theorem State.setCluster_travel (s : State) (k : Nat) (x : Cluster) : (s.setCluster k x).travel = s.travel := rfl
@[simp] theorem State.setCluster_arrivals (s : State) (k : Nat) (x : Cluster) : (s.setCluster k x).arrivals = s.arrivals := rfl
@[simp] theorem State.setCluster_links (s : State) (k : Nat) (x : Cluster) : (s.setCluster k x).links = s.links := rfl
@[simp] theorem State.setCluster_hints (s : State) (k : Nat) (x : Cluster) : (s.setCluster k x).hints = s.hints := rfl
@[simp] theorem State.setCluster_esct (s : State) (k : Nat) (x : Cluster) : (s.setCluster k x).esct = s.esct := rfl
@[simp] theorem State.setCluster_seqOut (s : State) (k : Nat) (x : Cluster) : (s.setCluster k x).seqOut = s.seqOut := rfl
@[simp] theorem State.setCluster_seqIn (s : State) (k : Nat) (x : Cluster) : (s.setCluster k x).seqIn = s.seqIn := rfl
@[simp] theorem State.setCluster_ports (s : State) (k : Nat) (x : Cluster) : (s.setCluster k x).ports = s.ports := rfl
@[simp] theorem State.setCluster_host (s : State) (k : Nat) (x : Cluster) : (s.setCluster k x).host = s.host := rfl
@[simp] theorem State.setCluster_hostSent (s : State) (k : Nat) (x : Cluster) : (s.setCluster k x).hostSent = s.hostSent := rfl
@[simp] theorem State.setCluster_bootPhase (s : State) (k : Nat) (x : Cluster) : (s.setCluster k x).bootPhase = s.bootPhase := rfl
@[simp] theorem State.setCluster_recovery (s : State) (k : Nat) (x : Cluster) : (s.setCluster k x).recovery = s.recovery := rfl
@[simp] theorem State.setCluster_failStep (s : State) (k : Nat) (x : Cluster) : (s.setCluster k x).failStep = s.failStep := rfl
@[simp] theorem State.setCluster_intWritten (s : State) (k : Nat) (x : Cluster) : (s.setCluster k x).intWritten = s.intWritten := rfl
@[simp] theorem State.setCluster_failTold (s : State) (k : Nat) (x : Cluster) : (s.setCluster k x).failTold = s.failTold := rfl
@[simp] theorem State.setCluster_badImage (s : State) (k : Nat) (x : Cluster) : (s.setCluster k x).badImage = s.badImage := rfl
@[simp] theorem State.setCluster_flash (s : State) (k : Nat) (x : Cluster) : (s.setCluster k x).flash = s.flash := rfl
@[simp] theorem State.setCluster_mapOut (s : State) (k : Nat) (x : Cluster) : (s.setCluster k x).mapOut = s.mapOut := rfl
@[simp] theorem State.setCluster_fw (s : State) (k : Nat) (x : Cluster) : (s.setCluster k x).fw = s.fw := rfl
@[simp] theorem State.setCluster_fuse (s : State) (k : Nat) (x : Cluster) : (s.setCluster k x).fuse = s.fuse := rfl
@[simp] theorem State.setCluster_inForce (s : State) (k : Nat) (x : Cluster) : (s.setCluster k x).inForce = s.inForce := rfl
@[simp] theorem State.setCluster_debug (s : State) (k : Nat) (x : Cluster) : (s.setCluster k x).debug = s.debug := rfl
@[simp] theorem State.setCluster_ctile (s : State) (k : Nat) (x : Cluster) : (s.setCluster k x).ctile = s.ctile := rfl
@[simp] theorem State.setCluster_t1frames (s : State) (k : Nat) (x : Cluster) : (s.setCluster k x).t1frames = s.t1frames := rfl
@[simp] theorem State.setCluster_promo (s : State) (k : Nat) (x : Cluster) : (s.setCluster k x).promo = s.promo := rfl
@[simp] theorem State.setCluster_pwrcap (s : State) (k : Nat) (x : Cluster) : (s.setCluster k x).pwrcap = s.pwrcap := rfl
@[simp] theorem State.setCluster_intaddr (s : State) (k : Nat) (x : Cluster) : (s.setCluster k x).intaddr = s.intaddr := rfl
@[simp] theorem State.setCluster_lnkctl (s : State) (k : Nat) (x : Cluster) : (s.setCluster k x).lnkctl = s.lnkctl := rfl
@[simp] theorem State.setCluster_drel (s : State) (k : Nat) (x : Cluster) : (s.setCluster k x).drel = s.drel := rfl
@[simp] theorem State.setCluster_attreq (s : State) (k : Nat) (x : Cluster) : (s.setCluster k x).attreq = s.attreq := rfl
@[simp] theorem State.setCluster_nonce (s : State) (k : Nat) (x : Cluster) : (s.setCluster k x).nonce = s.nonce := rfl
@[simp] theorem State.setCluster_attrep (s : State) (k : Nat) (x : Cluster) : (s.setCluster k x).attrep = s.attrep := rfl
@[simp] theorem State.setCluster_attReady (s : State) (k : Nat) (x : Cluster) : (s.setCluster k x).attReady = s.attReady := rfl
@[simp] theorem State.setCluster_throttled (s : State) (k : Nat) (x : Cluster) : (s.setCluster k x).throttled = s.throttled := rfl
@[simp] theorem State.setCluster_thermal (s : State) (k : Nat) (x : Cluster) : (s.setCluster k x).thermal = s.thermal := rfl

/-! ### `State.setBank` -/

@[simp] theorem State.setBank_script (s : State) (k b : Nat) (x : Bank) : (s.setBank k b x).script = s.script := rfl
@[simp] theorem State.setBank_fresh (s : State) (k b : Nat) (x : Bank) : (s.setBank k b x).fresh = s.fresh := rfl
@[simp] theorem State.setBank_cur (s : State) (k b : Nat) (x : Bank) : (s.setBank k b x).cur = s.cur := rfl
@[simp] theorem State.setBank_cyc (s : State) (k b : Nat) (x : Bank) : (s.setBank k b x).cyc = s.cyc := rfl
@[simp] theorem State.setBank_cores (s : State) (k b : Nat) (x : Bank) : (s.setBank k b x).cores = s.cores := rfl
@[simp] theorem State.setBank_quads (s : State) (k b : Nat) (x : Bank) : (s.setBank k b x).quads = s.quads := rfl
@[simp] theorem State.setBank_parts (s : State) (k b : Nat) (x : Bank) : (s.setBank k b x).parts = s.parts := rfl
@[simp] theorem State.setBank_vdevs (s : State) (k b : Nat) (x : Bank) : (s.setBank k b x).vdevs = s.vdevs := rfl
@[simp] theorem State.setBank_windows (s : State) (k b : Nat) (x : Bank) : (s.setBank k b x).windows = s.windows := rfl
@[simp] theorem State.setBank_mem (s : State) (k b : Nat) (x : Bank) : (s.setBank k b x).mem = s.mem := rfl
@[simp] theorem State.setBank_frames (s : State) (k b : Nat) (x : Bank) : (s.setBank k b x).frames = s.frames := rfl
@[simp] theorem State.setBank_lines (s : State) (k b : Nat) (x : Bank) : (s.setBank k b x).lines = s.lines := rfl
@[simp] theorem State.setBank_stored (s : State) (k b : Nat) (x : Bank) : (s.setBank k b x).stored = s.stored := rfl
@[simp] theorem State.setBank_counters (s : State) (k b : Nat) (x : Bank) : (s.setBank k b x).counters = s.counters := rfl
@[simp] theorem State.setBank_slices (s : State) (k b : Nat) (x : Bank) : (s.setBank k b x).slices = s.slices := rfl
@[simp] theorem State.setBank_through (s : State) (k b : Nat) (x : Bank) : (s.setBank k b x).through = s.through := rfl
@[simp] theorem State.setBank_launches (s : State) (k b : Nat) (x : Bank) : (s.setBank k b x).launches = s.launches := rfl
@[simp] theorem State.setBank_launchSeq (s : State) (k b : Nat) (x : Bank) : (s.setBank k b x).launchSeq = s.launchSeq := rfl
@[simp] theorem State.setBank_taskSeq (s : State) (k b : Nat) (x : Bank) : (s.setBank k b x).taskSeq = s.taskSeq := rfl
@[simp] theorem State.setBank_saved (s : State) (k b : Nat) (x : Bank) : (s.setBank k b x).saved = s.saved := rfl
@[simp] theorem State.setBank_packets (s : State) (k b : Nat) (x : Bank) : (s.setBank k b x).packets = s.packets := rfl
@[simp] theorem State.setBank_packetSeq (s : State) (k b : Nat) (x : Bank) : (s.setBank k b x).packetSeq = s.packetSeq := rfl
@[simp] theorem State.setBank_travel (s : State) (k b : Nat) (x : Bank) : (s.setBank k b x).travel = s.travel := rfl
@[simp] theorem State.setBank_arrivals (s : State) (k b : Nat) (x : Bank) : (s.setBank k b x).arrivals = s.arrivals := rfl
@[simp] theorem State.setBank_links (s : State) (k b : Nat) (x : Bank) : (s.setBank k b x).links = s.links := rfl
@[simp] theorem State.setBank_hints (s : State) (k b : Nat) (x : Bank) : (s.setBank k b x).hints = s.hints := rfl
@[simp] theorem State.setBank_esct (s : State) (k b : Nat) (x : Bank) : (s.setBank k b x).esct = s.esct := rfl
@[simp] theorem State.setBank_seqOut (s : State) (k b : Nat) (x : Bank) : (s.setBank k b x).seqOut = s.seqOut := rfl
@[simp] theorem State.setBank_seqIn (s : State) (k b : Nat) (x : Bank) : (s.setBank k b x).seqIn = s.seqIn := rfl
@[simp] theorem State.setBank_ports (s : State) (k b : Nat) (x : Bank) : (s.setBank k b x).ports = s.ports := rfl
@[simp] theorem State.setBank_host (s : State) (k b : Nat) (x : Bank) : (s.setBank k b x).host = s.host := rfl
@[simp] theorem State.setBank_hostSent (s : State) (k b : Nat) (x : Bank) : (s.setBank k b x).hostSent = s.hostSent := rfl
@[simp] theorem State.setBank_bootPhase (s : State) (k b : Nat) (x : Bank) : (s.setBank k b x).bootPhase = s.bootPhase := rfl
@[simp] theorem State.setBank_recovery (s : State) (k b : Nat) (x : Bank) : (s.setBank k b x).recovery = s.recovery := rfl
@[simp] theorem State.setBank_failStep (s : State) (k b : Nat) (x : Bank) : (s.setBank k b x).failStep = s.failStep := rfl
@[simp] theorem State.setBank_intWritten (s : State) (k b : Nat) (x : Bank) : (s.setBank k b x).intWritten = s.intWritten := rfl
@[simp] theorem State.setBank_failTold (s : State) (k b : Nat) (x : Bank) : (s.setBank k b x).failTold = s.failTold := rfl
@[simp] theorem State.setBank_badImage (s : State) (k b : Nat) (x : Bank) : (s.setBank k b x).badImage = s.badImage := rfl
@[simp] theorem State.setBank_flash (s : State) (k b : Nat) (x : Bank) : (s.setBank k b x).flash = s.flash := rfl
@[simp] theorem State.setBank_mapOut (s : State) (k b : Nat) (x : Bank) : (s.setBank k b x).mapOut = s.mapOut := rfl
@[simp] theorem State.setBank_fw (s : State) (k b : Nat) (x : Bank) : (s.setBank k b x).fw = s.fw := rfl
@[simp] theorem State.setBank_fuse (s : State) (k b : Nat) (x : Bank) : (s.setBank k b x).fuse = s.fuse := rfl
@[simp] theorem State.setBank_inForce (s : State) (k b : Nat) (x : Bank) : (s.setBank k b x).inForce = s.inForce := rfl
@[simp] theorem State.setBank_debug (s : State) (k b : Nat) (x : Bank) : (s.setBank k b x).debug = s.debug := rfl
@[simp] theorem State.setBank_ctile (s : State) (k b : Nat) (x : Bank) : (s.setBank k b x).ctile = s.ctile := rfl
@[simp] theorem State.setBank_t1frames (s : State) (k b : Nat) (x : Bank) : (s.setBank k b x).t1frames = s.t1frames := rfl
@[simp] theorem State.setBank_promo (s : State) (k b : Nat) (x : Bank) : (s.setBank k b x).promo = s.promo := rfl
@[simp] theorem State.setBank_pwrcap (s : State) (k b : Nat) (x : Bank) : (s.setBank k b x).pwrcap = s.pwrcap := rfl
@[simp] theorem State.setBank_intaddr (s : State) (k b : Nat) (x : Bank) : (s.setBank k b x).intaddr = s.intaddr := rfl
@[simp] theorem State.setBank_lnkctl (s : State) (k b : Nat) (x : Bank) : (s.setBank k b x).lnkctl = s.lnkctl := rfl
@[simp] theorem State.setBank_drel (s : State) (k b : Nat) (x : Bank) : (s.setBank k b x).drel = s.drel := rfl
@[simp] theorem State.setBank_attreq (s : State) (k b : Nat) (x : Bank) : (s.setBank k b x).attreq = s.attreq := rfl
@[simp] theorem State.setBank_nonce (s : State) (k b : Nat) (x : Bank) : (s.setBank k b x).nonce = s.nonce := rfl
@[simp] theorem State.setBank_attrep (s : State) (k b : Nat) (x : Bank) : (s.setBank k b x).attrep = s.attrep := rfl
@[simp] theorem State.setBank_attReady (s : State) (k b : Nat) (x : Bank) : (s.setBank k b x).attReady = s.attReady := rfl
@[simp] theorem State.setBank_throttled (s : State) (k b : Nat) (x : Bank) : (s.setBank k b x).throttled = s.throttled := rfl
@[simp] theorem State.setBank_thermal (s : State) (k b : Nat) (x : Bank) : (s.setBank k b x).thermal = s.thermal := rfl

/-! ### `State.setPart` -/

@[simp] theorem State.setPart_script (s : State) (k : Nat) (x : Part) : (s.setPart k x).script = s.script := rfl
@[simp] theorem State.setPart_fresh (s : State) (k : Nat) (x : Part) : (s.setPart k x).fresh = s.fresh := rfl
@[simp] theorem State.setPart_cur (s : State) (k : Nat) (x : Part) : (s.setPart k x).cur = s.cur := rfl
@[simp] theorem State.setPart_cyc (s : State) (k : Nat) (x : Part) : (s.setPart k x).cyc = s.cyc := rfl
@[simp] theorem State.setPart_cores (s : State) (k : Nat) (x : Part) : (s.setPart k x).cores = s.cores := rfl
@[simp] theorem State.setPart_quads (s : State) (k : Nat) (x : Part) : (s.setPart k x).quads = s.quads := rfl
@[simp] theorem State.setPart_clusters (s : State) (k : Nat) (x : Part) : (s.setPart k x).clusters = s.clusters := rfl
@[simp] theorem State.setPart_vdevs (s : State) (k : Nat) (x : Part) : (s.setPart k x).vdevs = s.vdevs := rfl
@[simp] theorem State.setPart_windows (s : State) (k : Nat) (x : Part) : (s.setPart k x).windows = s.windows := rfl
@[simp] theorem State.setPart_mem (s : State) (k : Nat) (x : Part) : (s.setPart k x).mem = s.mem := rfl
@[simp] theorem State.setPart_frames (s : State) (k : Nat) (x : Part) : (s.setPart k x).frames = s.frames := rfl
@[simp] theorem State.setPart_lines (s : State) (k : Nat) (x : Part) : (s.setPart k x).lines = s.lines := rfl
@[simp] theorem State.setPart_stored (s : State) (k : Nat) (x : Part) : (s.setPart k x).stored = s.stored := rfl
@[simp] theorem State.setPart_counters (s : State) (k : Nat) (x : Part) : (s.setPart k x).counters = s.counters := rfl
@[simp] theorem State.setPart_slices (s : State) (k : Nat) (x : Part) : (s.setPart k x).slices = s.slices := rfl
@[simp] theorem State.setPart_through (s : State) (k : Nat) (x : Part) : (s.setPart k x).through = s.through := rfl
@[simp] theorem State.setPart_launches (s : State) (k : Nat) (x : Part) : (s.setPart k x).launches = s.launches := rfl
@[simp] theorem State.setPart_launchSeq (s : State) (k : Nat) (x : Part) : (s.setPart k x).launchSeq = s.launchSeq := rfl
@[simp] theorem State.setPart_taskSeq (s : State) (k : Nat) (x : Part) : (s.setPart k x).taskSeq = s.taskSeq := rfl
@[simp] theorem State.setPart_saved (s : State) (k : Nat) (x : Part) : (s.setPart k x).saved = s.saved := rfl
@[simp] theorem State.setPart_packets (s : State) (k : Nat) (x : Part) : (s.setPart k x).packets = s.packets := rfl
@[simp] theorem State.setPart_packetSeq (s : State) (k : Nat) (x : Part) : (s.setPart k x).packetSeq = s.packetSeq := rfl
@[simp] theorem State.setPart_travel (s : State) (k : Nat) (x : Part) : (s.setPart k x).travel = s.travel := rfl
@[simp] theorem State.setPart_arrivals (s : State) (k : Nat) (x : Part) : (s.setPart k x).arrivals = s.arrivals := rfl
@[simp] theorem State.setPart_links (s : State) (k : Nat) (x : Part) : (s.setPart k x).links = s.links := rfl
@[simp] theorem State.setPart_hints (s : State) (k : Nat) (x : Part) : (s.setPart k x).hints = s.hints := rfl
@[simp] theorem State.setPart_esct (s : State) (k : Nat) (x : Part) : (s.setPart k x).esct = s.esct := rfl
@[simp] theorem State.setPart_seqOut (s : State) (k : Nat) (x : Part) : (s.setPart k x).seqOut = s.seqOut := rfl
@[simp] theorem State.setPart_seqIn (s : State) (k : Nat) (x : Part) : (s.setPart k x).seqIn = s.seqIn := rfl
@[simp] theorem State.setPart_ports (s : State) (k : Nat) (x : Part) : (s.setPart k x).ports = s.ports := rfl
@[simp] theorem State.setPart_host (s : State) (k : Nat) (x : Part) : (s.setPart k x).host = s.host := rfl
@[simp] theorem State.setPart_hostSent (s : State) (k : Nat) (x : Part) : (s.setPart k x).hostSent = s.hostSent := rfl
@[simp] theorem State.setPart_bootPhase (s : State) (k : Nat) (x : Part) : (s.setPart k x).bootPhase = s.bootPhase := rfl
@[simp] theorem State.setPart_recovery (s : State) (k : Nat) (x : Part) : (s.setPart k x).recovery = s.recovery := rfl
@[simp] theorem State.setPart_failStep (s : State) (k : Nat) (x : Part) : (s.setPart k x).failStep = s.failStep := rfl
@[simp] theorem State.setPart_intWritten (s : State) (k : Nat) (x : Part) : (s.setPart k x).intWritten = s.intWritten := rfl
@[simp] theorem State.setPart_failTold (s : State) (k : Nat) (x : Part) : (s.setPart k x).failTold = s.failTold := rfl
@[simp] theorem State.setPart_badImage (s : State) (k : Nat) (x : Part) : (s.setPart k x).badImage = s.badImage := rfl
@[simp] theorem State.setPart_flash (s : State) (k : Nat) (x : Part) : (s.setPart k x).flash = s.flash := rfl
@[simp] theorem State.setPart_mapOut (s : State) (k : Nat) (x : Part) : (s.setPart k x).mapOut = s.mapOut := rfl
@[simp] theorem State.setPart_fw (s : State) (k : Nat) (x : Part) : (s.setPart k x).fw = s.fw := rfl
@[simp] theorem State.setPart_fuse (s : State) (k : Nat) (x : Part) : (s.setPart k x).fuse = s.fuse := rfl
@[simp] theorem State.setPart_inForce (s : State) (k : Nat) (x : Part) : (s.setPart k x).inForce = s.inForce := rfl
@[simp] theorem State.setPart_debug (s : State) (k : Nat) (x : Part) : (s.setPart k x).debug = s.debug := rfl
@[simp] theorem State.setPart_ctile (s : State) (k : Nat) (x : Part) : (s.setPart k x).ctile = s.ctile := rfl
@[simp] theorem State.setPart_t1frames (s : State) (k : Nat) (x : Part) : (s.setPart k x).t1frames = s.t1frames := rfl
@[simp] theorem State.setPart_promo (s : State) (k : Nat) (x : Part) : (s.setPart k x).promo = s.promo := rfl
@[simp] theorem State.setPart_pwrcap (s : State) (k : Nat) (x : Part) : (s.setPart k x).pwrcap = s.pwrcap := rfl
@[simp] theorem State.setPart_intaddr (s : State) (k : Nat) (x : Part) : (s.setPart k x).intaddr = s.intaddr := rfl
@[simp] theorem State.setPart_lnkctl (s : State) (k : Nat) (x : Part) : (s.setPart k x).lnkctl = s.lnkctl := rfl
@[simp] theorem State.setPart_drel (s : State) (k : Nat) (x : Part) : (s.setPart k x).drel = s.drel := rfl
@[simp] theorem State.setPart_attreq (s : State) (k : Nat) (x : Part) : (s.setPart k x).attreq = s.attreq := rfl
@[simp] theorem State.setPart_nonce (s : State) (k : Nat) (x : Part) : (s.setPart k x).nonce = s.nonce := rfl
@[simp] theorem State.setPart_attrep (s : State) (k : Nat) (x : Part) : (s.setPart k x).attrep = s.attrep := rfl
@[simp] theorem State.setPart_attReady (s : State) (k : Nat) (x : Part) : (s.setPart k x).attReady = s.attReady := rfl
@[simp] theorem State.setPart_throttled (s : State) (k : Nat) (x : Part) : (s.setPart k x).throttled = s.throttled := rfl
@[simp] theorem State.setPart_thermal (s : State) (k : Nat) (x : Part) : (s.setPart k x).thermal = s.thermal := rfl

/-! ### `State.setVdev` -/

@[simp] theorem State.setVdev_script (s : State) (k : Nat) (x : VDev) : (s.setVdev k x).script = s.script := rfl
@[simp] theorem State.setVdev_fresh (s : State) (k : Nat) (x : VDev) : (s.setVdev k x).fresh = s.fresh := rfl
@[simp] theorem State.setVdev_cur (s : State) (k : Nat) (x : VDev) : (s.setVdev k x).cur = s.cur := rfl
@[simp] theorem State.setVdev_cyc (s : State) (k : Nat) (x : VDev) : (s.setVdev k x).cyc = s.cyc := rfl
@[simp] theorem State.setVdev_cores (s : State) (k : Nat) (x : VDev) : (s.setVdev k x).cores = s.cores := rfl
@[simp] theorem State.setVdev_quads (s : State) (k : Nat) (x : VDev) : (s.setVdev k x).quads = s.quads := rfl
@[simp] theorem State.setVdev_clusters (s : State) (k : Nat) (x : VDev) : (s.setVdev k x).clusters = s.clusters := rfl
@[simp] theorem State.setVdev_parts (s : State) (k : Nat) (x : VDev) : (s.setVdev k x).parts = s.parts := rfl
@[simp] theorem State.setVdev_windows (s : State) (k : Nat) (x : VDev) : (s.setVdev k x).windows = s.windows := rfl
@[simp] theorem State.setVdev_mem (s : State) (k : Nat) (x : VDev) : (s.setVdev k x).mem = s.mem := rfl
@[simp] theorem State.setVdev_frames (s : State) (k : Nat) (x : VDev) : (s.setVdev k x).frames = s.frames := rfl
@[simp] theorem State.setVdev_lines (s : State) (k : Nat) (x : VDev) : (s.setVdev k x).lines = s.lines := rfl
@[simp] theorem State.setVdev_stored (s : State) (k : Nat) (x : VDev) : (s.setVdev k x).stored = s.stored := rfl
@[simp] theorem State.setVdev_counters (s : State) (k : Nat) (x : VDev) : (s.setVdev k x).counters = s.counters := rfl
@[simp] theorem State.setVdev_slices (s : State) (k : Nat) (x : VDev) : (s.setVdev k x).slices = s.slices := rfl
@[simp] theorem State.setVdev_through (s : State) (k : Nat) (x : VDev) : (s.setVdev k x).through = s.through := rfl
@[simp] theorem State.setVdev_launches (s : State) (k : Nat) (x : VDev) : (s.setVdev k x).launches = s.launches := rfl
@[simp] theorem State.setVdev_launchSeq (s : State) (k : Nat) (x : VDev) : (s.setVdev k x).launchSeq = s.launchSeq := rfl
@[simp] theorem State.setVdev_taskSeq (s : State) (k : Nat) (x : VDev) : (s.setVdev k x).taskSeq = s.taskSeq := rfl
@[simp] theorem State.setVdev_saved (s : State) (k : Nat) (x : VDev) : (s.setVdev k x).saved = s.saved := rfl
@[simp] theorem State.setVdev_packets (s : State) (k : Nat) (x : VDev) : (s.setVdev k x).packets = s.packets := rfl
@[simp] theorem State.setVdev_packetSeq (s : State) (k : Nat) (x : VDev) : (s.setVdev k x).packetSeq = s.packetSeq := rfl
@[simp] theorem State.setVdev_travel (s : State) (k : Nat) (x : VDev) : (s.setVdev k x).travel = s.travel := rfl
@[simp] theorem State.setVdev_arrivals (s : State) (k : Nat) (x : VDev) : (s.setVdev k x).arrivals = s.arrivals := rfl
@[simp] theorem State.setVdev_links (s : State) (k : Nat) (x : VDev) : (s.setVdev k x).links = s.links := rfl
@[simp] theorem State.setVdev_hints (s : State) (k : Nat) (x : VDev) : (s.setVdev k x).hints = s.hints := rfl
@[simp] theorem State.setVdev_esct (s : State) (k : Nat) (x : VDev) : (s.setVdev k x).esct = s.esct := rfl
@[simp] theorem State.setVdev_seqOut (s : State) (k : Nat) (x : VDev) : (s.setVdev k x).seqOut = s.seqOut := rfl
@[simp] theorem State.setVdev_seqIn (s : State) (k : Nat) (x : VDev) : (s.setVdev k x).seqIn = s.seqIn := rfl
@[simp] theorem State.setVdev_ports (s : State) (k : Nat) (x : VDev) : (s.setVdev k x).ports = s.ports := rfl
@[simp] theorem State.setVdev_host (s : State) (k : Nat) (x : VDev) : (s.setVdev k x).host = s.host := rfl
@[simp] theorem State.setVdev_hostSent (s : State) (k : Nat) (x : VDev) : (s.setVdev k x).hostSent = s.hostSent := rfl
@[simp] theorem State.setVdev_bootPhase (s : State) (k : Nat) (x : VDev) : (s.setVdev k x).bootPhase = s.bootPhase := rfl
@[simp] theorem State.setVdev_recovery (s : State) (k : Nat) (x : VDev) : (s.setVdev k x).recovery = s.recovery := rfl
@[simp] theorem State.setVdev_failStep (s : State) (k : Nat) (x : VDev) : (s.setVdev k x).failStep = s.failStep := rfl
@[simp] theorem State.setVdev_intWritten (s : State) (k : Nat) (x : VDev) : (s.setVdev k x).intWritten = s.intWritten := rfl
@[simp] theorem State.setVdev_failTold (s : State) (k : Nat) (x : VDev) : (s.setVdev k x).failTold = s.failTold := rfl
@[simp] theorem State.setVdev_badImage (s : State) (k : Nat) (x : VDev) : (s.setVdev k x).badImage = s.badImage := rfl
@[simp] theorem State.setVdev_flash (s : State) (k : Nat) (x : VDev) : (s.setVdev k x).flash = s.flash := rfl
@[simp] theorem State.setVdev_mapOut (s : State) (k : Nat) (x : VDev) : (s.setVdev k x).mapOut = s.mapOut := rfl
@[simp] theorem State.setVdev_fw (s : State) (k : Nat) (x : VDev) : (s.setVdev k x).fw = s.fw := rfl
@[simp] theorem State.setVdev_fuse (s : State) (k : Nat) (x : VDev) : (s.setVdev k x).fuse = s.fuse := rfl
@[simp] theorem State.setVdev_inForce (s : State) (k : Nat) (x : VDev) : (s.setVdev k x).inForce = s.inForce := rfl
@[simp] theorem State.setVdev_debug (s : State) (k : Nat) (x : VDev) : (s.setVdev k x).debug = s.debug := rfl
@[simp] theorem State.setVdev_ctile (s : State) (k : Nat) (x : VDev) : (s.setVdev k x).ctile = s.ctile := rfl
@[simp] theorem State.setVdev_t1frames (s : State) (k : Nat) (x : VDev) : (s.setVdev k x).t1frames = s.t1frames := rfl
@[simp] theorem State.setVdev_promo (s : State) (k : Nat) (x : VDev) : (s.setVdev k x).promo = s.promo := rfl
@[simp] theorem State.setVdev_pwrcap (s : State) (k : Nat) (x : VDev) : (s.setVdev k x).pwrcap = s.pwrcap := rfl
@[simp] theorem State.setVdev_intaddr (s : State) (k : Nat) (x : VDev) : (s.setVdev k x).intaddr = s.intaddr := rfl
@[simp] theorem State.setVdev_lnkctl (s : State) (k : Nat) (x : VDev) : (s.setVdev k x).lnkctl = s.lnkctl := rfl
@[simp] theorem State.setVdev_drel (s : State) (k : Nat) (x : VDev) : (s.setVdev k x).drel = s.drel := rfl
@[simp] theorem State.setVdev_attreq (s : State) (k : Nat) (x : VDev) : (s.setVdev k x).attreq = s.attreq := rfl
@[simp] theorem State.setVdev_nonce (s : State) (k : Nat) (x : VDev) : (s.setVdev k x).nonce = s.nonce := rfl
@[simp] theorem State.setVdev_attrep (s : State) (k : Nat) (x : VDev) : (s.setVdev k x).attrep = s.attrep := rfl
@[simp] theorem State.setVdev_attReady (s : State) (k : Nat) (x : VDev) : (s.setVdev k x).attReady = s.attReady := rfl
@[simp] theorem State.setVdev_throttled (s : State) (k : Nat) (x : VDev) : (s.setVdev k x).throttled = s.throttled := rfl
@[simp] theorem State.setVdev_thermal (s : State) (k : Nat) (x : VDev) : (s.setVdev k x).thermal = s.thermal := rfl

/-! ### `State.setQuad` -/

@[simp] theorem State.setQuad_script (s : State) (k : Nat) (x : Quad) : (s.setQuad k x).script = s.script := rfl
@[simp] theorem State.setQuad_fresh (s : State) (k : Nat) (x : Quad) : (s.setQuad k x).fresh = s.fresh := rfl
@[simp] theorem State.setQuad_cur (s : State) (k : Nat) (x : Quad) : (s.setQuad k x).cur = s.cur := rfl
@[simp] theorem State.setQuad_cyc (s : State) (k : Nat) (x : Quad) : (s.setQuad k x).cyc = s.cyc := rfl
@[simp] theorem State.setQuad_cores (s : State) (k : Nat) (x : Quad) : (s.setQuad k x).cores = s.cores := rfl
@[simp] theorem State.setQuad_clusters (s : State) (k : Nat) (x : Quad) : (s.setQuad k x).clusters = s.clusters := rfl
@[simp] theorem State.setQuad_parts (s : State) (k : Nat) (x : Quad) : (s.setQuad k x).parts = s.parts := rfl
@[simp] theorem State.setQuad_vdevs (s : State) (k : Nat) (x : Quad) : (s.setQuad k x).vdevs = s.vdevs := rfl
@[simp] theorem State.setQuad_windows (s : State) (k : Nat) (x : Quad) : (s.setQuad k x).windows = s.windows := rfl
@[simp] theorem State.setQuad_mem (s : State) (k : Nat) (x : Quad) : (s.setQuad k x).mem = s.mem := rfl
@[simp] theorem State.setQuad_frames (s : State) (k : Nat) (x : Quad) : (s.setQuad k x).frames = s.frames := rfl
@[simp] theorem State.setQuad_lines (s : State) (k : Nat) (x : Quad) : (s.setQuad k x).lines = s.lines := rfl
@[simp] theorem State.setQuad_stored (s : State) (k : Nat) (x : Quad) : (s.setQuad k x).stored = s.stored := rfl
@[simp] theorem State.setQuad_counters (s : State) (k : Nat) (x : Quad) : (s.setQuad k x).counters = s.counters := rfl
@[simp] theorem State.setQuad_slices (s : State) (k : Nat) (x : Quad) : (s.setQuad k x).slices = s.slices := rfl
@[simp] theorem State.setQuad_through (s : State) (k : Nat) (x : Quad) : (s.setQuad k x).through = s.through := rfl
@[simp] theorem State.setQuad_launches (s : State) (k : Nat) (x : Quad) : (s.setQuad k x).launches = s.launches := rfl
@[simp] theorem State.setQuad_launchSeq (s : State) (k : Nat) (x : Quad) : (s.setQuad k x).launchSeq = s.launchSeq := rfl
@[simp] theorem State.setQuad_taskSeq (s : State) (k : Nat) (x : Quad) : (s.setQuad k x).taskSeq = s.taskSeq := rfl
@[simp] theorem State.setQuad_saved (s : State) (k : Nat) (x : Quad) : (s.setQuad k x).saved = s.saved := rfl
@[simp] theorem State.setQuad_packets (s : State) (k : Nat) (x : Quad) : (s.setQuad k x).packets = s.packets := rfl
@[simp] theorem State.setQuad_packetSeq (s : State) (k : Nat) (x : Quad) : (s.setQuad k x).packetSeq = s.packetSeq := rfl
@[simp] theorem State.setQuad_travel (s : State) (k : Nat) (x : Quad) : (s.setQuad k x).travel = s.travel := rfl
@[simp] theorem State.setQuad_arrivals (s : State) (k : Nat) (x : Quad) : (s.setQuad k x).arrivals = s.arrivals := rfl
@[simp] theorem State.setQuad_links (s : State) (k : Nat) (x : Quad) : (s.setQuad k x).links = s.links := rfl
@[simp] theorem State.setQuad_hints (s : State) (k : Nat) (x : Quad) : (s.setQuad k x).hints = s.hints := rfl
@[simp] theorem State.setQuad_esct (s : State) (k : Nat) (x : Quad) : (s.setQuad k x).esct = s.esct := rfl
@[simp] theorem State.setQuad_seqOut (s : State) (k : Nat) (x : Quad) : (s.setQuad k x).seqOut = s.seqOut := rfl
@[simp] theorem State.setQuad_seqIn (s : State) (k : Nat) (x : Quad) : (s.setQuad k x).seqIn = s.seqIn := rfl
@[simp] theorem State.setQuad_ports (s : State) (k : Nat) (x : Quad) : (s.setQuad k x).ports = s.ports := rfl
@[simp] theorem State.setQuad_host (s : State) (k : Nat) (x : Quad) : (s.setQuad k x).host = s.host := rfl
@[simp] theorem State.setQuad_hostSent (s : State) (k : Nat) (x : Quad) : (s.setQuad k x).hostSent = s.hostSent := rfl
@[simp] theorem State.setQuad_bootPhase (s : State) (k : Nat) (x : Quad) : (s.setQuad k x).bootPhase = s.bootPhase := rfl
@[simp] theorem State.setQuad_recovery (s : State) (k : Nat) (x : Quad) : (s.setQuad k x).recovery = s.recovery := rfl
@[simp] theorem State.setQuad_failStep (s : State) (k : Nat) (x : Quad) : (s.setQuad k x).failStep = s.failStep := rfl
@[simp] theorem State.setQuad_intWritten (s : State) (k : Nat) (x : Quad) : (s.setQuad k x).intWritten = s.intWritten := rfl
@[simp] theorem State.setQuad_failTold (s : State) (k : Nat) (x : Quad) : (s.setQuad k x).failTold = s.failTold := rfl
@[simp] theorem State.setQuad_badImage (s : State) (k : Nat) (x : Quad) : (s.setQuad k x).badImage = s.badImage := rfl
@[simp] theorem State.setQuad_flash (s : State) (k : Nat) (x : Quad) : (s.setQuad k x).flash = s.flash := rfl
@[simp] theorem State.setQuad_mapOut (s : State) (k : Nat) (x : Quad) : (s.setQuad k x).mapOut = s.mapOut := rfl
@[simp] theorem State.setQuad_fw (s : State) (k : Nat) (x : Quad) : (s.setQuad k x).fw = s.fw := rfl
@[simp] theorem State.setQuad_fuse (s : State) (k : Nat) (x : Quad) : (s.setQuad k x).fuse = s.fuse := rfl
@[simp] theorem State.setQuad_inForce (s : State) (k : Nat) (x : Quad) : (s.setQuad k x).inForce = s.inForce := rfl
@[simp] theorem State.setQuad_debug (s : State) (k : Nat) (x : Quad) : (s.setQuad k x).debug = s.debug := rfl
@[simp] theorem State.setQuad_ctile (s : State) (k : Nat) (x : Quad) : (s.setQuad k x).ctile = s.ctile := rfl
@[simp] theorem State.setQuad_t1frames (s : State) (k : Nat) (x : Quad) : (s.setQuad k x).t1frames = s.t1frames := rfl
@[simp] theorem State.setQuad_promo (s : State) (k : Nat) (x : Quad) : (s.setQuad k x).promo = s.promo := rfl
@[simp] theorem State.setQuad_pwrcap (s : State) (k : Nat) (x : Quad) : (s.setQuad k x).pwrcap = s.pwrcap := rfl
@[simp] theorem State.setQuad_intaddr (s : State) (k : Nat) (x : Quad) : (s.setQuad k x).intaddr = s.intaddr := rfl
@[simp] theorem State.setQuad_lnkctl (s : State) (k : Nat) (x : Quad) : (s.setQuad k x).lnkctl = s.lnkctl := rfl
@[simp] theorem State.setQuad_drel (s : State) (k : Nat) (x : Quad) : (s.setQuad k x).drel = s.drel := rfl
@[simp] theorem State.setQuad_attreq (s : State) (k : Nat) (x : Quad) : (s.setQuad k x).attreq = s.attreq := rfl
@[simp] theorem State.setQuad_nonce (s : State) (k : Nat) (x : Quad) : (s.setQuad k x).nonce = s.nonce := rfl
@[simp] theorem State.setQuad_attrep (s : State) (k : Nat) (x : Quad) : (s.setQuad k x).attrep = s.attrep := rfl
@[simp] theorem State.setQuad_attReady (s : State) (k : Nat) (x : Quad) : (s.setQuad k x).attReady = s.attReady := rfl
@[simp] theorem State.setQuad_throttled (s : State) (k : Nat) (x : Quad) : (s.setQuad k x).throttled = s.throttled := rfl
@[simp] theorem State.setQuad_thermal (s : State) (k : Nat) (x : Quad) : (s.setQuad k x).thermal = s.thermal := rfl

/-! ### `State.setSlice` -/

@[simp] theorem State.setSlice_script (s : State) (k : Nat) (x : Slice) : (s.setSlice k x).script = s.script := rfl
@[simp] theorem State.setSlice_fresh (s : State) (k : Nat) (x : Slice) : (s.setSlice k x).fresh = s.fresh := rfl
@[simp] theorem State.setSlice_cur (s : State) (k : Nat) (x : Slice) : (s.setSlice k x).cur = s.cur := rfl
@[simp] theorem State.setSlice_cyc (s : State) (k : Nat) (x : Slice) : (s.setSlice k x).cyc = s.cyc := rfl
@[simp] theorem State.setSlice_cores (s : State) (k : Nat) (x : Slice) : (s.setSlice k x).cores = s.cores := rfl
@[simp] theorem State.setSlice_quads (s : State) (k : Nat) (x : Slice) : (s.setSlice k x).quads = s.quads := rfl
@[simp] theorem State.setSlice_clusters (s : State) (k : Nat) (x : Slice) : (s.setSlice k x).clusters = s.clusters := rfl
@[simp] theorem State.setSlice_parts (s : State) (k : Nat) (x : Slice) : (s.setSlice k x).parts = s.parts := rfl
@[simp] theorem State.setSlice_vdevs (s : State) (k : Nat) (x : Slice) : (s.setSlice k x).vdevs = s.vdevs := rfl
@[simp] theorem State.setSlice_windows (s : State) (k : Nat) (x : Slice) : (s.setSlice k x).windows = s.windows := rfl
@[simp] theorem State.setSlice_mem (s : State) (k : Nat) (x : Slice) : (s.setSlice k x).mem = s.mem := rfl
@[simp] theorem State.setSlice_frames (s : State) (k : Nat) (x : Slice) : (s.setSlice k x).frames = s.frames := rfl
@[simp] theorem State.setSlice_lines (s : State) (k : Nat) (x : Slice) : (s.setSlice k x).lines = s.lines := rfl
@[simp] theorem State.setSlice_stored (s : State) (k : Nat) (x : Slice) : (s.setSlice k x).stored = s.stored := rfl
@[simp] theorem State.setSlice_counters (s : State) (k : Nat) (x : Slice) : (s.setSlice k x).counters = s.counters := rfl
@[simp] theorem State.setSlice_through (s : State) (k : Nat) (x : Slice) : (s.setSlice k x).through = s.through := rfl
@[simp] theorem State.setSlice_launches (s : State) (k : Nat) (x : Slice) : (s.setSlice k x).launches = s.launches := rfl
@[simp] theorem State.setSlice_launchSeq (s : State) (k : Nat) (x : Slice) : (s.setSlice k x).launchSeq = s.launchSeq := rfl
@[simp] theorem State.setSlice_taskSeq (s : State) (k : Nat) (x : Slice) : (s.setSlice k x).taskSeq = s.taskSeq := rfl
@[simp] theorem State.setSlice_saved (s : State) (k : Nat) (x : Slice) : (s.setSlice k x).saved = s.saved := rfl
@[simp] theorem State.setSlice_packets (s : State) (k : Nat) (x : Slice) : (s.setSlice k x).packets = s.packets := rfl
@[simp] theorem State.setSlice_packetSeq (s : State) (k : Nat) (x : Slice) : (s.setSlice k x).packetSeq = s.packetSeq := rfl
@[simp] theorem State.setSlice_travel (s : State) (k : Nat) (x : Slice) : (s.setSlice k x).travel = s.travel := rfl
@[simp] theorem State.setSlice_arrivals (s : State) (k : Nat) (x : Slice) : (s.setSlice k x).arrivals = s.arrivals := rfl
@[simp] theorem State.setSlice_links (s : State) (k : Nat) (x : Slice) : (s.setSlice k x).links = s.links := rfl
@[simp] theorem State.setSlice_hints (s : State) (k : Nat) (x : Slice) : (s.setSlice k x).hints = s.hints := rfl
@[simp] theorem State.setSlice_esct (s : State) (k : Nat) (x : Slice) : (s.setSlice k x).esct = s.esct := rfl
@[simp] theorem State.setSlice_seqOut (s : State) (k : Nat) (x : Slice) : (s.setSlice k x).seqOut = s.seqOut := rfl
@[simp] theorem State.setSlice_seqIn (s : State) (k : Nat) (x : Slice) : (s.setSlice k x).seqIn = s.seqIn := rfl
@[simp] theorem State.setSlice_ports (s : State) (k : Nat) (x : Slice) : (s.setSlice k x).ports = s.ports := rfl
@[simp] theorem State.setSlice_host (s : State) (k : Nat) (x : Slice) : (s.setSlice k x).host = s.host := rfl
@[simp] theorem State.setSlice_hostSent (s : State) (k : Nat) (x : Slice) : (s.setSlice k x).hostSent = s.hostSent := rfl
@[simp] theorem State.setSlice_bootPhase (s : State) (k : Nat) (x : Slice) : (s.setSlice k x).bootPhase = s.bootPhase := rfl
@[simp] theorem State.setSlice_recovery (s : State) (k : Nat) (x : Slice) : (s.setSlice k x).recovery = s.recovery := rfl
@[simp] theorem State.setSlice_failStep (s : State) (k : Nat) (x : Slice) : (s.setSlice k x).failStep = s.failStep := rfl
@[simp] theorem State.setSlice_intWritten (s : State) (k : Nat) (x : Slice) : (s.setSlice k x).intWritten = s.intWritten := rfl
@[simp] theorem State.setSlice_failTold (s : State) (k : Nat) (x : Slice) : (s.setSlice k x).failTold = s.failTold := rfl
@[simp] theorem State.setSlice_badImage (s : State) (k : Nat) (x : Slice) : (s.setSlice k x).badImage = s.badImage := rfl
@[simp] theorem State.setSlice_flash (s : State) (k : Nat) (x : Slice) : (s.setSlice k x).flash = s.flash := rfl
@[simp] theorem State.setSlice_mapOut (s : State) (k : Nat) (x : Slice) : (s.setSlice k x).mapOut = s.mapOut := rfl
@[simp] theorem State.setSlice_fw (s : State) (k : Nat) (x : Slice) : (s.setSlice k x).fw = s.fw := rfl
@[simp] theorem State.setSlice_fuse (s : State) (k : Nat) (x : Slice) : (s.setSlice k x).fuse = s.fuse := rfl
@[simp] theorem State.setSlice_inForce (s : State) (k : Nat) (x : Slice) : (s.setSlice k x).inForce = s.inForce := rfl
@[simp] theorem State.setSlice_debug (s : State) (k : Nat) (x : Slice) : (s.setSlice k x).debug = s.debug := rfl
@[simp] theorem State.setSlice_ctile (s : State) (k : Nat) (x : Slice) : (s.setSlice k x).ctile = s.ctile := rfl
@[simp] theorem State.setSlice_t1frames (s : State) (k : Nat) (x : Slice) : (s.setSlice k x).t1frames = s.t1frames := rfl
@[simp] theorem State.setSlice_promo (s : State) (k : Nat) (x : Slice) : (s.setSlice k x).promo = s.promo := rfl
@[simp] theorem State.setSlice_pwrcap (s : State) (k : Nat) (x : Slice) : (s.setSlice k x).pwrcap = s.pwrcap := rfl
@[simp] theorem State.setSlice_intaddr (s : State) (k : Nat) (x : Slice) : (s.setSlice k x).intaddr = s.intaddr := rfl
@[simp] theorem State.setSlice_lnkctl (s : State) (k : Nat) (x : Slice) : (s.setSlice k x).lnkctl = s.lnkctl := rfl
@[simp] theorem State.setSlice_drel (s : State) (k : Nat) (x : Slice) : (s.setSlice k x).drel = s.drel := rfl
@[simp] theorem State.setSlice_attreq (s : State) (k : Nat) (x : Slice) : (s.setSlice k x).attreq = s.attreq := rfl
@[simp] theorem State.setSlice_nonce (s : State) (k : Nat) (x : Slice) : (s.setSlice k x).nonce = s.nonce := rfl
@[simp] theorem State.setSlice_attrep (s : State) (k : Nat) (x : Slice) : (s.setSlice k x).attrep = s.attrep := rfl
@[simp] theorem State.setSlice_attReady (s : State) (k : Nat) (x : Slice) : (s.setSlice k x).attReady = s.attReady := rfl
@[simp] theorem State.setSlice_throttled (s : State) (k : Nat) (x : Slice) : (s.setSlice k x).throttled = s.throttled := rfl
@[simp] theorem State.setSlice_thermal (s : State) (k : Nat) (x : Slice) : (s.setSlice k x).thermal = s.thermal := rfl

/-! ### `State.setFrame` -/

@[simp] theorem State.setFrame_script (s : State) (k : Nat) (x : Frame) : (s.setFrame k x).script = s.script := rfl
@[simp] theorem State.setFrame_fresh (s : State) (k : Nat) (x : Frame) : (s.setFrame k x).fresh = s.fresh := rfl
@[simp] theorem State.setFrame_cur (s : State) (k : Nat) (x : Frame) : (s.setFrame k x).cur = s.cur := rfl
@[simp] theorem State.setFrame_cyc (s : State) (k : Nat) (x : Frame) : (s.setFrame k x).cyc = s.cyc := rfl
@[simp] theorem State.setFrame_cores (s : State) (k : Nat) (x : Frame) : (s.setFrame k x).cores = s.cores := rfl
@[simp] theorem State.setFrame_quads (s : State) (k : Nat) (x : Frame) : (s.setFrame k x).quads = s.quads := rfl
@[simp] theorem State.setFrame_clusters (s : State) (k : Nat) (x : Frame) : (s.setFrame k x).clusters = s.clusters := rfl
@[simp] theorem State.setFrame_parts (s : State) (k : Nat) (x : Frame) : (s.setFrame k x).parts = s.parts := rfl
@[simp] theorem State.setFrame_vdevs (s : State) (k : Nat) (x : Frame) : (s.setFrame k x).vdevs = s.vdevs := rfl
@[simp] theorem State.setFrame_windows (s : State) (k : Nat) (x : Frame) : (s.setFrame k x).windows = s.windows := rfl
@[simp] theorem State.setFrame_mem (s : State) (k : Nat) (x : Frame) : (s.setFrame k x).mem = s.mem := rfl
@[simp] theorem State.setFrame_lines (s : State) (k : Nat) (x : Frame) : (s.setFrame k x).lines = s.lines := rfl
@[simp] theorem State.setFrame_stored (s : State) (k : Nat) (x : Frame) : (s.setFrame k x).stored = s.stored := rfl
@[simp] theorem State.setFrame_counters (s : State) (k : Nat) (x : Frame) : (s.setFrame k x).counters = s.counters := rfl
@[simp] theorem State.setFrame_slices (s : State) (k : Nat) (x : Frame) : (s.setFrame k x).slices = s.slices := rfl
@[simp] theorem State.setFrame_through (s : State) (k : Nat) (x : Frame) : (s.setFrame k x).through = s.through := rfl
@[simp] theorem State.setFrame_launches (s : State) (k : Nat) (x : Frame) : (s.setFrame k x).launches = s.launches := rfl
@[simp] theorem State.setFrame_launchSeq (s : State) (k : Nat) (x : Frame) : (s.setFrame k x).launchSeq = s.launchSeq := rfl
@[simp] theorem State.setFrame_taskSeq (s : State) (k : Nat) (x : Frame) : (s.setFrame k x).taskSeq = s.taskSeq := rfl
@[simp] theorem State.setFrame_saved (s : State) (k : Nat) (x : Frame) : (s.setFrame k x).saved = s.saved := rfl
@[simp] theorem State.setFrame_packets (s : State) (k : Nat) (x : Frame) : (s.setFrame k x).packets = s.packets := rfl
@[simp] theorem State.setFrame_packetSeq (s : State) (k : Nat) (x : Frame) : (s.setFrame k x).packetSeq = s.packetSeq := rfl
@[simp] theorem State.setFrame_travel (s : State) (k : Nat) (x : Frame) : (s.setFrame k x).travel = s.travel := rfl
@[simp] theorem State.setFrame_arrivals (s : State) (k : Nat) (x : Frame) : (s.setFrame k x).arrivals = s.arrivals := rfl
@[simp] theorem State.setFrame_links (s : State) (k : Nat) (x : Frame) : (s.setFrame k x).links = s.links := rfl
@[simp] theorem State.setFrame_hints (s : State) (k : Nat) (x : Frame) : (s.setFrame k x).hints = s.hints := rfl
@[simp] theorem State.setFrame_esct (s : State) (k : Nat) (x : Frame) : (s.setFrame k x).esct = s.esct := rfl
@[simp] theorem State.setFrame_seqOut (s : State) (k : Nat) (x : Frame) : (s.setFrame k x).seqOut = s.seqOut := rfl
@[simp] theorem State.setFrame_seqIn (s : State) (k : Nat) (x : Frame) : (s.setFrame k x).seqIn = s.seqIn := rfl
@[simp] theorem State.setFrame_ports (s : State) (k : Nat) (x : Frame) : (s.setFrame k x).ports = s.ports := rfl
@[simp] theorem State.setFrame_host (s : State) (k : Nat) (x : Frame) : (s.setFrame k x).host = s.host := rfl
@[simp] theorem State.setFrame_hostSent (s : State) (k : Nat) (x : Frame) : (s.setFrame k x).hostSent = s.hostSent := rfl
@[simp] theorem State.setFrame_bootPhase (s : State) (k : Nat) (x : Frame) : (s.setFrame k x).bootPhase = s.bootPhase := rfl
@[simp] theorem State.setFrame_recovery (s : State) (k : Nat) (x : Frame) : (s.setFrame k x).recovery = s.recovery := rfl
@[simp] theorem State.setFrame_failStep (s : State) (k : Nat) (x : Frame) : (s.setFrame k x).failStep = s.failStep := rfl
@[simp] theorem State.setFrame_intWritten (s : State) (k : Nat) (x : Frame) : (s.setFrame k x).intWritten = s.intWritten := rfl
@[simp] theorem State.setFrame_failTold (s : State) (k : Nat) (x : Frame) : (s.setFrame k x).failTold = s.failTold := rfl
@[simp] theorem State.setFrame_badImage (s : State) (k : Nat) (x : Frame) : (s.setFrame k x).badImage = s.badImage := rfl
@[simp] theorem State.setFrame_flash (s : State) (k : Nat) (x : Frame) : (s.setFrame k x).flash = s.flash := rfl
@[simp] theorem State.setFrame_mapOut (s : State) (k : Nat) (x : Frame) : (s.setFrame k x).mapOut = s.mapOut := rfl
@[simp] theorem State.setFrame_fw (s : State) (k : Nat) (x : Frame) : (s.setFrame k x).fw = s.fw := rfl
@[simp] theorem State.setFrame_fuse (s : State) (k : Nat) (x : Frame) : (s.setFrame k x).fuse = s.fuse := rfl
@[simp] theorem State.setFrame_inForce (s : State) (k : Nat) (x : Frame) : (s.setFrame k x).inForce = s.inForce := rfl
@[simp] theorem State.setFrame_debug (s : State) (k : Nat) (x : Frame) : (s.setFrame k x).debug = s.debug := rfl
@[simp] theorem State.setFrame_ctile (s : State) (k : Nat) (x : Frame) : (s.setFrame k x).ctile = s.ctile := rfl
@[simp] theorem State.setFrame_t1frames (s : State) (k : Nat) (x : Frame) : (s.setFrame k x).t1frames = s.t1frames := rfl
@[simp] theorem State.setFrame_promo (s : State) (k : Nat) (x : Frame) : (s.setFrame k x).promo = s.promo := rfl
@[simp] theorem State.setFrame_pwrcap (s : State) (k : Nat) (x : Frame) : (s.setFrame k x).pwrcap = s.pwrcap := rfl
@[simp] theorem State.setFrame_intaddr (s : State) (k : Nat) (x : Frame) : (s.setFrame k x).intaddr = s.intaddr := rfl
@[simp] theorem State.setFrame_lnkctl (s : State) (k : Nat) (x : Frame) : (s.setFrame k x).lnkctl = s.lnkctl := rfl
@[simp] theorem State.setFrame_drel (s : State) (k : Nat) (x : Frame) : (s.setFrame k x).drel = s.drel := rfl
@[simp] theorem State.setFrame_attreq (s : State) (k : Nat) (x : Frame) : (s.setFrame k x).attreq = s.attreq := rfl
@[simp] theorem State.setFrame_nonce (s : State) (k : Nat) (x : Frame) : (s.setFrame k x).nonce = s.nonce := rfl
@[simp] theorem State.setFrame_attrep (s : State) (k : Nat) (x : Frame) : (s.setFrame k x).attrep = s.attrep := rfl
@[simp] theorem State.setFrame_attReady (s : State) (k : Nat) (x : Frame) : (s.setFrame k x).attReady = s.attReady := rfl
@[simp] theorem State.setFrame_throttled (s : State) (k : Nat) (x : Frame) : (s.setFrame k x).throttled = s.throttled := rfl
@[simp] theorem State.setFrame_thermal (s : State) (k : Nat) (x : Frame) : (s.setFrame k x).thermal = s.thermal := rfl

/-! ### `State.setLine` -/

@[simp] theorem State.setLine_script (s : State) (k : Nat) (x : Line) : (s.setLine k x).script = s.script := rfl
@[simp] theorem State.setLine_fresh (s : State) (k : Nat) (x : Line) : (s.setLine k x).fresh = s.fresh := rfl
@[simp] theorem State.setLine_cur (s : State) (k : Nat) (x : Line) : (s.setLine k x).cur = s.cur := rfl
@[simp] theorem State.setLine_cyc (s : State) (k : Nat) (x : Line) : (s.setLine k x).cyc = s.cyc := rfl
@[simp] theorem State.setLine_cores (s : State) (k : Nat) (x : Line) : (s.setLine k x).cores = s.cores := rfl
@[simp] theorem State.setLine_quads (s : State) (k : Nat) (x : Line) : (s.setLine k x).quads = s.quads := rfl
@[simp] theorem State.setLine_clusters (s : State) (k : Nat) (x : Line) : (s.setLine k x).clusters = s.clusters := rfl
@[simp] theorem State.setLine_parts (s : State) (k : Nat) (x : Line) : (s.setLine k x).parts = s.parts := rfl
@[simp] theorem State.setLine_vdevs (s : State) (k : Nat) (x : Line) : (s.setLine k x).vdevs = s.vdevs := rfl
@[simp] theorem State.setLine_windows (s : State) (k : Nat) (x : Line) : (s.setLine k x).windows = s.windows := rfl
@[simp] theorem State.setLine_mem (s : State) (k : Nat) (x : Line) : (s.setLine k x).mem = s.mem := rfl
@[simp] theorem State.setLine_frames (s : State) (k : Nat) (x : Line) : (s.setLine k x).frames = s.frames := rfl
@[simp] theorem State.setLine_stored (s : State) (k : Nat) (x : Line) : (s.setLine k x).stored = s.stored := rfl
@[simp] theorem State.setLine_counters (s : State) (k : Nat) (x : Line) : (s.setLine k x).counters = s.counters := rfl
@[simp] theorem State.setLine_slices (s : State) (k : Nat) (x : Line) : (s.setLine k x).slices = s.slices := rfl
@[simp] theorem State.setLine_through (s : State) (k : Nat) (x : Line) : (s.setLine k x).through = s.through := rfl
@[simp] theorem State.setLine_launches (s : State) (k : Nat) (x : Line) : (s.setLine k x).launches = s.launches := rfl
@[simp] theorem State.setLine_launchSeq (s : State) (k : Nat) (x : Line) : (s.setLine k x).launchSeq = s.launchSeq := rfl
@[simp] theorem State.setLine_taskSeq (s : State) (k : Nat) (x : Line) : (s.setLine k x).taskSeq = s.taskSeq := rfl
@[simp] theorem State.setLine_saved (s : State) (k : Nat) (x : Line) : (s.setLine k x).saved = s.saved := rfl
@[simp] theorem State.setLine_packets (s : State) (k : Nat) (x : Line) : (s.setLine k x).packets = s.packets := rfl
@[simp] theorem State.setLine_packetSeq (s : State) (k : Nat) (x : Line) : (s.setLine k x).packetSeq = s.packetSeq := rfl
@[simp] theorem State.setLine_travel (s : State) (k : Nat) (x : Line) : (s.setLine k x).travel = s.travel := rfl
@[simp] theorem State.setLine_arrivals (s : State) (k : Nat) (x : Line) : (s.setLine k x).arrivals = s.arrivals := rfl
@[simp] theorem State.setLine_links (s : State) (k : Nat) (x : Line) : (s.setLine k x).links = s.links := rfl
@[simp] theorem State.setLine_hints (s : State) (k : Nat) (x : Line) : (s.setLine k x).hints = s.hints := rfl
@[simp] theorem State.setLine_esct (s : State) (k : Nat) (x : Line) : (s.setLine k x).esct = s.esct := rfl
@[simp] theorem State.setLine_seqOut (s : State) (k : Nat) (x : Line) : (s.setLine k x).seqOut = s.seqOut := rfl
@[simp] theorem State.setLine_seqIn (s : State) (k : Nat) (x : Line) : (s.setLine k x).seqIn = s.seqIn := rfl
@[simp] theorem State.setLine_ports (s : State) (k : Nat) (x : Line) : (s.setLine k x).ports = s.ports := rfl
@[simp] theorem State.setLine_host (s : State) (k : Nat) (x : Line) : (s.setLine k x).host = s.host := rfl
@[simp] theorem State.setLine_hostSent (s : State) (k : Nat) (x : Line) : (s.setLine k x).hostSent = s.hostSent := rfl
@[simp] theorem State.setLine_bootPhase (s : State) (k : Nat) (x : Line) : (s.setLine k x).bootPhase = s.bootPhase := rfl
@[simp] theorem State.setLine_recovery (s : State) (k : Nat) (x : Line) : (s.setLine k x).recovery = s.recovery := rfl
@[simp] theorem State.setLine_failStep (s : State) (k : Nat) (x : Line) : (s.setLine k x).failStep = s.failStep := rfl
@[simp] theorem State.setLine_intWritten (s : State) (k : Nat) (x : Line) : (s.setLine k x).intWritten = s.intWritten := rfl
@[simp] theorem State.setLine_failTold (s : State) (k : Nat) (x : Line) : (s.setLine k x).failTold = s.failTold := rfl
@[simp] theorem State.setLine_badImage (s : State) (k : Nat) (x : Line) : (s.setLine k x).badImage = s.badImage := rfl
@[simp] theorem State.setLine_flash (s : State) (k : Nat) (x : Line) : (s.setLine k x).flash = s.flash := rfl
@[simp] theorem State.setLine_mapOut (s : State) (k : Nat) (x : Line) : (s.setLine k x).mapOut = s.mapOut := rfl
@[simp] theorem State.setLine_fw (s : State) (k : Nat) (x : Line) : (s.setLine k x).fw = s.fw := rfl
@[simp] theorem State.setLine_fuse (s : State) (k : Nat) (x : Line) : (s.setLine k x).fuse = s.fuse := rfl
@[simp] theorem State.setLine_inForce (s : State) (k : Nat) (x : Line) : (s.setLine k x).inForce = s.inForce := rfl
@[simp] theorem State.setLine_debug (s : State) (k : Nat) (x : Line) : (s.setLine k x).debug = s.debug := rfl
@[simp] theorem State.setLine_ctile (s : State) (k : Nat) (x : Line) : (s.setLine k x).ctile = s.ctile := rfl
@[simp] theorem State.setLine_t1frames (s : State) (k : Nat) (x : Line) : (s.setLine k x).t1frames = s.t1frames := rfl
@[simp] theorem State.setLine_promo (s : State) (k : Nat) (x : Line) : (s.setLine k x).promo = s.promo := rfl
@[simp] theorem State.setLine_pwrcap (s : State) (k : Nat) (x : Line) : (s.setLine k x).pwrcap = s.pwrcap := rfl
@[simp] theorem State.setLine_intaddr (s : State) (k : Nat) (x : Line) : (s.setLine k x).intaddr = s.intaddr := rfl
@[simp] theorem State.setLine_lnkctl (s : State) (k : Nat) (x : Line) : (s.setLine k x).lnkctl = s.lnkctl := rfl
@[simp] theorem State.setLine_drel (s : State) (k : Nat) (x : Line) : (s.setLine k x).drel = s.drel := rfl
@[simp] theorem State.setLine_attreq (s : State) (k : Nat) (x : Line) : (s.setLine k x).attreq = s.attreq := rfl
@[simp] theorem State.setLine_nonce (s : State) (k : Nat) (x : Line) : (s.setLine k x).nonce = s.nonce := rfl
@[simp] theorem State.setLine_attrep (s : State) (k : Nat) (x : Line) : (s.setLine k x).attrep = s.attrep := rfl
@[simp] theorem State.setLine_attReady (s : State) (k : Nat) (x : Line) : (s.setLine k x).attReady = s.attReady := rfl
@[simp] theorem State.setLine_throttled (s : State) (k : Nat) (x : Line) : (s.setLine k x).throttled = s.throttled := rfl
@[simp] theorem State.setLine_thermal (s : State) (k : Nat) (x : Line) : (s.setLine k x).thermal = s.thermal := rfl

/-! ### Accessors after an update -/

@[simp] theorem State.setCore_cluster (s : State) (k : Nat) (x : Core) (i : Nat) : (s.setCore k x).cluster i = s.cluster i := rfl
@[simp] theorem State.setCore_part (s : State) (k : Nat) (x : Core) (i : Nat) : (s.setCore k x).part i = s.part i := rfl
@[simp] theorem State.setCore_vdev (s : State) (k : Nat) (x : Core) (i : Nat) : (s.setCore k x).vdev i = s.vdev i := rfl
@[simp] theorem State.setCore_quad (s : State) (k : Nat) (x : Core) (i : Nat) : (s.setCore k x).quad i = s.quad i := rfl
@[simp] theorem State.setCore_slice (s : State) (k : Nat) (x : Core) (i : Nat) : (s.setCore k x).slice i = s.slice i := rfl
@[simp] theorem State.setCore_frame (s : State) (k : Nat) (x : Core) (i : Nat) : (s.setCore k x).frame i = s.frame i := rfl
@[simp] theorem State.setCore_line (s : State) (k : Nat) (x : Core) (i : Nat) : (s.setCore k x).line i = s.line i := rfl
@[simp] theorem State.setCore_bank (s : State) (k : Nat) (x : Core) (i j : Nat) : (s.setCore k x).bank i j = s.bank i j := rfl
@[simp] theorem State.setCore_k (s : State) (k : Nat) (x : Core) : (s.setCore k x).k = s.k := rfl
@[simp] theorem State.setCore_c (s : State) (k : Nat) (x : Core) : (s.setCore k x).c = s.c := rfl
@[simp] theorem State.setCtx_cluster (s : State) (k c : Nat) (x : Ctx) (i : Nat) : (s.setCtx k c x).cluster i = s.cluster i := rfl
@[simp] theorem State.setCtx_part (s : State) (k c : Nat) (x : Ctx) (i : Nat) : (s.setCtx k c x).part i = s.part i := rfl
@[simp] theorem State.setCtx_vdev (s : State) (k c : Nat) (x : Ctx) (i : Nat) : (s.setCtx k c x).vdev i = s.vdev i := rfl
@[simp] theorem State.setCtx_quad (s : State) (k c : Nat) (x : Ctx) (i : Nat) : (s.setCtx k c x).quad i = s.quad i := rfl
@[simp] theorem State.setCtx_slice (s : State) (k c : Nat) (x : Ctx) (i : Nat) : (s.setCtx k c x).slice i = s.slice i := rfl
@[simp] theorem State.setCtx_frame (s : State) (k c : Nat) (x : Ctx) (i : Nat) : (s.setCtx k c x).frame i = s.frame i := rfl
@[simp] theorem State.setCtx_line (s : State) (k c : Nat) (x : Ctx) (i : Nat) : (s.setCtx k c x).line i = s.line i := rfl
@[simp] theorem State.setCtx_bank (s : State) (k c : Nat) (x : Ctx) (i j : Nat) : (s.setCtx k c x).bank i j = s.bank i j := rfl
@[simp] theorem State.setCtx_k (s : State) (k c : Nat) (x : Ctx) : (s.setCtx k c x).k = s.k := rfl
@[simp] theorem State.setCtx_c (s : State) (k c : Nat) (x : Ctx) : (s.setCtx k c x).c = s.c := rfl
@[simp] theorem State.setMe_cluster (s : State) (x : Ctx) (i : Nat) : (s.setMe x).cluster i = s.cluster i := rfl
@[simp] theorem State.setMe_part (s : State) (x : Ctx) (i : Nat) : (s.setMe x).part i = s.part i := rfl
@[simp] theorem State.setMe_vdev (s : State) (x : Ctx) (i : Nat) : (s.setMe x).vdev i = s.vdev i := rfl
@[simp] theorem State.setMe_quad (s : State) (x : Ctx) (i : Nat) : (s.setMe x).quad i = s.quad i := rfl
@[simp] theorem State.setMe_slice (s : State) (x : Ctx) (i : Nat) : (s.setMe x).slice i = s.slice i := rfl
@[simp] theorem State.setMe_frame (s : State) (x : Ctx) (i : Nat) : (s.setMe x).frame i = s.frame i := rfl
@[simp] theorem State.setMe_line (s : State) (x : Ctx) (i : Nat) : (s.setMe x).line i = s.line i := rfl
@[simp] theorem State.setMe_bank (s : State) (x : Ctx) (i j : Nat) : (s.setMe x).bank i j = s.bank i j := rfl
@[simp] theorem State.setMe_k (s : State) (x : Ctx) : (s.setMe x).k = s.k := rfl
@[simp] theorem State.setMe_c (s : State) (x : Ctx) : (s.setMe x).c = s.c := rfl
@[simp] theorem State.setSlot_cluster (s : State) (k n : Nat) (x : Slot) (i : Nat) : (s.setSlot k n x).cluster i = s.cluster i := rfl
@[simp] theorem State.setSlot_part (s : State) (k n : Nat) (x : Slot) (i : Nat) : (s.setSlot k n x).part i = s.part i := rfl
@[simp] theorem State.setSlot_vdev (s : State) (k n : Nat) (x : Slot) (i : Nat) : (s.setSlot k n x).vdev i = s.vdev i := rfl
@[simp] theorem State.setSlot_quad (s : State) (k n : Nat) (x : Slot) (i : Nat) : (s.setSlot k n x).quad i = s.quad i := rfl
@[simp] theorem State.setSlot_slice (s : State) (k n : Nat) (x : Slot) (i : Nat) : (s.setSlot k n x).slice i = s.slice i := rfl
@[simp] theorem State.setSlot_frame (s : State) (k n : Nat) (x : Slot) (i : Nat) : (s.setSlot k n x).frame i = s.frame i := rfl
@[simp] theorem State.setSlot_line (s : State) (k n : Nat) (x : Slot) (i : Nat) : (s.setSlot k n x).line i = s.line i := rfl
@[simp] theorem State.setSlot_bank (s : State) (k n : Nat) (x : Slot) (i j : Nat) : (s.setSlot k n x).bank i j = s.bank i j := rfl
@[simp] theorem State.setSlot_k (s : State) (k n : Nat) (x : Slot) : (s.setSlot k n x).k = s.k := rfl
@[simp] theorem State.setSlot_c (s : State) (k n : Nat) (x : Slot) : (s.setSlot k n x).c = s.c := rfl
@[simp] theorem State.setCluster_core (s : State) (k : Nat) (x : Cluster) (i : Nat) : (s.setCluster k x).core i = s.core i := rfl
@[simp] theorem State.setCluster_part (s : State) (k : Nat) (x : Cluster) (i : Nat) : (s.setCluster k x).part i = s.part i := rfl
@[simp] theorem State.setCluster_vdev (s : State) (k : Nat) (x : Cluster) (i : Nat) : (s.setCluster k x).vdev i = s.vdev i := rfl
@[simp] theorem State.setCluster_quad (s : State) (k : Nat) (x : Cluster) (i : Nat) : (s.setCluster k x).quad i = s.quad i := rfl
@[simp] theorem State.setCluster_slice (s : State) (k : Nat) (x : Cluster) (i : Nat) : (s.setCluster k x).slice i = s.slice i := rfl
@[simp] theorem State.setCluster_frame (s : State) (k : Nat) (x : Cluster) (i : Nat) : (s.setCluster k x).frame i = s.frame i := rfl
@[simp] theorem State.setCluster_line (s : State) (k : Nat) (x : Cluster) (i : Nat) : (s.setCluster k x).line i = s.line i := rfl
@[simp] theorem State.setCluster_ctx (s : State) (k : Nat) (x : Cluster) (i j : Nat) : (s.setCluster k x).ctx i j = s.ctx i j := rfl
@[simp] theorem State.setCluster_slot (s : State) (k : Nat) (x : Cluster) (i j : Nat) : (s.setCluster k x).slot i j = s.slot i j := rfl
@[simp] theorem State.setCluster_me (s : State) (k : Nat) (x : Cluster) : (s.setCluster k x).me = s.me := rfl
@[simp] theorem State.setCluster_k (s : State) (k : Nat) (x : Cluster) : (s.setCluster k x).k = s.k := rfl
@[simp] theorem State.setCluster_c (s : State) (k : Nat) (x : Cluster) : (s.setCluster k x).c = s.c := rfl
@[simp] theorem State.setBank_core (s : State) (k b : Nat) (x : Bank) (i : Nat) : (s.setBank k b x).core i = s.core i := rfl
@[simp] theorem State.setBank_part (s : State) (k b : Nat) (x : Bank) (i : Nat) : (s.setBank k b x).part i = s.part i := rfl
@[simp] theorem State.setBank_vdev (s : State) (k b : Nat) (x : Bank) (i : Nat) : (s.setBank k b x).vdev i = s.vdev i := rfl
@[simp] theorem State.setBank_quad (s : State) (k b : Nat) (x : Bank) (i : Nat) : (s.setBank k b x).quad i = s.quad i := rfl
@[simp] theorem State.setBank_slice (s : State) (k b : Nat) (x : Bank) (i : Nat) : (s.setBank k b x).slice i = s.slice i := rfl
@[simp] theorem State.setBank_frame (s : State) (k b : Nat) (x : Bank) (i : Nat) : (s.setBank k b x).frame i = s.frame i := rfl
@[simp] theorem State.setBank_line (s : State) (k b : Nat) (x : Bank) (i : Nat) : (s.setBank k b x).line i = s.line i := rfl
@[simp] theorem State.setBank_ctx (s : State) (k b : Nat) (x : Bank) (i j : Nat) : (s.setBank k b x).ctx i j = s.ctx i j := rfl
@[simp] theorem State.setBank_slot (s : State) (k b : Nat) (x : Bank) (i j : Nat) : (s.setBank k b x).slot i j = s.slot i j := rfl
@[simp] theorem State.setBank_me (s : State) (k b : Nat) (x : Bank) : (s.setBank k b x).me = s.me := rfl
@[simp] theorem State.setBank_k (s : State) (k b : Nat) (x : Bank) : (s.setBank k b x).k = s.k := rfl
@[simp] theorem State.setBank_c (s : State) (k b : Nat) (x : Bank) : (s.setBank k b x).c = s.c := rfl
@[simp] theorem State.setPart_core (s : State) (k : Nat) (x : Part) (i : Nat) : (s.setPart k x).core i = s.core i := rfl
@[simp] theorem State.setPart_cluster (s : State) (k : Nat) (x : Part) (i : Nat) : (s.setPart k x).cluster i = s.cluster i := rfl
@[simp] theorem State.setPart_vdev (s : State) (k : Nat) (x : Part) (i : Nat) : (s.setPart k x).vdev i = s.vdev i := rfl
@[simp] theorem State.setPart_quad (s : State) (k : Nat) (x : Part) (i : Nat) : (s.setPart k x).quad i = s.quad i := rfl
@[simp] theorem State.setPart_slice (s : State) (k : Nat) (x : Part) (i : Nat) : (s.setPart k x).slice i = s.slice i := rfl
@[simp] theorem State.setPart_frame (s : State) (k : Nat) (x : Part) (i : Nat) : (s.setPart k x).frame i = s.frame i := rfl
@[simp] theorem State.setPart_line (s : State) (k : Nat) (x : Part) (i : Nat) : (s.setPart k x).line i = s.line i := rfl
@[simp] theorem State.setPart_ctx (s : State) (k : Nat) (x : Part) (i j : Nat) : (s.setPart k x).ctx i j = s.ctx i j := rfl
@[simp] theorem State.setPart_slot (s : State) (k : Nat) (x : Part) (i j : Nat) : (s.setPart k x).slot i j = s.slot i j := rfl
@[simp] theorem State.setPart_me (s : State) (k : Nat) (x : Part) : (s.setPart k x).me = s.me := rfl
@[simp] theorem State.setPart_bank (s : State) (k : Nat) (x : Part) (i j : Nat) : (s.setPart k x).bank i j = s.bank i j := rfl
@[simp] theorem State.setPart_k (s : State) (k : Nat) (x : Part) : (s.setPart k x).k = s.k := rfl
@[simp] theorem State.setPart_c (s : State) (k : Nat) (x : Part) : (s.setPart k x).c = s.c := rfl
@[simp] theorem State.setVdev_core (s : State) (k : Nat) (x : VDev) (i : Nat) : (s.setVdev k x).core i = s.core i := rfl
@[simp] theorem State.setVdev_cluster (s : State) (k : Nat) (x : VDev) (i : Nat) : (s.setVdev k x).cluster i = s.cluster i := rfl
@[simp] theorem State.setVdev_part (s : State) (k : Nat) (x : VDev) (i : Nat) : (s.setVdev k x).part i = s.part i := rfl
@[simp] theorem State.setVdev_quad (s : State) (k : Nat) (x : VDev) (i : Nat) : (s.setVdev k x).quad i = s.quad i := rfl
@[simp] theorem State.setVdev_slice (s : State) (k : Nat) (x : VDev) (i : Nat) : (s.setVdev k x).slice i = s.slice i := rfl
@[simp] theorem State.setVdev_frame (s : State) (k : Nat) (x : VDev) (i : Nat) : (s.setVdev k x).frame i = s.frame i := rfl
@[simp] theorem State.setVdev_line (s : State) (k : Nat) (x : VDev) (i : Nat) : (s.setVdev k x).line i = s.line i := rfl
@[simp] theorem State.setVdev_ctx (s : State) (k : Nat) (x : VDev) (i j : Nat) : (s.setVdev k x).ctx i j = s.ctx i j := rfl
@[simp] theorem State.setVdev_slot (s : State) (k : Nat) (x : VDev) (i j : Nat) : (s.setVdev k x).slot i j = s.slot i j := rfl
@[simp] theorem State.setVdev_me (s : State) (k : Nat) (x : VDev) : (s.setVdev k x).me = s.me := rfl
@[simp] theorem State.setVdev_bank (s : State) (k : Nat) (x : VDev) (i j : Nat) : (s.setVdev k x).bank i j = s.bank i j := rfl
@[simp] theorem State.setVdev_k (s : State) (k : Nat) (x : VDev) : (s.setVdev k x).k = s.k := rfl
@[simp] theorem State.setVdev_c (s : State) (k : Nat) (x : VDev) : (s.setVdev k x).c = s.c := rfl
@[simp] theorem State.setQuad_core (s : State) (k : Nat) (x : Quad) (i : Nat) : (s.setQuad k x).core i = s.core i := rfl
@[simp] theorem State.setQuad_cluster (s : State) (k : Nat) (x : Quad) (i : Nat) : (s.setQuad k x).cluster i = s.cluster i := rfl
@[simp] theorem State.setQuad_part (s : State) (k : Nat) (x : Quad) (i : Nat) : (s.setQuad k x).part i = s.part i := rfl
@[simp] theorem State.setQuad_vdev (s : State) (k : Nat) (x : Quad) (i : Nat) : (s.setQuad k x).vdev i = s.vdev i := rfl
@[simp] theorem State.setQuad_slice (s : State) (k : Nat) (x : Quad) (i : Nat) : (s.setQuad k x).slice i = s.slice i := rfl
@[simp] theorem State.setQuad_frame (s : State) (k : Nat) (x : Quad) (i : Nat) : (s.setQuad k x).frame i = s.frame i := rfl
@[simp] theorem State.setQuad_line (s : State) (k : Nat) (x : Quad) (i : Nat) : (s.setQuad k x).line i = s.line i := rfl
@[simp] theorem State.setQuad_ctx (s : State) (k : Nat) (x : Quad) (i j : Nat) : (s.setQuad k x).ctx i j = s.ctx i j := rfl
@[simp] theorem State.setQuad_slot (s : State) (k : Nat) (x : Quad) (i j : Nat) : (s.setQuad k x).slot i j = s.slot i j := rfl
@[simp] theorem State.setQuad_me (s : State) (k : Nat) (x : Quad) : (s.setQuad k x).me = s.me := rfl
@[simp] theorem State.setQuad_bank (s : State) (k : Nat) (x : Quad) (i j : Nat) : (s.setQuad k x).bank i j = s.bank i j := rfl
@[simp] theorem State.setQuad_k (s : State) (k : Nat) (x : Quad) : (s.setQuad k x).k = s.k := rfl
@[simp] theorem State.setQuad_c (s : State) (k : Nat) (x : Quad) : (s.setQuad k x).c = s.c := rfl
@[simp] theorem State.setSlice_core (s : State) (k : Nat) (x : Slice) (i : Nat) : (s.setSlice k x).core i = s.core i := rfl
@[simp] theorem State.setSlice_cluster (s : State) (k : Nat) (x : Slice) (i : Nat) : (s.setSlice k x).cluster i = s.cluster i := rfl
@[simp] theorem State.setSlice_part (s : State) (k : Nat) (x : Slice) (i : Nat) : (s.setSlice k x).part i = s.part i := rfl
@[simp] theorem State.setSlice_vdev (s : State) (k : Nat) (x : Slice) (i : Nat) : (s.setSlice k x).vdev i = s.vdev i := rfl
@[simp] theorem State.setSlice_quad (s : State) (k : Nat) (x : Slice) (i : Nat) : (s.setSlice k x).quad i = s.quad i := rfl
@[simp] theorem State.setSlice_frame (s : State) (k : Nat) (x : Slice) (i : Nat) : (s.setSlice k x).frame i = s.frame i := rfl
@[simp] theorem State.setSlice_line (s : State) (k : Nat) (x : Slice) (i : Nat) : (s.setSlice k x).line i = s.line i := rfl
@[simp] theorem State.setSlice_ctx (s : State) (k : Nat) (x : Slice) (i j : Nat) : (s.setSlice k x).ctx i j = s.ctx i j := rfl
@[simp] theorem State.setSlice_slot (s : State) (k : Nat) (x : Slice) (i j : Nat) : (s.setSlice k x).slot i j = s.slot i j := rfl
@[simp] theorem State.setSlice_me (s : State) (k : Nat) (x : Slice) : (s.setSlice k x).me = s.me := rfl
@[simp] theorem State.setSlice_bank (s : State) (k : Nat) (x : Slice) (i j : Nat) : (s.setSlice k x).bank i j = s.bank i j := rfl
@[simp] theorem State.setSlice_k (s : State) (k : Nat) (x : Slice) : (s.setSlice k x).k = s.k := rfl
@[simp] theorem State.setSlice_c (s : State) (k : Nat) (x : Slice) : (s.setSlice k x).c = s.c := rfl
@[simp] theorem State.setFrame_core (s : State) (k : Nat) (x : Frame) (i : Nat) : (s.setFrame k x).core i = s.core i := rfl
@[simp] theorem State.setFrame_cluster (s : State) (k : Nat) (x : Frame) (i : Nat) : (s.setFrame k x).cluster i = s.cluster i := rfl
@[simp] theorem State.setFrame_part (s : State) (k : Nat) (x : Frame) (i : Nat) : (s.setFrame k x).part i = s.part i := rfl
@[simp] theorem State.setFrame_vdev (s : State) (k : Nat) (x : Frame) (i : Nat) : (s.setFrame k x).vdev i = s.vdev i := rfl
@[simp] theorem State.setFrame_quad (s : State) (k : Nat) (x : Frame) (i : Nat) : (s.setFrame k x).quad i = s.quad i := rfl
@[simp] theorem State.setFrame_slice (s : State) (k : Nat) (x : Frame) (i : Nat) : (s.setFrame k x).slice i = s.slice i := rfl
@[simp] theorem State.setFrame_line (s : State) (k : Nat) (x : Frame) (i : Nat) : (s.setFrame k x).line i = s.line i := rfl
@[simp] theorem State.setFrame_ctx (s : State) (k : Nat) (x : Frame) (i j : Nat) : (s.setFrame k x).ctx i j = s.ctx i j := rfl
@[simp] theorem State.setFrame_slot (s : State) (k : Nat) (x : Frame) (i j : Nat) : (s.setFrame k x).slot i j = s.slot i j := rfl
@[simp] theorem State.setFrame_me (s : State) (k : Nat) (x : Frame) : (s.setFrame k x).me = s.me := rfl
@[simp] theorem State.setFrame_bank (s : State) (k : Nat) (x : Frame) (i j : Nat) : (s.setFrame k x).bank i j = s.bank i j := rfl
@[simp] theorem State.setFrame_k (s : State) (k : Nat) (x : Frame) : (s.setFrame k x).k = s.k := rfl
@[simp] theorem State.setFrame_c (s : State) (k : Nat) (x : Frame) : (s.setFrame k x).c = s.c := rfl
@[simp] theorem State.setLine_core (s : State) (k : Nat) (x : Line) (i : Nat) : (s.setLine k x).core i = s.core i := rfl
@[simp] theorem State.setLine_cluster (s : State) (k : Nat) (x : Line) (i : Nat) : (s.setLine k x).cluster i = s.cluster i := rfl
@[simp] theorem State.setLine_part (s : State) (k : Nat) (x : Line) (i : Nat) : (s.setLine k x).part i = s.part i := rfl
@[simp] theorem State.setLine_vdev (s : State) (k : Nat) (x : Line) (i : Nat) : (s.setLine k x).vdev i = s.vdev i := rfl
@[simp] theorem State.setLine_quad (s : State) (k : Nat) (x : Line) (i : Nat) : (s.setLine k x).quad i = s.quad i := rfl
@[simp] theorem State.setLine_slice (s : State) (k : Nat) (x : Line) (i : Nat) : (s.setLine k x).slice i = s.slice i := rfl
@[simp] theorem State.setLine_frame (s : State) (k : Nat) (x : Line) (i : Nat) : (s.setLine k x).frame i = s.frame i := rfl
@[simp] theorem State.setLine_ctx (s : State) (k : Nat) (x : Line) (i j : Nat) : (s.setLine k x).ctx i j = s.ctx i j := rfl
@[simp] theorem State.setLine_slot (s : State) (k : Nat) (x : Line) (i j : Nat) : (s.setLine k x).slot i j = s.slot i j := rfl
@[simp] theorem State.setLine_me (s : State) (k : Nat) (x : Line) : (s.setLine k x).me = s.me := rfl
@[simp] theorem State.setLine_bank (s : State) (k : Nat) (x : Line) (i j : Nat) : (s.setLine k x).bank i j = s.bank i j := rfl
@[simp] theorem State.setLine_k (s : State) (k : Nat) (x : Line) : (s.setLine k x).k = s.k := rfl
@[simp] theorem State.setLine_c (s : State) (k : Nat) (x : Line) : (s.setLine k x).c = s.c := rfl

@[simp] theorem State.setCore_core_self (s : State) (k : Nat) (x : Core) : (s.setCore k x).core k = x := Sparse.get_put_self _ _ _ _
theorem State.setCore_core_ne (s : State) {k i : Nat} (x : Core) (h : i ≠ k) : (s.setCore k x).core i = s.core i := Sparse.get_put_ne _ _ _ h
@[simp] theorem State.setCluster_cluster_self (s : State) (k : Nat) (x : Cluster) : (s.setCluster k x).cluster k = x := Sparse.get_put_self _ _ _ _
theorem State.setCluster_cluster_ne (s : State) {k i : Nat} (x : Cluster) (h : i ≠ k) : (s.setCluster k x).cluster i = s.cluster i := Sparse.get_put_ne _ _ _ h
@[simp] theorem State.setPart_part_self (s : State) (k : Nat) (x : Part) : (s.setPart k x).part k = x := Sparse.get_put_self _ _ _ _
theorem State.setPart_part_ne (s : State) {k i : Nat} (x : Part) (h : i ≠ k) : (s.setPart k x).part i = s.part i := Sparse.get_put_ne _ _ _ h
@[simp] theorem State.setVdev_vdev_self (s : State) (k : Nat) (x : VDev) : (s.setVdev k x).vdev k = x := Sparse.get_put_self _ _ _ _
theorem State.setVdev_vdev_ne (s : State) {k i : Nat} (x : VDev) (h : i ≠ k) : (s.setVdev k x).vdev i = s.vdev i := Sparse.get_put_ne _ _ _ h
@[simp] theorem State.setQuad_quad_self (s : State) (k : Nat) (x : Quad) : (s.setQuad k x).quad k = x := Sparse.get_put_self _ _ _ _
theorem State.setQuad_quad_ne (s : State) {k i : Nat} (x : Quad) (h : i ≠ k) : (s.setQuad k x).quad i = s.quad i := Sparse.get_put_ne _ _ _ h
@[simp] theorem State.setSlice_slice_self (s : State) (k : Nat) (x : Slice) : (s.setSlice k x).slice k = x := Sparse.get_put_self _ _ _ _
theorem State.setSlice_slice_ne (s : State) {k i : Nat} (x : Slice) (h : i ≠ k) : (s.setSlice k x).slice i = s.slice i := Sparse.get_put_ne _ _ _ h
@[simp] theorem State.setFrame_frame_self (s : State) (k : Nat) (x : Frame) : (s.setFrame k x).frame k = x := Sparse.get_put_self _ _ _ _
theorem State.setFrame_frame_ne (s : State) {k i : Nat} (x : Frame) (h : i ≠ k) : (s.setFrame k x).frame i = s.frame i := Sparse.get_put_ne _ _ _ h
@[simp] theorem State.setLine_line_self (s : State) (k : Nat) (x : Line) : (s.setLine k x).line k = x := Sparse.get_put_self _ _ _ _
theorem State.setLine_line_ne (s : State) {k i : Nat} (x : Line) (h : i ≠ k) : (s.setLine k x).line i = s.line i := Sparse.get_put_ne _ _ _ h

@[simp] theorem Core.setCtx_ctx_self (x : Core) (k c : Nat) (y : Ctx) : (x.setCtx c y).ctx k c = y := Sparse.get_put_self _ _ _ _
theorem Core.setCtx_ctx_ne (x : Core) (k : Nat) {c d : Nat} (y : Ctx) (h : d ≠ c) : (x.setCtx c y).ctx k d = x.ctx k d :=
  Sparse.get_put_ne _ _ _ h
@[simp] theorem Core.setSlot_slot_self (x : Core) (n : Nat) (y : Slot) : (x.setSlot n y).slot n = y := Sparse.get_put_self _ _ _ _
theorem Core.setSlot_slot_ne (x : Core) {n i : Nat} (y : Slot) (h : i ≠ n) : (x.setSlot n y).slot i = x.slot i :=
  Sparse.get_put_ne _ _ _ h
@[simp] theorem Cluster.setBank_bank_self (x : Cluster) (b : Nat) (y : Bank) : (x.setBank b y).bank b = y := Sparse.get_put_self _ _ _ _
theorem Cluster.setBank_bank_ne (x : Cluster) {b i : Nat} (y : Bank) (h : i ≠ b) : (x.setBank b y).bank i = x.bank i :=
  Sparse.get_put_ne _ _ _ h

@[simp] theorem State.setCtx_ctx_self (s : State) (k c : Nat) (y : Ctx) : (s.setCtx k c y).ctx k c = y := by
  simp [State.setCtx, State.ctx]
theorem State.setCtx_ctx_ne (s : State) {k c i j : Nat} (y : Ctx) (h : (i, j) ≠ (k, c)) : (s.setCtx k c y).ctx i j = s.ctx i j := by
  unfold State.setCtx State.ctx
  by_cases hi : i = k
  · subst hi
    have hj : j ≠ c := fun e => h (by rw [e])
    simp [Core.setCtx_ctx_ne _ _ _ hj]
  · rw [State.setCore_core_ne _ _ hi]
@[simp] theorem State.setMe_me (s : State) (y : Ctx) : (s.setMe y).me = y := by simp [State.setMe, State.me]
theorem State.setMe_ctx_ne (s : State) {i j : Nat} (y : Ctx) (h : (i, j) ≠ s.cur) : (s.setMe y).ctx i j = s.ctx i j :=
  State.setCtx_ctx_ne s y h
theorem State.setCtx_core (s : State) (k c i : Nat) (y : Ctx) :
    { (s.setCtx k c y).core i with ctxs := (s.core i).ctxs } = s.core i := by
  unfold State.setCtx
  by_cases hi : i = k
  · subst hi; simp [Core.setCtx]
  · rw [State.setCore_core_ne _ _ hi]
@[simp] theorem State.setCtx_slot (s : State) (k c i n : Nat) (y : Ctx) : (s.setCtx k c y).slot i n = s.slot i n := by
  unfold State.slot Core.slot
  rw [← State.setCtx_core s k c i y]
@[simp] theorem State.setMe_slot (s : State) (i n : Nat) (y : Ctx) : (s.setMe y).slot i n = s.slot i n :=
  State.setCtx_slot s _ _ i n y

@[simp] theorem State.setSlot_slot_self (s : State) (k n : Nat) (y : Slot) : (s.setSlot k n y).slot k n = y := by
  simp [State.setSlot, State.slot]
theorem State.setSlot_slot_ne (s : State) {k n i j : Nat} (y : Slot) (h : (i, j) ≠ (k, n)) : (s.setSlot k n y).slot i j = s.slot i j := by
  unfold State.setSlot State.slot
  by_cases hi : i = k
  · subst hi
    have hj : j ≠ n := fun e => h (by rw [e])
    simp [Core.setSlot_slot_ne _ _ hj]
  · rw [State.setCore_core_ne _ _ hi]

@[simp] theorem State.setBank_bank_self (s : State) (k b : Nat) (y : Bank) : (s.setBank k b y).bank k b = y := by
  simp [State.setBank, State.bank]
theorem State.setBank_bank_ne (s : State) {k b i j : Nat} (y : Bank) (h : (i, j) ≠ (k, b)) : (s.setBank k b y).bank i j = s.bank i j := by
  unfold State.setBank State.bank
  by_cases hi : i = k
  · subst hi
    have hj : j ≠ b := fun e => h (by rw [e])
    simp [Cluster.setBank_bank_ne _ _ hj]
  · rw [State.setCluster_cluster_ne _ _ hi]

/-! ### A context after an update -/

@[simp] theorem Ctx.setA_pc (y : Ctx) (v : Word) : (y.setA v).pc = y.pc := rfl
@[simp] theorem Ctx.setA_p (y : Ctx) (v : Word) : (y.setA v).p = y.p := rfl
@[simp] theorem Ctx.setA_lc0 (y : Ctx) (v : Word) : (y.setA v).lc0 = y.lc0 := rfl
@[simp] theorem Ctx.setA_lc1 (y : Ctx) (v : Word) : (y.setA v).lc1 = y.lc1 := rfl
@[simp] theorem Ctx.setA_st (y : Ctx) (v : Word) : (y.setA v).st = y.st := rfl
@[simp] theorem Ctx.setA_rv (y : Ctx) (v : Word) : (y.setA v).rv = y.rv := rfl
@[simp] theorem Ctx.setA_tpc (y : Ctx) (v : Word) : (y.setA v).tpc = y.tpc := rfl
@[simp] theorem Ctx.setA_tcause (y : Ctx) (v : Word) : (y.setA v).tcause = y.tcause := rfl
@[simp] theorem Ctx.setA_taddr (y : Ctx) (v : Word) : (y.setA v).taddr = y.taddr := rfl
@[simp] theorem Ctx.setA_tval (y : Ctx) (v : Word) : (y.setA v).tval = y.tval := rfl
@[simp] theorem Ctx.setA_oorf (y : Ctx) (v : Word) : (y.setA v).oorf = y.oorf := rfl
@[simp] theorem Ctx.setA_oora (y : Ctx) (v : Word) : (y.setA v).oora = y.oora := rfl
@[simp] theorem Ctx.setA_log (y : Ctx) (v : Word) : (y.setA v).log = y.log := rfl
@[simp] theorem Ctx.setA_causeRead (y : Ctx) (v : Word) : (y.setA v).causeRead = y.causeRead := rfl
@[simp] theorem Ctx.setA_latches (y : Ctx) (v : Word) : (y.setA v).latches = y.latches := rfl
@[simp] theorem Ctx.setA_live (y : Ctx) (v : Word) : (y.setA v).live = y.live := rfl
@[simp] theorem Ctx.setA_hold (y : Ctx) (v : Word) : (y.setA v).hold = y.hold := rfl
@[simp] theorem Ctx.setA_owed (y : Ctx) (v : Word) : (y.setA v).owed = y.owed := rfl
@[simp] theorem Ctx.setA_away (y : Ctx) (v : Word) : (y.setA v).away = y.away := rfl
@[simp] theorem Ctx.setA_guest (y : Ctx) (v : Word) : (y.setA v).guest = y.guest := rfl
@[simp] theorem Ctx.setA_absent (y : Ctx) (v : Word) : (y.setA v).absent = y.absent := rfl
@[simp] theorem Ctx.setA_tlbBad (y : Ctx) (v : Word) : (y.setA v).tlbBad = y.tlbBad := rfl
@[simp] theorem Ctx.setPtr_pc (y : Ctx) (n : PReg) (v : Word) : (y.setPtr n v).pc = y.pc := rfl
@[simp] theorem Ctx.setPtr_a (y : Ctx) (n : PReg) (v : Word) : (y.setPtr n v).a = y.a := rfl
@[simp] theorem Ctx.setPtr_lc0 (y : Ctx) (n : PReg) (v : Word) : (y.setPtr n v).lc0 = y.lc0 := rfl
@[simp] theorem Ctx.setPtr_lc1 (y : Ctx) (n : PReg) (v : Word) : (y.setPtr n v).lc1 = y.lc1 := rfl
@[simp] theorem Ctx.setPtr_st (y : Ctx) (n : PReg) (v : Word) : (y.setPtr n v).st = y.st := rfl
@[simp] theorem Ctx.setPtr_rv (y : Ctx) (n : PReg) (v : Word) : (y.setPtr n v).rv = y.rv := rfl
@[simp] theorem Ctx.setPtr_tpc (y : Ctx) (n : PReg) (v : Word) : (y.setPtr n v).tpc = y.tpc := rfl
@[simp] theorem Ctx.setPtr_tcause (y : Ctx) (n : PReg) (v : Word) : (y.setPtr n v).tcause = y.tcause := rfl
@[simp] theorem Ctx.setPtr_taddr (y : Ctx) (n : PReg) (v : Word) : (y.setPtr n v).taddr = y.taddr := rfl
@[simp] theorem Ctx.setPtr_tval (y : Ctx) (n : PReg) (v : Word) : (y.setPtr n v).tval = y.tval := rfl
@[simp] theorem Ctx.setPtr_oorf (y : Ctx) (n : PReg) (v : Word) : (y.setPtr n v).oorf = y.oorf := rfl
@[simp] theorem Ctx.setPtr_oora (y : Ctx) (n : PReg) (v : Word) : (y.setPtr n v).oora = y.oora := rfl
@[simp] theorem Ctx.setPtr_log (y : Ctx) (n : PReg) (v : Word) : (y.setPtr n v).log = y.log := rfl
@[simp] theorem Ctx.setPtr_causeRead (y : Ctx) (n : PReg) (v : Word) : (y.setPtr n v).causeRead = y.causeRead := rfl
@[simp] theorem Ctx.setPtr_latches (y : Ctx) (n : PReg) (v : Word) : (y.setPtr n v).latches = y.latches := rfl
@[simp] theorem Ctx.setPtr_live (y : Ctx) (n : PReg) (v : Word) : (y.setPtr n v).live = y.live := rfl
@[simp] theorem Ctx.setPtr_hold (y : Ctx) (n : PReg) (v : Word) : (y.setPtr n v).hold = y.hold := rfl
@[simp] theorem Ctx.setPtr_owed (y : Ctx) (n : PReg) (v : Word) : (y.setPtr n v).owed = y.owed := rfl
@[simp] theorem Ctx.setPtr_away (y : Ctx) (n : PReg) (v : Word) : (y.setPtr n v).away = y.away := rfl
@[simp] theorem Ctx.setPtr_guest (y : Ctx) (n : PReg) (v : Word) : (y.setPtr n v).guest = y.guest := rfl
@[simp] theorem Ctx.setPtr_absent (y : Ctx) (n : PReg) (v : Word) : (y.setPtr n v).absent = y.absent := rfl
@[simp] theorem Ctx.setPtr_tlbBad (y : Ctx) (n : PReg) (v : Word) : (y.setPtr n v).tlbBad = y.tlbBad := rfl
@[simp] theorem Ctx.setFlag_pc (y : Ctx) (i : Nat) (b : Bool) : (y.setFlag i b).pc = y.pc := rfl
@[simp] theorem Ctx.setFlag_a (y : Ctx) (i : Nat) (b : Bool) : (y.setFlag i b).a = y.a := rfl
@[simp] theorem Ctx.setFlag_p (y : Ctx) (i : Nat) (b : Bool) : (y.setFlag i b).p = y.p := rfl
@[simp] theorem Ctx.setFlag_lc0 (y : Ctx) (i : Nat) (b : Bool) : (y.setFlag i b).lc0 = y.lc0 := rfl
@[simp] theorem Ctx.setFlag_lc1 (y : Ctx) (i : Nat) (b : Bool) : (y.setFlag i b).lc1 = y.lc1 := rfl
@[simp] theorem Ctx.setFlag_rv (y : Ctx) (i : Nat) (b : Bool) : (y.setFlag i b).rv = y.rv := rfl
@[simp] theorem Ctx.setFlag_tpc (y : Ctx) (i : Nat) (b : Bool) : (y.setFlag i b).tpc = y.tpc := rfl
@[simp] theorem Ctx.setFlag_tcause (y : Ctx) (i : Nat) (b : Bool) : (y.setFlag i b).tcause = y.tcause := rfl
@[simp] theorem Ctx.setFlag_taddr (y : Ctx) (i : Nat) (b : Bool) : (y.setFlag i b).taddr = y.taddr := rfl
@[simp] theorem Ctx.setFlag_tval (y : Ctx) (i : Nat) (b : Bool) : (y.setFlag i b).tval = y.tval := rfl
@[simp] theorem Ctx.setFlag_oorf (y : Ctx) (i : Nat) (b : Bool) : (y.setFlag i b).oorf = y.oorf := rfl
@[simp] theorem Ctx.setFlag_oora (y : Ctx) (i : Nat) (b : Bool) : (y.setFlag i b).oora = y.oora := rfl
@[simp] theorem Ctx.setFlag_log (y : Ctx) (i : Nat) (b : Bool) : (y.setFlag i b).log = y.log := rfl
@[simp] theorem Ctx.setFlag_causeRead (y : Ctx) (i : Nat) (b : Bool) : (y.setFlag i b).causeRead = y.causeRead := rfl
@[simp] theorem Ctx.setFlag_latches (y : Ctx) (i : Nat) (b : Bool) : (y.setFlag i b).latches = y.latches := rfl
@[simp] theorem Ctx.setFlag_live (y : Ctx) (i : Nat) (b : Bool) : (y.setFlag i b).live = y.live := rfl
@[simp] theorem Ctx.setFlag_hold (y : Ctx) (i : Nat) (b : Bool) : (y.setFlag i b).hold = y.hold := rfl
@[simp] theorem Ctx.setFlag_owed (y : Ctx) (i : Nat) (b : Bool) : (y.setFlag i b).owed = y.owed := rfl
@[simp] theorem Ctx.setFlag_away (y : Ctx) (i : Nat) (b : Bool) : (y.setFlag i b).away = y.away := rfl
@[simp] theorem Ctx.setFlag_guest (y : Ctx) (i : Nat) (b : Bool) : (y.setFlag i b).guest = y.guest := rfl
@[simp] theorem Ctx.setFlag_absent (y : Ctx) (i : Nat) (b : Bool) : (y.setFlag i b).absent = y.absent := rfl
@[simp] theorem Ctx.setFlag_tlbBad (y : Ctx) (i : Nat) (b : Bool) : (y.setFlag i b).tlbBad = y.tlbBad := rfl
@[simp] theorem Ctx.advance_a (y : Ctx) : (y.advance).a = y.a := rfl
@[simp] theorem Ctx.advance_p (y : Ctx) : (y.advance).p = y.p := rfl
@[simp] theorem Ctx.advance_lc0 (y : Ctx) : (y.advance).lc0 = y.lc0 := rfl
@[simp] theorem Ctx.advance_lc1 (y : Ctx) : (y.advance).lc1 = y.lc1 := rfl
@[simp] theorem Ctx.advance_st (y : Ctx) : (y.advance).st = y.st := rfl
@[simp] theorem Ctx.advance_rv (y : Ctx) : (y.advance).rv = y.rv := rfl
@[simp] theorem Ctx.advance_tpc (y : Ctx) : (y.advance).tpc = y.tpc := rfl
@[simp] theorem Ctx.advance_tcause (y : Ctx) : (y.advance).tcause = y.tcause := rfl
@[simp] theorem Ctx.advance_taddr (y : Ctx) : (y.advance).taddr = y.taddr := rfl
@[simp] theorem Ctx.advance_tval (y : Ctx) : (y.advance).tval = y.tval := rfl
@[simp] theorem Ctx.advance_oorf (y : Ctx) : (y.advance).oorf = y.oorf := rfl
@[simp] theorem Ctx.advance_oora (y : Ctx) : (y.advance).oora = y.oora := rfl
@[simp] theorem Ctx.advance_log (y : Ctx) : (y.advance).log = y.log := rfl
@[simp] theorem Ctx.advance_causeRead (y : Ctx) : (y.advance).causeRead = y.causeRead := rfl
@[simp] theorem Ctx.advance_latches (y : Ctx) : (y.advance).latches = y.latches := rfl
@[simp] theorem Ctx.advance_live (y : Ctx) : (y.advance).live = y.live := rfl
@[simp] theorem Ctx.advance_owed (y : Ctx) : (y.advance).owed = y.owed := rfl
@[simp] theorem Ctx.advance_away (y : Ctx) : (y.advance).away = y.away := rfl
@[simp] theorem Ctx.advance_guest (y : Ctx) : (y.advance).guest = y.guest := rfl
@[simp] theorem Ctx.advance_absent (y : Ctx) : (y.advance).absent = y.absent := rfl
@[simp] theorem Ctx.advance_tlbBad (y : Ctx) : (y.advance).tlbBad = y.tlbBad := rfl
@[simp] theorem Ctx.goto_a (y : Ctx) (t : Addr) : (y.goto t).a = y.a := rfl
@[simp] theorem Ctx.goto_p (y : Ctx) (t : Addr) : (y.goto t).p = y.p := rfl
@[simp] theorem Ctx.goto_lc0 (y : Ctx) (t : Addr) : (y.goto t).lc0 = y.lc0 := rfl
@[simp] theorem Ctx.goto_lc1 (y : Ctx) (t : Addr) : (y.goto t).lc1 = y.lc1 := rfl
@[simp] theorem Ctx.goto_st (y : Ctx) (t : Addr) : (y.goto t).st = y.st := rfl
@[simp] theorem Ctx.goto_rv (y : Ctx) (t : Addr) : (y.goto t).rv = y.rv := rfl
@[simp] theorem Ctx.goto_tpc (y : Ctx) (t : Addr) : (y.goto t).tpc = y.tpc := rfl
@[simp] theorem Ctx.goto_tcause (y : Ctx) (t : Addr) : (y.goto t).tcause = y.tcause := rfl
@[simp] theorem Ctx.goto_taddr (y : Ctx) (t : Addr) : (y.goto t).taddr = y.taddr := rfl
@[simp] theorem Ctx.goto_tval (y : Ctx) (t : Addr) : (y.goto t).tval = y.tval := rfl
@[simp] theorem Ctx.goto_oorf (y : Ctx) (t : Addr) : (y.goto t).oorf = y.oorf := rfl
@[simp] theorem Ctx.goto_oora (y : Ctx) (t : Addr) : (y.goto t).oora = y.oora := rfl
@[simp] theorem Ctx.goto_log (y : Ctx) (t : Addr) : (y.goto t).log = y.log := rfl
@[simp] theorem Ctx.goto_causeRead (y : Ctx) (t : Addr) : (y.goto t).causeRead = y.causeRead := rfl
@[simp] theorem Ctx.goto_latches (y : Ctx) (t : Addr) : (y.goto t).latches = y.latches := rfl
@[simp] theorem Ctx.goto_live (y : Ctx) (t : Addr) : (y.goto t).live = y.live := rfl
@[simp] theorem Ctx.goto_owed (y : Ctx) (t : Addr) : (y.goto t).owed = y.owed := rfl
@[simp] theorem Ctx.goto_away (y : Ctx) (t : Addr) : (y.goto t).away = y.away := rfl
@[simp] theorem Ctx.goto_guest (y : Ctx) (t : Addr) : (y.goto t).guest = y.guest := rfl
@[simp] theorem Ctx.goto_absent (y : Ctx) (t : Addr) : (y.goto t).absent = y.absent := rfl
@[simp] theorem Ctx.goto_tlbBad (y : Ctx) (t : Addr) : (y.goto t).tlbBad = y.tlbBad := rfl

@[simp] theorem Ctx.setA_a_self (y : Ctx) (v : Word) : (y.setA v).a = v := rfl
@[simp] theorem Ctx.advance_pc_self (y : Ctx) : y.advance.pc = y.pc + 4 := rfl
@[simp] theorem Ctx.advance_hold_self (y : Ctx) : y.advance.hold = none := rfl
@[simp] theorem Ctx.goto_pc_self (y : Ctx) (t : Addr) : (y.goto t).pc = t := rfl
@[simp] theorem Ctx.setPtr_ptr_self (y : Ctx) (n : PReg) (v : Word) : (y.setPtr n v).ptr n = v :=
  Vector.getElem_set_self (xs := y.p) n.isLt
theorem Ctx.setPtr_ptr_ne (y : Ctx) {n m : PReg} (v : Word) (h : m ≠ n) : (y.setPtr n v).ptr m = y.ptr m := by
  have h2 : n.toNat ≠ m.toNat := fun e => h (BitVec.eq_of_toNat_eq e.symm)
  exact Vector.getElem_set_ne (xs := y.p) n.isLt m.isLt h2

/-! ### What holds of the executing context alone -/

/-- A replacement of the executing context changes nothing else. -/
theorem State.setMe_leaves (s : State) (y : Ctx) :
    { s.setMe y with cores := s.cores } = s ∧ (∀ k, { (s.setMe y).core k with ctxs := (s.core k).ctxs } = s.core k) ∧
      ∀ k c, (k, c) ≠ s.cur → (s.setMe y).ctx k c = s.ctx k c :=
  ⟨rfl, fun k => State.setCtx_core s s.k s.c k y, fun _ _ h => State.setMe_ctx_ne s y h⟩

end Sys2Proof.Machine
end

