-- ==== Sys2Proof/Laws/Ops.lean ====
section
/-! SUPPORT. Laws of the shared operations: what `run` and `finish` answer, what an access of L space can do, and what
taking a trap leaves alone. -/

namespace Sys2Proof.Machine

/-! ### The outcome of an instruction -/

/-- What `finish` answers: the state done, the trap taken, or the context held. -/
theorem finish_cases (i : Instr) (a : Act) :
    (∃ s, a = .done s ∧ finish i a = .next s) ∨ (∃ r s, a = .trap r s ∧ finish i a = .next (s.takeTrap s.k s.c r)) ∨
    ∃ p s n, a = .wait p s ∧ finish i a = .next (s.setMe { s.me with hold := some { instr := i, since := n, phase := p } }) := by
  cases a with
  | done s => exact .inl ⟨s, rfl, rfl⟩
  | trap r s => exact .inr (.inl ⟨r, s, rfl, rfl⟩)
  | wait p s => exact .inr (.inr ⟨p, s, _, rfl, rfl⟩)

theorem finish_next (i : Instr) (a : Act) : ∃ t, finish i a = .next t := by
  obtain ⟨_, _, h⟩ | ⟨_, _, _, h⟩ | ⟨_, _, _, _, h⟩ := finish_cases i a <;> exact ⟨_, h⟩

theorem run_next (i : Instr) (m : Adm) (a : Word) (s : State) (body : State → Act) : ∃ t, run i m a s body = .next t := by
  unfold run; split
  · exact finish_next _ _
  · split <;> exact finish_next _ _

/-- An instruction that issues for the first time where it may execute does what its body says. -/
theorem run_issues (i : Instr) (m : Adm) (a : Word) (s : State) (body : State → Act) (h : s.issues m) :
    run i m a s body = finish i (body s) := by
  unfold run; rw [h.1, h.2]

/-- An instruction that may not execute where it stands takes its fault. -/
theorem run_not_admitted (i : Instr) (m : Adm) (a : Word) (s : State) (body : State → Act) (c : Byte) (h : s.bars m = some c) :
    run i m a s body = .next (s.takeTrap s.k s.c { tpc := s.me.pc, cause := c, addr := a, val := wordOf i }) := by
  unfold run; rw [h]; rfl

@[simp] theorem finish_retire (i : Instr) (s : State) (y : Ctx) : finish i (s.retire y) = .next (s.setMe y.advance) := rfl
@[simp] theorem finish_done (i : Instr) (s : State) : finish i (.done s) = .next s := rfl
@[simp] theorem Got.elim_ok {α : Type} (x : α) (s : State) (i : Instr) (ea : Word) (body : α → Act) :
    (Got.ok x).elim s i ea body = body x := rfl
@[simp] theorem Got.elim_bad {α : Type} (c : Byte) (a : Addr) (s : State) (i : Instr) (ea : Word) (body : α → Act) :
    (Got.bad c a : Got α).elim s i ea body = s.fault i c (a.setWidth 64) := rfl

/-! ### L space -/

theorem State.lRead_out (s : State) (k : Nat) (f : Bool) (ea : Addr) (z : Nat) (h : outOfRange ea = true) :
    s.lRead k f ea z = .ok 0 := by simp [State.lRead, h]

theorem State.lWrite_out (s : State) (k : Nat) (f : Bool) (ea : Addr) (z : Nat) (v : Word) (h : outOfRange ea = true) :
    s.lWrite k f ea z v = .ok s := by simp [State.lWrite, h]

theorem State.lBank_attached (s : State) (k : Nat) (f : Bool) (ea : Addr) (h : (s.slot k (slotOfAddr ea)).state = .attached) :
    s.lBank k f ea = .ok (s.slot k (slotOfAddr ea)).bank := by simp [State.lBank, h]

/-- A read that reaches an unpoisoned granule gives its bytes. -/
theorem State.lRead_reaches (s : State) (f : Bool) (ea : Addr) (b z : Nat) (h : s.reachesL ea b) :
    s.lRead s.k f ea z = .ok (granuleRead ((s.bank (clusOf s.k) b).granule (granuleOf ea)) (byteInGranule ea) z) := by
  obtain ⟨ho, ha, rfl, hp⟩ := h
  simp [State.lRead, ho, State.lBank_attached _ _ _ _ ha, hp]

/-- A write that reaches an unpoisoned granule replaces its bytes. -/
theorem State.lWrite_reaches (s : State) (f : Bool) (ea : Addr) (b z : Nat) (v : Word) (h : s.reachesL ea b) :
    s.lWrite s.k f ea z v = .ok (s.setBank (clusOf s.k) b ((s.bank (clusOf s.k) b).setGranule (granuleOf ea)
      (granuleWrite ((s.bank (clusOf s.k) b).granule (granuleOf ea)) (byteInGranule ea) z v))) := by
  obtain ⟨ho, ha, rfl, hp⟩ := h
  simp [State.lWrite, ho, State.lBank_attached _ _ _ _ ha, hp]

/-- A write of L space that is performed leaves the state as it was, or changes one bank. -/
theorem State.lWrite_ok (s t : State) (k : Nat) (f : Bool) (ea : Addr) (z : Nat) (v : Word) (h : s.lWrite k f ea z v = .ok t) :
    t = s ∨ ∃ b x, t = s.setBank (clusOf k) b x := by
  unfold State.lWrite at h
  split at h
  · cases h; exact .inl rfl
  · split at h
    · simp only at h; split at h
      · cases h
      · cases h; exact .inr ⟨_, _, rfl⟩
    · cases h
    · cases h

/-- A C access that reaches a bank whose granule is not poisoned gives its bytes. -/
theorem State.cRead_reaches (s : State) (ea : Addr) (b z : Nat) (h : s.reachesC ea b) :
    s.cRead s.k (s.vdevOf s.k s.c) ea z =
      .ok (granuleRead ((s.bank (clusOf s.k) b).granule (granuleOf ea)) (byteInGranule ea) z) := by
  obtain ⟨hb, hp⟩ := h
  simp [State.cRead, hb, hp]

/-! ### Traps -/

theorem State.lWrite_mem (s t : State) (k : Nat) (f : Bool) (ea : Addr) (z : Nat) (v : Word) (h : s.lWrite k f ea z v = .ok t) :
    t.mem = s.mem := by
  obtain rfl | ⟨b, x, rfl⟩ := State.lWrite_ok s t k f ea z v h <;> rfl

theorem State.frameWrites_mem (l : List (Nat × Word)) (s : State) (k : Nat) : (s.frameWrites k l).1.mem = s.mem := by
  induction l generalizing s with
  | nil => rfl
  | cons e l ih =>
    obtain ⟨ea, v⟩ := e
    unfold State.frameWrites
    split
    · rename_i s1 h1
      rw [ih s1, State.lWrite_mem _ _ _ _ _ _ _ h1]
    · rfl
    · rfl

theorem State.double_mem (s : State) (k c : Nat) (f : Byte) (p : Addr) (a v : Word) : (s.double k c f p a v).mem = s.mem := rfl

theorem State.spoilLatched_mem (s : State) (k : Nat) : (s.spoilLatched k).mem = s.mem := by
  unfold State.spoilLatched; split <;> rfl

theorem State.foldl_mem {α : Type} (f : State → α → State) (hf : ∀ s x, (f s x).mem = s.mem) (l : List α) (s : State) :
    (l.foldl f s).mem = s.mem := by
  induction l generalizing s with
  | nil => rfl
  | cons x l ih => rw [List.foldl_cons, ih, hf]

theorem State.flowFault_mem (s : State) (k : Nat) (c : Byte) : (s.flowFault k c).mem = s.mem := by
  unfold State.flowFault; simp only; split
  · rw [State.foldl_mem _ fun s m => State.spoilLatched_mem s m]; rfl
  · rfl

theorem State.bringHome_mem (s : State) (k c : Nat) : (s.bringHome k c).1.mem = s.mem := by
  unfold State.bringHome; split <;> rfl

/-- Taking a trap leaves G memory alone (11 R208). -/
theorem State.takeTrap_mem (s : State) (k c : Nat) (r : Rec) : (s.takeTrap k c r).mem = s.mem := by
  have h0 : (if ((s.bringHome k c).1.ctx (s.bringHome k c).2.1 (s.bringHome k c).2.2).flag stFLW
      then (s.bringHome k c).1.flowFault (s.bringHome k c).2.1 r.cause else (s.bringHome k c).1).mem = s.mem := by
    split
    · rw [State.flowFault_mem, State.bringHome_mem]
    · exact State.bringHome_mem s k c
  unfold State.takeTrap
  simp only []
  generalize (if ((s.bringHome k c).1.ctx (s.bringHome k c).2.1 (s.bringHome k c).2.2).flag stFLW
      then (s.bringHome k c).1.flowFault (s.bringHome k c).2.1 r.cause else (s.bringHome k c).1) = s0 at h0 ⊢
  split
  · exact h0
  · split
    · exact h0
    · split <;>
        (rename_i h
         have e := congrArg (fun x : State × Option (Addr × Byte) => x.1.mem) h
         simp only [State.frameWrites_mem, State.setCtx_mem] at e
         exact e.symm.trans h0)

/-- An instruction that traps or is held leaves G memory alone. -/
theorem finish_mem (i : Instr) (a : Act) (m : List Host.Cell) (h : ∀ s, (∃ p, a = .wait p s) ∨ (∃ r, a = .trap r s) ∨ a = .done s → s.mem = m)
    (t : State) (ht : finish i a = .next t) : t.mem = m := by
  cases a with
  | done s => have e := h s (.inr (.inr rfl)); cases ht; exact e
  | trap r s => have e := h s (.inr (.inl ⟨r, rfl⟩)); cases ht; rw [State.takeTrap_mem]; exact e
  | wait p s => have e := h s (.inl ⟨p, rfl⟩); cases ht; exact e

end Sys2Proof.Machine
end

