-- ==== Sys2Proof/Laws/PerInstr.lean ====
section
/-! SUPPORT. Statements made per instruction. `Coded`: the word that an instruction encodes to has an assigned major
opcode (02 R38); an event of the table has no word at all. -/

namespace Sys2Proof.Laws

/-- The field of the major opcode. -/
def majorOf (w : W32) : BitVec 6 := bits w 26 6

@[simp] theorem majorOf_packI (j f : BitVec 6) (i : BitVec 20) : majorOf (packI j f i) = j := by
  unfold majorOf packI; ext n hn; simp [BitVec.getElem_append, hn]; grind
@[simp] theorem majorOf_packL (j : BitVec 6) (p m : BitVec 3) (z : BitVec 2) (sx : BitVec 1) (o : BitVec 2) (d : BitVec 15) :
    majorOf (packL j p m z sx o d) = j := by
  unfold majorOf packL; ext n hn; simp [BitVec.getElem_append, hn]; grind
@[simp] theorem majorOf_packA (j : BitVec 6) (p m : BitVec 3) (z : BitVec 2) (f : BitVec 6) (d : BitVec 12) :
    majorOf (packA j p m z f d) = j := by
  unfold majorOf packA; ext n hn; simp [BitVec.getElem_append, hn]; grind
@[simp] theorem majorOf_packB (j : BitVec 6) (c : BitVec 4) (o : BitVec 22) : majorOf (packB j c o) = j := by
  unfold majorOf packB; ext n hn; simp [BitVec.getElem_append, hn]; grind
@[simp] theorem majorOf_packP (j : BitVec 6) (n m : BitVec 3) (f : BitVec 4) (i : BitVec 16) : majorOf (packP j n m f i) = j := by
  unfold majorOf packP; ext n hn; simp [BitVec.getElem_append, hn]; grind
@[simp] theorem majorOf_packE (j : BitVec 6) (a b : BitVec 3) (f : BitVec 6) (o : BitVec 14) : majorOf (packE j a b f o) = j := by
  unfold majorOf packE; ext n hn; simp [BitVec.getElem_append, hn]; grind
@[simp] theorem majorOf_packK (j f : BitVec 6) (s : BitVec 4) (i : BitVec 16) : majorOf (packK j f s i) = j := by
  unfold majorOf packK; ext n hn; simp [BitVec.getElem_append, hn]; grind
@[simp] theorem majorOf_packF (f : BitVec 4) (d p : BitVec 3) (s : BitVec 16) : majorOf (packF f d p s) = 0x19 := by
  unfold majorOf packF; ext n hn; simp [BitVec.getElem_append, hn]; grind

theorem majorOf_flow (h : BitVec 10) (g : BitVec 8) (n : BitVec 14) : majorOf (h ++ g ++ n : BitVec 32) = h.extractLsb' 4 6 := by
  unfold majorOf; ext j hj; simp [BitVec.getElem_append, hj]; grind

/-- The word that an instruction encodes to has an assigned major opcode (02 R38). -/
def Coded.Statement (i : Instr) : Prop := ∀ w, encode i = some w → (majorOf w).toNat ≤ 0x1D

theorem Coded.nop : Coded.Statement (.nop) := by
  rintro w ⟨⟩; simp
theorem Coded.trap (n : BitVec 20) : Coded.Statement (.trap n) := by
  rintro w ⟨⟩; simp
theorem Coded.eret : Coded.Statement (.eret) := by
  rintro w ⟨⟩; simp
theorem Coded.csrr (c : Csr) : Coded.Statement (.csrr c) := by
  rintro w ⟨⟩; simp
theorem Coded.csrw (c : Csr) : Coded.Statement (.csrw c) := by
  rintro w ⟨⟩; simp
theorem Coded.csrs (c : Csr) : Coded.Statement (.csrs c) := by
  rintro w ⟨⟩; simp
theorem Coded.csrc (c : Csr) : Coded.Statement (.csrc c) := by
  rintro w ⟨⟩; simp
theorem Coded.waite (m : BitVec 4) : Coded.Statement (.waite m) := by
  rintro w ⟨⟩; simp
theorem Coded.halt (r : Bool) (c : BitVec 6) : Coded.Statement (.halt r c) := by
  rintro w ⟨⟩; simp
theorem Coded.icinv (s : ICScope) : Coded.Statement (.icinv s) := by
  rintro w ⟨⟩; simp
theorem Coded.tlbw (cl : Bool) (c : BitVec 6) : Coded.Statement (.tlbw cl c) := by
  rintro w ⟨⟩; simp
theorem Coded.tlbinv (a : Bool) (c : BitVec 6) (s : TlbScope) : Coded.Statement (.tlbinv a c s) := by
  rintro w ⟨⟩; simp
theorem Coded.revoke (c : BitVec 6) : Coded.Statement (.revoke c) := by
  rintro w ⟨⟩; simp
theorem Coded.ctxsv (c : BitVec 6) : Coded.Statement (.ctxsv c) := by
  rintro w ⟨⟩; simp
theorem Coded.ctxld (c : BitVec 6) : Coded.Statement (.ctxld c) := by
  rintro w ⟨⟩; simp
theorem Coded.gstop (c : BitVec 6) (r : Bool) : Coded.Statement (.gstop c r) := by
  rintro w ⟨⟩; simp
theorem Coded.dbrk (n : BitVec 20) : Coded.Statement (.dbrk n) := by
  rintro w ⟨⟩; simp
theorem Coded.rdtime : Coded.Statement (.rdtime) := by
  rintro w ⟨⟩; simp
theorem Coded.rdcyc : Coded.Statement (.rdcyc) := by
  rintro w ⟨⟩; simp
theorem Coded.reissue (k : BitVec 3) : Coded.Statement (.reissue k) := by
  rintro w ⟨⟩; simp
theorem Coded.oorclr : Coded.Statement (.oorclr) := by
  rintro w ⟨⟩; simp
theorem Coded.movrv : Coded.Statement (.movrv) := by
  rintro w ⟨⟩; simp
theorem Coded.ldl (z : Size) (sx : Bool) (m : MemOp 15) : Coded.Statement (.ldl z sx m) := by
  rintro w ⟨⟩; simp
theorem Coded.ldc (z : Size) (sx : Bool) (m : MemOp 15) : Coded.Statement (.ldc z sx m) := by
  rintro w ⟨⟩; simp
theorem Coded.ldg (z : Size) (sx : Bool) (m : MemOp 15) : Coded.Statement (.ldg z sx m) := by
  rintro w ⟨⟩; simp
theorem Coded.ldgOrdered (z : Size) (sx : Bool) (o : Order) (s : Scope) (m : MemOp 13) : Coded.Statement (.ldgOrdered z sx o s m) := by
  rintro w ⟨⟩; simp
theorem Coded.ldw (z : Size) (sx : Bool) (m : MemOp 15) : Coded.Statement (.ldw z sx m) := by
  rintro w ⟨⟩; simp
theorem Coded.ldwOrdered (z : Size) (sx : Bool) (o : Order) (m : MemOp 13) : Coded.Statement (.ldwOrdered z sx o m) := by
  rintro w ⟨⟩; simp
theorem Coded.stl (z : Size) (m : MemOp 15) : Coded.Statement (.stl z m) := by
  rintro w ⟨⟩; simp
theorem Coded.stc (z : Size) (m : MemOp 15) : Coded.Statement (.stc z m) := by
  rintro w ⟨⟩; simp
theorem Coded.stg (z : Size) (m : MemOp 15) : Coded.Statement (.stg z m) := by
  rintro w ⟨⟩; simp
theorem Coded.stgOrdered (z : Size) (o : Order) (s : Scope) (m : MemOp 13) : Coded.Statement (.stgOrdered z o s m) := by
  rintro w ⟨⟩; simp
theorem Coded.stw (z : Size) (m : MemOp 15) : Coded.Statement (.stw z m) := by
  rintro w ⟨⟩; simp
theorem Coded.stwOrdered (z : Size) (o : Order) (m : MemOp 13) : Coded.Statement (.stwOrdered z o m) := by
  rintro w ⟨⟩; simp
theorem Coded.ldlf (z : Size) (m : MemOp 12) : Coded.Statement (.ldlf z m) := by
  rintro w ⟨⟩; simp
theorem Coded.ldlfC (z : Size) (m : MemOp 12) : Coded.Statement (.ldlfC z m) := by
  rintro w ⟨⟩; simp
theorem Coded.ldcf (z : Size) (m : MemOp 12) : Coded.Statement (.ldcf z m) := by
  rintro w ⟨⟩; simp
theorem Coded.ldcfC (z : Size) (m : MemOp 12) : Coded.Statement (.ldcfC z m) := by
  rintro w ⟨⟩; simp
theorem Coded.stlf (z : Size) (m : MemOp 12) : Coded.Statement (.stlf z m) := by
  rintro w ⟨⟩; simp
theorem Coded.stcf (z : Size) (m : MemOp 12) : Coded.Statement (.stcf z m) := by
  rintro w ⟨⟩; simp
theorem Coded.feset (m : MemOp 12) : Coded.Statement (.feset m) := by
  rintro w ⟨⟩; simp
theorem Coded.feclr (m : MemOp 12) : Coded.Statement (.feclr m) := by
  rintro w ⟨⟩; simp
theorem Coded.fetst (m : MemOp 12) : Coded.Statement (.fetst m) := by
  rintro w ⟨⟩; simp
theorem Coded.amogAdd (d64 : Bool) (o : Order) (s : Scope) (m : MemOp 8) : Coded.Statement (.amogAdd d64 o s m) := by
  rintro w ⟨⟩; simp
theorem Coded.amogAnd (d64 : Bool) (o : Order) (s : Scope) (m : MemOp 8) : Coded.Statement (.amogAnd d64 o s m) := by
  rintro w ⟨⟩; simp
theorem Coded.amogOr (d64 : Bool) (o : Order) (s : Scope) (m : MemOp 8) : Coded.Statement (.amogOr d64 o s m) := by
  rintro w ⟨⟩; simp
theorem Coded.amogXor (d64 : Bool) (o : Order) (s : Scope) (m : MemOp 8) : Coded.Statement (.amogXor d64 o s m) := by
  rintro w ⟨⟩; simp
theorem Coded.amogMin (d64 : Bool) (o : Order) (s : Scope) (m : MemOp 8) : Coded.Statement (.amogMin d64 o s m) := by
  rintro w ⟨⟩; simp
theorem Coded.amogMax (d64 : Bool) (o : Order) (s : Scope) (m : MemOp 8) : Coded.Statement (.amogMax d64 o s m) := by
  rintro w ⟨⟩; simp
theorem Coded.amogMinu (d64 : Bool) (o : Order) (s : Scope) (m : MemOp 8) : Coded.Statement (.amogMinu d64 o s m) := by
  rintro w ⟨⟩; simp
theorem Coded.amogMaxu (d64 : Bool) (o : Order) (s : Scope) (m : MemOp 8) : Coded.Statement (.amogMaxu d64 o s m) := by
  rintro w ⟨⟩; simp
theorem Coded.amogSwap (d64 : Bool) (o : Order) (s : Scope) (m : MemOp 8) : Coded.Statement (.amogSwap d64 o s m) := by
  rintro w ⟨⟩; simp
theorem Coded.amogCas (d64 : Bool) (o : Order) (s : Scope) (m : MemOp 8) : Coded.Statement (.amogCas d64 o s m) := by
  rintro w ⟨⟩; simp
theorem Coded.amocAdd (d64 : Bool) (m : MemOp 8) : Coded.Statement (.amocAdd d64 m) := by
  rintro w ⟨⟩; simp
theorem Coded.amocAnd (d64 : Bool) (m : MemOp 8) : Coded.Statement (.amocAnd d64 m) := by
  rintro w ⟨⟩; simp
theorem Coded.amocOr (d64 : Bool) (m : MemOp 8) : Coded.Statement (.amocOr d64 m) := by
  rintro w ⟨⟩; simp
theorem Coded.amocSwap (d64 : Bool) (m : MemOp 8) : Coded.Statement (.amocSwap d64 m) := by
  rintro w ⟨⟩; simp
theorem Coded.amocCas (d64 : Bool) (m : MemOp 8) : Coded.Statement (.amocCas d64 m) := by
  rintro w ⟨⟩; simp
theorem Coded.add (z : Size) (m : MemOp 12) : Coded.Statement (.add z m) := by
  rintro w ⟨⟩; simp
theorem Coded.adc (z : Size) (m : MemOp 12) : Coded.Statement (.adc z m) := by
  rintro w ⟨⟩; simp
theorem Coded.sub (z : Size) (m : MemOp 12) : Coded.Statement (.sub z m) := by
  rintro w ⟨⟩; simp
theorem Coded.sbc (z : Size) (m : MemOp 12) : Coded.Statement (.sbc z m) := by
  rintro w ⟨⟩; simp
theorem Coded.rsb (z : Size) (m : MemOp 12) : Coded.Statement (.rsb z m) := by
  rintro w ⟨⟩; simp
theorem Coded.adds (z : Size) (m : MemOp 12) : Coded.Statement (.adds z m) := by
  rintro w ⟨⟩; simp
theorem Coded.addsu (z : Size) (m : MemOp 12) : Coded.Statement (.addsu z m) := by
  rintro w ⟨⟩; simp
theorem Coded.subs (z : Size) (m : MemOp 12) : Coded.Statement (.subs z m) := by
  rintro w ⟨⟩; simp
theorem Coded.subsu (z : Size) (m : MemOp 12) : Coded.Statement (.subsu z m) := by
  rintro w ⟨⟩; simp
theorem Coded.mul (z : Size) (m : MemOp 12) : Coded.Statement (.mul z m) := by
  rintro w ⟨⟩; simp
theorem Coded.mulh (z : Size) (m : MemOp 12) : Coded.Statement (.mulh z m) := by
  rintro w ⟨⟩; simp
theorem Coded.mulhu (z : Size) (m : MemOp 12) : Coded.Statement (.mulhu z m) := by
  rintro w ⟨⟩; simp
theorem Coded.div (z : Size) (m : MemOp 12) : Coded.Statement (.div z m) := by
  rintro w ⟨⟩; simp
theorem Coded.divu (z : Size) (m : MemOp 12) : Coded.Statement (.divu z m) := by
  rintro w ⟨⟩; simp
theorem Coded.rem (z : Size) (m : MemOp 12) : Coded.Statement (.rem z m) := by
  rintro w ⟨⟩; simp
theorem Coded.remu (z : Size) (m : MemOp 12) : Coded.Statement (.remu z m) := by
  rintro w ⟨⟩; simp
theorem Coded.and (z : Size) (m : MemOp 12) : Coded.Statement (.and z m) := by
  rintro w ⟨⟩; simp
theorem Coded.or (z : Size) (m : MemOp 12) : Coded.Statement (.or z m) := by
  rintro w ⟨⟩; simp
theorem Coded.xor (z : Size) (m : MemOp 12) : Coded.Statement (.xor z m) := by
  rintro w ⟨⟩; simp
theorem Coded.andn (z : Size) (m : MemOp 12) : Coded.Statement (.andn z m) := by
  rintro w ⟨⟩; simp
theorem Coded.shl (z : Size) (m : MemOp 12) : Coded.Statement (.shl z m) := by
  rintro w ⟨⟩; simp
theorem Coded.shr (z : Size) (m : MemOp 12) : Coded.Statement (.shr z m) := by
  rintro w ⟨⟩; simp
theorem Coded.sar (z : Size) (m : MemOp 12) : Coded.Statement (.sar z m) := by
  rintro w ⟨⟩; simp
theorem Coded.rol (z : Size) (m : MemOp 12) : Coded.Statement (.rol z m) := by
  rintro w ⟨⟩; simp
theorem Coded.ror (z : Size) (m : MemOp 12) : Coded.Statement (.ror z m) := by
  rintro w ⟨⟩; simp
theorem Coded.min (z : Size) (m : MemOp 12) : Coded.Statement (.min z m) := by
  rintro w ⟨⟩; simp
theorem Coded.max (z : Size) (m : MemOp 12) : Coded.Statement (.max z m) := by
  rintro w ⟨⟩; simp
theorem Coded.minu (z : Size) (m : MemOp 12) : Coded.Statement (.minu z m) := by
  rintro w ⟨⟩; simp
theorem Coded.maxu (z : Size) (m : MemOp 12) : Coded.Statement (.maxu z m) := by
  rintro w ⟨⟩; simp
theorem Coded.cmp (z : Size) (m : MemOp 12) : Coded.Statement (.cmp z m) := by
  rintro w ⟨⟩; simp
theorem Coded.tst (z : Size) (m : MemOp 12) : Coded.Statement (.tst z m) := by
  rintro w ⟨⟩; simp
theorem Coded.addi (i : BitVec 20) : Coded.Statement (.addi i) := by
  rintro w ⟨⟩; simp
theorem Coded.addsi (i : BitVec 20) : Coded.Statement (.addsi i) := by
  rintro w ⟨⟩; simp
theorem Coded.rsbi (i : BitVec 20) : Coded.Statement (.rsbi i) := by
  rintro w ⟨⟩; simp
theorem Coded.muli (i : BitVec 20) : Coded.Statement (.muli i) := by
  rintro w ⟨⟩; simp
theorem Coded.andi (i : BitVec 20) : Coded.Statement (.andi i) := by
  rintro w ⟨⟩; simp
theorem Coded.ori (i : BitVec 20) : Coded.Statement (.ori i) := by
  rintro w ⟨⟩; simp
theorem Coded.xori (i : BitVec 20) : Coded.Statement (.xori i) := by
  rintro w ⟨⟩; simp
theorem Coded.shli (k : BitVec 6) : Coded.Statement (.shli k) := by
  rintro w ⟨⟩; simp
theorem Coded.shri (k : BitVec 6) : Coded.Statement (.shri k) := by
  rintro w ⟨⟩; simp
theorem Coded.sari (k : BitVec 6) : Coded.Statement (.sari k) := by
  rintro w ⟨⟩; simp
theorem Coded.rori (k : BitVec 6) : Coded.Statement (.rori k) := by
  rintro w ⟨⟩; simp
theorem Coded.cmpi (i : BitVec 20) : Coded.Statement (.cmpi i) := by
  rintro w ⟨⟩; simp
theorem Coded.tsti (i : BitVec 20) : Coded.Statement (.tsti i) := by
  rintro w ⟨⟩; simp
theorem Coded.fadd (m : MemOp 12) : Coded.Statement (.fadd m) := by
  rintro w ⟨⟩; simp
theorem Coded.fsub (m : MemOp 12) : Coded.Statement (.fsub m) := by
  rintro w ⟨⟩; simp
theorem Coded.frsub (m : MemOp 12) : Coded.Statement (.frsub m) := by
  rintro w ⟨⟩; simp
theorem Coded.fmul (m : MemOp 12) : Coded.Statement (.fmul m) := by
  rintro w ⟨⟩; simp
theorem Coded.fdiv (m : MemOp 12) : Coded.Statement (.fdiv m) := by
  rintro w ⟨⟩; simp
theorem Coded.fmin (m : MemOp 12) : Coded.Statement (.fmin m) := by
  rintro w ⟨⟩; simp
theorem Coded.fmax (m : MemOp 12) : Coded.Statement (.fmax m) := by
  rintro w ⟨⟩; simp
theorem Coded.fcmp (m : MemOp 12) : Coded.Statement (.fcmp m) := by
  rintro w ⟨⟩; simp
theorem Coded.fsqrt (m : MemOp 12) : Coded.Statement (.fsqrt m) := by
  rintro w ⟨⟩; simp
theorem Coded.fcvtbf (m : MemOp 12) : Coded.Statement (.fcvtbf m) := by
  rintro w ⟨⟩; simp
theorem Coded.fcvthf (m : MemOp 12) : Coded.Statement (.fcvthf m) := by
  rintro w ⟨⟩; simp
theorem Coded.frndbf (m : MemOp 12) : Coded.Statement (.frndbf m) := by
  rintro w ⟨⟩; simp
theorem Coded.frndhf (m : MemOp 12) : Coded.Statement (.frndhf m) := by
  rintro w ⟨⟩; simp
theorem Coded.fcvti (m : MemOp 12) : Coded.Statement (.fcvti m) := by
  rintro w ⟨⟩; simp
theorem Coded.fcvtf (m : MemOp 12) : Coded.Statement (.fcvtf m) := by
  rintro w ⟨⟩; simp
theorem Coded.fcvtuf (m : MemOp 12) : Coded.Statement (.fcvtuf m) := by
  rintro w ⟨⟩; simp
theorem Coded.not : Coded.Statement (.not) := by
  rintro w ⟨⟩; simp
theorem Coded.neg : Coded.Statement (.neg) := by
  rintro w ⟨⟩; simp
theorem Coded.abs : Coded.Statement (.abs) := by
  rintro w ⟨⟩; simp
theorem Coded.negs : Coded.Statement (.negs) := by
  rintro w ⟨⟩; simp
theorem Coded.abss : Coded.Statement (.abss) := by
  rintro w ⟨⟩; simp
theorem Coded.clz : Coded.Statement (.clz) := by
  rintro w ⟨⟩; simp
theorem Coded.ctz : Coded.Statement (.ctz) := by
  rintro w ⟨⟩; simp
theorem Coded.popc : Coded.Statement (.popc) := by
  rintro w ⟨⟩; simp
theorem Coded.bswap : Coded.Statement (.bswap) := by
  rintro w ⟨⟩; simp
theorem Coded.sextb : Coded.Statement (.sextb) := by
  rintro w ⟨⟩; simp
theorem Coded.sexth : Coded.Statement (.sexth) := by
  rintro w ⟨⟩; simp
theorem Coded.sextw : Coded.Statement (.sextw) := by
  rintro w ⟨⟩; simp
theorem Coded.zextb : Coded.Statement (.zextb) := by
  rintro w ⟨⟩; simp
theorem Coded.zexth : Coded.Statement (.zexth) := by
  rintro w ⟨⟩; simp
theorem Coded.zextw : Coded.Statement (.zextw) := by
  rintro w ⟨⟩; simp
theorem Coded.pmov (n m : PReg) : Coded.Statement (.pmov n m) := by
  rintro w ⟨⟩; simp
theorem Coded.paddi (n m : PReg) (i : BitVec 16) : Coded.Statement (.paddi n m i) := by
  rintro w ⟨⟩; simp
theorem Coded.padda (n m : PReg) : Coded.Statement (.padda n m) := by
  rintro w ⟨⟩; simp
theorem Coded.pstr (n : PReg) (i : BitVec 16) : Coded.Statement (.pstr n i) := by
  rintro w ⟨⟩; simp
theorem Coded.pget (n : PReg) : Coded.Statement (.pget n) := by
  rintro w ⟨⟩; simp
theorem Coded.pset (n : PReg) : Coded.Statement (.pset n) := by
  rintro w ⟨⟩; simp
theorem Coded.psub (n m : PReg) : Coded.Statement (.psub n m) := by
  rintro w ⟨⟩; simp
theorem Coded.b (c : Cond) (o : BitVec 22) : Coded.Statement (.b c o) := by
  rintro w ⟨⟩; simp
theorem Coded.call (o : BitVec 22) : Coded.Statement (.call o) := by
  rintro w ⟨⟩; simp
theorem Coded.jmp (n : PReg) (i : BitVec 16) : Coded.Statement (.jmp n i) := by
  rintro w ⟨⟩; simp
theorem Coded.ret : Coded.Statement (.ret) := by
  rintro w ⟨⟩; simp
theorem Coded.loop (k : Bool) (o : BitVec 16) : Coded.Statement (.loop k o) := by
  rintro w ⟨⟩; simp
theorem Coded.dbnz (k : Bool) (o : BitVec 16) : Coded.Statement (.dbnz k o) := by
  rintro w ⟨⟩; simp
theorem Coded.li (i : BitVec 20) : Coded.Statement (.li i) := by
  rintro w ⟨⟩; simp
theorem Coded.lih (i : BitVec 20) : Coded.Statement (.lih i) := by
  rintro w ⟨⟩; simp
theorem Coded.balloc (n : BitVec 4) : Coded.Statement (.balloc n) := by
  rintro w ⟨⟩; simp
theorem Coded.att (n : BitVec 4) : Coded.Statement (.att n) := by
  rintro w ⟨⟩; simp
theorem Coded.det (n : BitVec 4) : Coded.Statement (.det n) := by
  rintro w ⟨⟩; simp
theorem Coded.detZ (n : BitVec 4) : Coded.Statement (.detZ n) := by
  rintro w ⟨⟩; simp
theorem Coded.arm (n : BitVec 4) (t : BitVec 16) : Coded.Statement (.arm n t) := by
  rintro w ⟨⟩; simp
theorem Coded.bwait (n : BitVec 4) : Coded.Statement (.bwait n) := by
  rintro w ⟨⟩; simp
theorem Coded.openSlot (n : BitVec 4) : Coded.Statement (.openSlot n) := by
  rintro w ⟨⟩; simp
theorem Coded.closeSlot (n : BitVec 4) : Coded.Statement (.closeSlot n) := by
  rintro w ⟨⟩; simp
theorem Coded.bqry (n : BitVec 4) : Coded.Statement (.bqry n) := by
  rintro w ⟨⟩; simp
theorem Coded.hov (n : BitVec 4) : Coded.Statement (.hov n) := by
  rintro w ⟨⟩; simp
theorem Coded.start (h : BitVec 4) (o : BitVec 16) : Coded.Statement (.start h o) := by
  rintro w ⟨⟩; simp
theorem Coded.startM (h : BitVec 4) (o : BitVec 16) : Coded.Statement (.startM h o) := by
  rintro w ⟨⟩; simp
theorem Coded.endT : Coded.Statement (.endT) := by
  rintro w ⟨⟩; simp
theorem Coded.hwait (h : BitVec 4) : Coded.Statement (.hwait h) := by
  rintro w ⟨⟩; simp
theorem Coded.hkill (h : BitVec 4) : Coded.Statement (.hkill h) := by
  rintro w ⟨⟩; simp
theorem Coded.yield : Coded.Statement (.yield) := by
  rintro w ⟨⟩; simp
theorem Coded.self : Coded.Statement (.self) := by
  rintro w ⟨⟩; simp
theorem Coded.spawn : Coded.Statement (.spawn) := by
  rintro w ⟨⟩; simp
theorem Coded.join (g : BitVec 8) : Coded.Statement (.join g) := by
  rintro w ⟨⟩; simp
theorem Coded.leave (g : BitVec 8) : Coded.Statement (.leave g) := by
  rintro w ⟨⟩; simp
theorem Coded.bar (g : BitVec 8) : Coded.Statement (.bar g) := by
  rintro w ⟨⟩; simp
theorem Coded.flow (g : BitVec 8) (n : BitVec 14) : Coded.Statement (.flow g n) := by
  rintro w ⟨⟩; simp [majorOf_flow]
theorem Coded.xmit (l : Link) (p : PReg) (s : BitVec 16) : Coded.Statement (.xmit l p s) := by
  rintro w ⟨⟩; simp
theorem Coded.muxs (l : Link) (s : BitVec 16) : Coded.Statement (.muxs l s) := by
  rintro w ⟨⟩; simp
theorem Coded.recv (p : PReg) (s : BitVec 16) : Coded.Statement (.recv p s) := by
  rintro w ⟨⟩; simp
theorem Coded.xfwd (l : Link) (s : BitVec 16) : Coded.Statement (.xfwd l s) := by
  rintro w ⟨⟩; simp
theorem Coded.flend : Coded.Statement (.flend) := by
  rintro w ⟨⟩; simp
theorem Coded.mxls (a b : PReg) : Coded.Statement (.mxls a b) := by
  rintro w ⟨⟩; simp
theorem Coded.mxflip : Coded.Statement (.mxflip) := by
  rintro w ⟨⟩; simp
theorem Coded.mxst (a b : PReg) : Coded.Statement (.mxst a b) := by
  rintro w ⟨⟩; simp
theorem Coded.mxzero : Coded.Statement (.mxzero) := by
  rintro w ⟨⟩; simp
theorem Coded.mxswap : Coded.Statement (.mxswap) := by
  rintro w ⟨⟩; simp
theorem Coded.mxdrn (a b : PReg) : Coded.Statement (.mxdrn a b) := by
  rintro w ⟨⟩; simp
theorem Coded.mxckl : Coded.Statement (.mxckl) := by
  rintro w ⟨⟩; simp
theorem Coded.mxckf : Coded.Statement (.mxckf) := by
  rintro w ⟨⟩; simp
theorem Coded.mxrty : Coded.Statement (.mxrty) := by
  rintro w ⟨⟩; simp
theorem Coded.mxwait : Coded.Statement (.mxwait) := by
  rintro w ⟨⟩; simp
theorem Coded.mxrd (k : BitVec 4) : Coded.Statement (.mxrd k) := by
  rintro w ⟨⟩; simp
theorem Coded.mxwr (k : BitVec 4) (a : PReg) : Coded.Statement (.mxwr k a) := by
  rintro w ⟨⟩; simp
theorem Coded.mxwrg (k : BitVec 4) (n : BitVec 5) (a : PReg) : Coded.Statement (.mxwrg k n a) := by
  rintro w ⟨⟩; simp
theorem Coded.vadd (a b : PReg) (sc : Bool) : Coded.Statement (.vadd a b sc) := by
  rintro w ⟨⟩; simp
theorem Coded.vsub (a b : PReg) (sc : Bool) : Coded.Statement (.vsub a b sc) := by
  rintro w ⟨⟩; simp
theorem Coded.vmul (a b : PReg) (sc : Bool) : Coded.Statement (.vmul a b sc) := by
  rintro w ⟨⟩; simp
theorem Coded.vfma (a b : PReg) (sc : Bool) : Coded.Statement (.vfma a b sc) := by
  rintro w ⟨⟩; simp
theorem Coded.vmin (a b : PReg) (sc : Bool) : Coded.Statement (.vmin a b sc) := by
  rintro w ⟨⟩; simp
theorem Coded.vmax (a b : PReg) (sc : Bool) : Coded.Statement (.vmax a b sc) := by
  rintro w ⟨⟩; simp
theorem Coded.vabs (a b : PReg) : Coded.Statement (.vabs a b) := by
  rintro w ⟨⟩; simp
theorem Coded.vneg (a b : PReg) : Coded.Statement (.vneg a b) := by
  rintro w ⟨⟩; simp
theorem Coded.vexp2 (a b : PReg) : Coded.Statement (.vexp2 a b) := by
  rintro w ⟨⟩; simp
theorem Coded.vlog2 (a b : PReg) : Coded.Statement (.vlog2 a b) := by
  rintro w ⟨⟩; simp
theorem Coded.vrcp (a b : PReg) : Coded.Statement (.vrcp a b) := by
  rintro w ⟨⟩; simp
theorem Coded.vrsq (a b : PReg) : Coded.Statement (.vrsq a b) := by
  rintro w ⟨⟩; simp
theorem Coded.vtanh (a b : PReg) : Coded.Statement (.vtanh a b) := by
  rintro w ⟨⟩; simp
theorem Coded.vcvt (a b : PReg) : Coded.Statement (.vcvt a b) := by
  rintro w ⟨⟩; simp
theorem Coded.vred (a b : PReg) (r : ROp) (rv : Bool) : Coded.Statement (.vred a b r rv) := by
  rintro w ⟨⟩; simp
theorem Coded.vscan (a b : PReg) : Coded.Statement (.vscan a b) := by
  rintro w ⟨⟩; simp
theorem Coded.vafs (a b : PReg) (upd : Bool) : Coded.Statement (.vafs a b upd) := by
  rintro w ⟨⟩; simp
theorem Coded.vsel (a b : PReg) (sc : Bool) : Coded.Statement (.vsel a b sc) := by
  rintro w ⟨⟩; simp
theorem Coded.vclamp (a b : PReg) : Coded.Statement (.vclamp a b) := by
  rintro w ⟨⟩; simp
theorem Coded.vcmp (a b : PReg) (c : VCond) (sc : Bool) : Coded.Statement (.vcmp a b c sc) := by
  rintro w ⟨⟩; simp
theorem Coded.vgath (a b : PReg) : Coded.Statement (.vgath a b) := by
  rintro w ⟨⟩; simp
theorem Coded.vscat (a b : PReg) : Coded.Statement (.vscat a b) := by
  rintro w ⟨⟩; simp
theorem Coded.vwr (k : BitVec 4) (a : PReg) : Coded.Statement (.vwr k a) := by
  rintro w ⟨⟩; simp
theorem Coded.vwrg (k : BitVec 4) (n : BitVec 5) (a : PReg) : Coded.Statement (.vwrg k n a) := by
  rintro w ⟨⟩; simp
theorem Coded.vrd (k : BitVec 4) : Coded.Statement (.vrd k) := by
  rintro w ⟨⟩; simp
theorem Coded.vwait : Coded.Statement (.vwait) := by
  rintro w ⟨⟩; simp
theorem Coded.cg2l (a b : PReg) : Coded.Statement (.cg2l a b) := by
  rintro w ⟨⟩; simp
theorem Coded.cl2g (a b : PReg) : Coded.Statement (.cl2g a b) := by
  rintro w ⟨⟩; simp
theorem Coded.cl2c (a b : PReg) : Coded.Statement (.cl2c a b) := by
  rintro w ⟨⟩; simp
theorem Coded.cc2l (a b : PReg) : Coded.Statement (.cc2l a b) := by
  rintro w ⟨⟩; simp
theorem Coded.cw2l (a b : PReg) : Coded.Statement (.cw2l a b) := by
  rintro w ⟨⟩; simp
theorem Coded.cl2w (a b : PReg) : Coded.Statement (.cl2w a b) := by
  rintro w ⟨⟩; simp
theorem Coded.cx2g (a b : PReg) : Coded.Statement (.cx2g a b) := by
  rintro w ⟨⟩; simp
theorem Coded.cg2x (a b : PReg) : Coded.Statement (.cg2x a b) := by
  rintro w ⟨⟩; simp
theorem Coded.cwr (k : BitVec 4) (a : PReg) : Coded.Statement (.cwr k a) := by
  rintro w ⟨⟩; simp
theorem Coded.cwrg (k : BitVec 4) (n : BitVec 5) (a : PReg) : Coded.Statement (.cwrg k n a) := by
  rintro w ⟨⟩; simp
theorem Coded.cwait : Coded.Statement (.cwait) := by
  rintro w ⟨⟩; simp
theorem Coded.rdadd (a b : PReg) : Coded.Statement (.rdadd a b) := by
  rintro w ⟨⟩; simp
theorem Coded.rdflush (a : PReg) : Coded.Statement (.rdflush a) := by
  rintro w ⟨⟩; simp
theorem Coded.rdwait : Coded.Statement (.rdwait) := by
  rintro w ⟨⟩; simp
theorem Coded.rvFill (k : Nat) : Coded.Statement (.rvFill k) := by
  rintro w ⟨⟩
theorem Coded.storeAcknowledge (k c e : Nat) : Coded.Statement (.storeAcknowledge k c e) := by
  rintro w ⟨⟩
theorem Coded.tier1WriteThrough (line : Nat) : Coded.Statement (.tier1WriteThrough line) := by
  rintro w ⟨⟩
theorem Coded.lateFaultReport (k c e : Nat) : Coded.Statement (.lateFaultReport k c e) := by
  rintro w ⟨⟩
theorem Coded.lateFaultTrap (k c : Nat) : Coded.Statement (.lateFaultTrap k c) := by
  rintro w ⟨⟩
theorem Coded.gResponse (k c : Nat) : Coded.Statement (.gResponse k c) := by
  rintro w ⟨⟩
theorem Coded.sliceAccess (k c e : Nat) : Coded.Statement (.sliceAccess k c e) := by
  rintro w ⟨⟩
theorem Coded.tlbMissRequest (k c : Nat) : Coded.Statement (.tlbMissRequest k c) := by
  rintro w ⟨⟩
theorem Coded.fetchRefill (k c : Nat) : Coded.Statement (.fetchRefill k c) := by
  rintro w ⟨⟩
theorem Coded.bankMissMicrotrap (k n : Nat) : Coded.Statement (.bankMissMicrotrap k n) := by
  rintro w ⟨⟩
theorem Coded.registerMissMicrotrap (k c : Nat) : Coded.Statement (.registerMissMicrotrap k c) := by
  rintro w ⟨⟩
theorem Coded.hovDrainDone (k c : Nat) : Coded.Statement (.hovDrainDone k c) := by
  rintro w ⟨⟩
theorem Coded.hovArrival (k c : Nat) : Coded.Statement (.hovArrival k c) := by
  rintro w ⟨⟩
theorem Coded.hovStatusReturn (k c : Nat) : Coded.Statement (.hovStatusReturn k c) := by
  rintro w ⟨⟩
theorem Coded.eventLatchMessage (k h : Nat) : Coded.Statement (.eventLatchMessage k h) := by
  rintro w ⟨⟩
theorem Coded.bankReleaseDrainDone (k c : Nat) : Coded.Statement (.bankReleaseDrainDone k c) := by
  rintro w ⟨⟩
theorem Coded.detZZeroingDone (k c : Nat) : Coded.Statement (.detZZeroingDone k c) := by
  rintro w ⟨⟩
theorem Coded.btoTimeout (k c : Nat) : Coded.Statement (.btoTimeout k c) := by
  rintro w ⟨⟩
theorem Coded.barrierArrival (k : Nat) : Coded.Statement (.barrierArrival k) := by
  rintro w ⟨⟩
theorem Coded.barrierRelease (k : Nat) : Coded.Statement (.barrierRelease k) := by
  rintro w ⟨⟩
theorem Coded.flowRelease (part group : Nat) : Coded.Statement (.flowRelease part group) := by
  rintro w ⟨⟩
theorem Coded.flowSlotOverrun (k : Nat) : Coded.Statement (.flowSlotOverrun k) := by
  rintro w ⟨⟩
theorem Coded.flowFaultReport (k : Nat) : Coded.Statement (.flowFaultReport k) := by
  rintro w ⟨⟩
theorem Coded.flendClosing (k : Nat) : Coded.Statement (.flendClosing k) := by
  rintro w ⟨⟩
theorem Coded.cloadSample (cl : Nat) : Coded.Statement (.cloadSample cl) := by
  rintro w ⟨⟩
theorem Coded.helperMigrationArrival (cl : Nat) : Coded.Statement (.helperMigrationArrival cl) := by
  rintro w ⟨⟩
theorem Coded.taskPlacement (l : Nat) : Coded.Statement (.taskPlacement l) := by
  rintro w ⟨⟩
theorem Coded.spawnPlacement (part : Nat) : Coded.Statement (.spawnPlacement part) := by
  rintro w ⟨⟩
theorem Coded.coresidentLaunchStart (l : Nat) : Coded.Statement (.coresidentLaunchStart l) := by
  rintro w ⟨⟩
theorem Coded.launchCompletion (l : Nat) : Coded.Statement (.launchCompletion l) := by
  rintro w ⟨⟩
theorem Coded.streamRecordFetch (v s : Nat) : Coded.Statement (.streamRecordFetch v s) := by
  rintro w ⟨⟩
theorem Coded.launch (v s n : Nat) : Coded.Statement (.launch v s n) := by
  rintro w ⟨⟩
theorem Coded.graphDefine (v s : Nat) : Coded.Statement (.graphDefine v s) := by
  rintro w ⟨⟩
theorem Coded.graphLaunch (v s : Nat) : Coded.Statement (.graphLaunch v s) := by
  rintro w ⟨⟩
theorem Coded.graphEdit (v s : Nat) : Coded.Statement (.graphEdit v s) := by
  rintro w ⟨⟩
theorem Coded.graphDestroy (v s : Nat) : Coded.Statement (.graphDestroy v s) := by
  rintro w ⟨⟩
theorem Coded.graphNodeStart (v s n : Nat) : Coded.Statement (.graphNodeStart v s n) := by
  rintro w ⟨⟩
theorem Coded.copy (v s n : Nat) : Coded.Statement (.copy v s n) := by
  rintro w ⟨⟩
theorem Coded.fill (v s n : Nat) : Coded.Statement (.fill v s n) := by
  rintro w ⟨⟩
theorem Coded.waitv (v s n : Nat) : Coded.Statement (.waitv v s n) := by
  rintro w ⟨⟩
theorem Coded.waitvReread (v s n : Nat) : Coded.Statement (.waitvReread v s n) := by
  rintro w ⟨⟩
theorem Coded.waitvTimeout (v s n : Nat) : Coded.Statement (.waitvTimeout v s n) := by
  rintro w ⟨⟩
theorem Coded.signal (v s n : Nat) : Coded.Statement (.signal v s n) := by
  rintro w ⟨⟩
theorem Coded.pin (v s : Nat) : Coded.Statement (.pin v s) := by
  rintro w ⟨⟩
theorem Coded.unpin (v s : Nat) : Coded.Statement (.unpin v s) := by
  rintro w ⟨⟩
theorem Coded.tierPromote (v s : Nat) : Coded.Statement (.tierPromote v s) := by
  rintro w ⟨⟩
theorem Coded.tierKeep (v s : Nat) : Coded.Statement (.tierKeep v s) := by
  rintro w ⟨⟩
theorem Coded.tierAutomatic (v s : Nat) : Coded.Statement (.tierAutomatic v s) := by
  rintro w ⟨⟩
theorem Coded.pageMove (frame : Nat) : Coded.Statement (.pageMove frame) := by
  rintro w ⟨⟩
theorem Coded.preemptSave (v s : Nat) : Coded.Statement (.preemptSave v s) := by
  rintro w ⟨⟩
theorem Coded.preemptResume (v s : Nat) : Coded.Statement (.preemptResume v s) := by
  rintro w ⟨⟩
theorem Coded.qosLevels (v s : Nat) : Coded.Statement (.qosLevels v s) := by
  rintro w ⟨⟩
theorem Coded.qosBound (v s : Nat) : Coded.Statement (.qosBound v s) := by
  rintro w ⟨⟩
theorem Coded.qosWindowEnd (v : Nat) : Coded.Statement (.qosWindowEnd v) := by
  rintro w ⟨⟩
theorem Coded.keyCreate (v s : Nat) : Coded.Statement (.keyCreate v s) := by
  rintro w ⟨⟩
theorem Coded.keyErase (v s : Nat) : Coded.Statement (.keyErase v s) := by
  rintro w ⟨⟩
theorem Coded.coveCreate (v s : Nat) : Coded.Statement (.coveCreate v s) := by
  rintro w ⟨⟩
theorem Coded.coveGrant (v s : Nat) : Coded.Statement (.coveGrant v s) := by
  rintro w ⟨⟩
theorem Coded.coveRevoke (v s : Nat) : Coded.Statement (.coveRevoke v s) := by
  rintro w ⟨⟩
theorem Coded.coveRekey (v s : Nat) : Coded.Statement (.coveRekey v s) := by
  rintro w ⟨⟩
theorem Coded.coveDestroy (v s : Nat) : Coded.Statement (.coveDestroy v s) := by
  rintro w ⟨⟩
theorem Coded.migrateBegin (v s : Nat) : Coded.Statement (.migrateBegin v s) := by
  rintro w ⟨⟩
theorem Coded.migrateRound (v s : Nat) : Coded.Statement (.migrateRound v s) := by
  rintro w ⟨⟩
theorem Coded.migrateFinal (v s : Nat) : Coded.Statement (.migrateFinal v s) := by
  rintro w ⟨⟩
theorem Coded.migrateCommit (v s : Nat) : Coded.Statement (.migrateCommit v s) := by
  rintro w ⟨⟩
theorem Coded.migrateAbort (v s : Nat) : Coded.Statement (.migrateAbort v s) := by
  rintro w ⟨⟩
theorem Coded.streamDestroyComplete (v s : Nat) : Coded.Statement (.streamDestroyComplete v s) := by
  rintro w ⟨⟩
theorem Coded.sqtailWrite (v s : Nat) (value : Word) : Coded.Statement (.sqtailWrite v s value) := by
  rintro w ⟨⟩
theorem Coded.sqstatErrClear (v s : Nat) : Coded.Statement (.sqstatErrClear v s) := by
  rintro w ⟨⟩
theorem Coded.streamCreate (v s slot : Nat) : Coded.Statement (.streamCreate v s slot) := by
  rintro w ⟨⟩
theorem Coded.streamDestroy (v s : Nat) : Coded.Statement (.streamDestroy v s) := by
  rintro w ⟨⟩
theorem Coded.debugStateRequest (d : BitVec 2) : Coded.Statement (.debugStateRequest d) := by
  rintro w ⟨⟩
theorem Coded.linkRetrainRequest (port : Nat) : Coded.Statement (.linkRetrainRequest port) := by
  rintro w ⟨⟩
theorem Coded.doubleRelease (cl cloc : Nat) : Coded.Statement (.doubleRelease cl cloc) := by
  rintro w ⟨⟩
theorem Coded.clusterPowerRequest (cl : Nat) (st : BitVec 2) : Coded.Statement (.clusterPowerRequest cl st) := by
  rintro w ⟨⟩
theorem Coded.partitionWrite (slot : Nat) (value : Word) : Coded.Statement (.partitionWrite slot value) := by
  rintro w ⟨⟩
theorem Coded.attestationRequest (value : Word) : Coded.Statement (.attestationRequest value) := by
  rintro w ⟨⟩
theorem Coded.promoWrite (value : Word) : Coded.Statement (.promoWrite value) := by
  rintro w ⟨⟩
theorem Coded.trbaseWrite (v : Nat) (value : Word) : Coded.Statement (.trbaseWrite v value) := by
  rintro w ⟨⟩
theorem Coded.adminRegisterWrite (offset : Nat) (value : Word) : Coded.Statement (.adminRegisterWrite offset value) := by
  rintro w ⟨⟩
theorem Coded.recoveryImageWrite (image : List Byte) : Coded.Statement (.recoveryImageWrite image) := by
  rintro w ⟨⟩
theorem Coded.hostGRead (v : Nat) (addr : Addr) (len : Nat) : Coded.Statement (.hostGRead v addr len) := by
  rintro w ⟨⟩
theorem Coded.hostGWrite (v : Nat) (addr : Addr) (data : List Byte) : Coded.Statement (.hostGWrite v addr data) := by
  rintro w ⟨⟩
theorem Coded.matrixCommandGrant (quad : Nat) : Coded.Statement (.matrixCommandGrant quad) := by
  rintro w ⟨⟩
theorem Coded.matrixCommandComplete (k : Nat) : Coded.Statement (.matrixCommandComplete k) := by
  rintro w ⟨⟩
theorem Coded.vectorCommandGrant (quad : Nat) : Coded.Statement (.vectorCommandGrant quad) := by
  rintro w ⟨⟩
theorem Coded.vectorCommandComplete (k : Nat) : Coded.Statement (.vectorCommandComplete k) := by
  rintro w ⟨⟩
theorem Coded.copyTransferGrant (cl : Nat) : Coded.Statement (.copyTransferGrant cl) := by
  rintro w ⟨⟩
theorem Coded.copyCommandComplete (k : Nat) : Coded.Statement (.copyCommandComplete k) := by
  rintro w ⟨⟩
theorem Coded.reductionContribution (slice : Nat) : Coded.Statement (.reductionContribution slice) := by
  rintro w ⟨⟩
theorem Coded.reductionFlush (slice : Nat) : Coded.Statement (.reductionFlush slice) := by
  rintro w ⟨⟩
theorem Coded.lineWriteback (line : Nat) : Coded.Statement (.lineWriteback line) := by
  rintro w ⟨⟩
theorem Coded.bankScrub (cl bank g : Nat) (e : ErrKind) : Coded.Statement (.bankScrub cl bank g e) := by
  rintro w ⟨⟩
theorem Coded.hbmScrub (line : Nat) (e : ErrKind) : Coded.Statement (.hbmScrub line e) := by
  rintro w ⟨⟩
theorem Coded.packetDelivery (id : Nat) : Coded.Statement (.packetDelivery id) := by
  rintro w ⟨⟩
theorem Coded.packetNackResend (id : Nat) : Coded.Statement (.packetNackResend id) := by
  rintro w ⟨⟩
theorem Coded.packetEscape (id : Nat) : Coded.Statement (.packetEscape id) := by
  rintro w ⟨⟩
theorem Coded.elevatorRetire (cl : Nat) : Coded.Statement (.elevatorRetire cl) := by
  rintro w ⟨⟩
theorem Coded.routeGenUpdate (cl : Nat) : Coded.Statement (.routeGenUpdate cl) := by
  rintro w ⟨⟩
theorem Coded.linkPacketReceive (port : Nat) (out : Bool) (seq : BitVec 12) (crcOk : Bool) : Coded.Statement (.linkPacketReceive port out seq crcOk) := by
  rintro w ⟨⟩
theorem Coded.linkAckTimer (port : Nat) (out : Bool) : Coded.Statement (.linkAckTimer port out) := by
  rintro w ⟨⟩
theorem Coded.linkReplayTimeout (port : Nat) (out : Bool) : Coded.Statement (.linkReplayTimeout port out) := by
  rintro w ⟨⟩
theorem Coded.laneDown (port : Nat) (out : Bool) (lane : Nat) : Coded.Statement (.laneDown port out lane) := by
  rintro w ⟨⟩
theorem Coded.linkRetrainDone (port : Nat) (out : Bool) : Coded.Statement (.linkRetrainDone port out) := by
  rintro w ⟨⟩
theorem Coded.twinPacketCompare (k : Nat) : Coded.Statement (.twinPacketCompare k) := by
  rintro w ⟨⟩
theorem Coded.twinHashTimeout (k : Nat) : Coded.Statement (.twinHashTimeout k) := by
  rintro w ⟨⟩
theorem Coded.selfTestComplete (k : Nat) (pass : Bool) : Coded.Statement (.selfTestComplete k pass) := by
  rintro w ⟨⟩
theorem Coded.containedError (cl : Nat) (site : ErrSite) : Coded.Statement (.containedError cl site) := by
  rintro w ⟨⟩
theorem Coded.doubleAbortTimer (k : Nat) : Coded.Statement (.doubleAbortTimer k) := by
  rintro w ⟨⟩
theorem Coded.saveSequence (k : Nat) : Coded.Statement (.saveSequence k) := by
  rintro w ⟨⟩
theorem Coded.coreStopReached (k : Nat) : Coded.Statement (.coreStopReached k) := by
  rintro w ⟨⟩
theorem Coded.napEntry (cl : Nat) : Coded.Statement (.napEntry cl) := by
  rintro w ⟨⟩
theorem Coded.clusterWake (cl : Nat) : Coded.Statement (.clusterWake cl) := by
  rintro w ⟨⟩
theorem Coded.powerCapThrottle (above : Bool) : Coded.Statement (.powerCapThrottle above) := by
  rintro w ⟨⟩
theorem Coded.thermalStop : Coded.Statement (.thermalStop) := by
  rintro w ⟨⟩
theorem Coded.powerOnReset : Coded.Statement (.powerOnReset) := by
  rintro w ⟨⟩
theorem Coded.illins (w : W32) : Coded.Statement (.illins w) := by
  rintro w ⟨⟩
theorem Coded.darkClusterBoot (cl : Nat) : Coded.Statement (.darkClusterBoot cl) := by
  rintro w ⟨⟩
theorem Coded.thermalStopResume : Coded.Statement (.thermalStopResume) := by
  rintro w ⟨⟩

end Sys2Proof.Laws
end

