-- ==== Sys2Proof/Tests/Slice0.lean ====
section
/-! SUPPORT. The tests of this model: ill-formed terms that are refused, words written out from the encoding tables, one
step of each instruction on a small state, and for each statement states and operands that meet its hypotheses. The
expected values come from the spec, by hand. -/

set_option Elab.async false

open Sys2Proof Sys2Proof.Machine

namespace Sys2Proof.Tests

/-! ### Small states -/

/-- Whether an outcome is a next state with a property. -/
def nx (o : Out) (f : State → Bool) : Bool :=
  match o with
  | .next t => f t
  | _ => false

/-- The context that executes in the tests. -/
def ctxOne : Ctx := { live := true, pc := 0x100, a := 5 }

/-- Core 0 of device 1: slots 0 and 1 hold banks 0 and 1; granule 2 of bank 1 starts with the bytes FE 80 00 .. 00. -/
def coreOne : Core :=
  { ctxs := [(0, ctxOne)]
    slots := [(0, { bank := 0, state := .attached }), (1, { bank := 1, state := .attached })]
    task := some { vdev := 1, part := 0, launch := 0 } }

/-- Translation of page 0x10 of device 1 to frame 0x20, writable and executable. -/
def tlbOne : TlbEntry := { vdev := 1, vpn := 0x10, size := 0, ppn := 0x20, tier1 := false, wr := true, ex := true }

/-- Eight pages of device 1, from address 0, mapped to the frames 0x20 to 0x27 (19 R289). -/
def tables : List Host.Cell :=
  [(0x4001, 0x50), (0x4006, 8), (0x5001, 0x60), (0x5006, 8), (0x6001, 0x64), (0x6006, 8),
   (0x6402, 0x10), (0x6406, 0x1E), (0x6409, 0x80), (0x640A, 0x10), (0x640E, 0x1E), (0x6412, 0x11), (0x6416, 0x1E),
   (0x6419, 0x80), (0x641A, 0x11), (0x641E, 0x1E), (0x6422, 0x12), (0x6426, 0x1E), (0x6429, 0x80), (0x642A, 0x12),
   (0x642E, 0x1E), (0x6432, 0x13), (0x6436, 0x1E), (0x6439, 0x80), (0x643A, 0x13), (0x643E, 0x1E)]

def pinned : Sparse Frame :=
  [(0x20, { pins := 1 }), (0x21, { pins := 1 }), (0x22, { pins := 1 }), (0x23, { pins := 1 }), (0x24, { pins := 1 }),
   (0x25, { pins := 1 }), (0x26, { pins := 1 }), (0x27, { pins := 1 })]

/-- A booted module whose core 0 runs a task of device 1 in partition 0. -/
def one : State :=
  { State.reset with
    bootPhase := 7
    mem := tables
    frames := pinned
    cores := [(0, coreOne)]
    clusters := [(0, { banks := [(0, { state := .held 0 0 }), (1, { state := .held 0 1, data := [(2, 0x80FE)], full := 4 })] })]
    parts := [(0, { valid := true, base := 0, len := 4, vdev := 1 })]
    vdevs := [(1, { keys := true, ptroot := 0x4000 })] }

/-- `one` with its context changed. -/
def oneWith (f : Ctx → Ctx) : State := one.setMe (f one.me)

/-- `one` with its core changed. -/
def oneCore (f : Core → Core) : State := one.setCore 0 (f (one.core 0))

/-- `one` with A, P1 and ST set. -/
def aps (a p st : Word) : State := oneWith fun y => { y with a := a, p := y.p.set 1 p, st := st }

/-- P1 at granule 2 of slot 1, and operands there. -/
def m2 : MemOp 12 := ⟨1, .disp, 0⟩
def m2L : MemOp 15 := ⟨1, .disp, 0⟩
def atM (a st : Word) : State := aps a 0x1020 st
/-- A, the low 64 bits of the operand, and ST set. -/
def am (a m st : Word) : State :=
  (atM a st).setBank 0 1 { (one.bank 0 1) with data := [(2, m.setWidth 128)] }

/-- A service core of cluster 0 at work on core 0. -/
def svc : State :=
  { one with
    cur := (655360, 0)
    cores := [(0, coreOne), (655360, { ctxs := [(0, { live := true, pc := 0x40, st := 0x1000 })] })] }

def taskOne : Task := { vdev := 1, part := 0, launch := 0 }

/-- `svc` with A and P5 set. -/
def svcWith (a p5 : Word) : State := svc.setMe { svc.me with a := a, p := svc.me.p.set 5 p5 }

/-- `one` with the page at 0x80000 translated. -/
def glo (a p1 : Word) : State :=
  (aps a p1 0).setCore 0 { (aps a p1 0).core 0 with tlb := [tlbOne] }
/-! ### Ill-formed terms, one for each check (02 R47) -/

theorem smoke_displacement_without_a_mode_for_it : Instr.wf (.add .b ⟨0, .postStride, 1⟩) = false := by decide
theorem smoke_sign_extended_doubleword : Instr.wf (.ldl .d true ⟨0, .disp, 0⟩) = false := by decide
theorem smoke_release_load : Instr.wf (.ldgOrdered .b false .rel .dev ⟨0, .disp, 0⟩) = false := by decide
theorem smoke_acquire_store : Instr.wf (.stgOrdered .b .acq .dev ⟨0, .disp, 0⟩) = false := by decide
theorem smoke_ordered_w_load_without_order : Instr.wf (.ldwOrdered .b false .none ⟨0, .disp, 0⟩) = false := by decide
theorem smoke_ordered_w_store_without_order : Instr.wf (.stwOrdered .b .none ⟨0, .disp, 0⟩) = false := by decide
theorem smoke_scope_without_order : Instr.wf (.amogAdd true .none .sys ⟨0, .disp, 0⟩) = false := by decide
theorem smoke_slot_12 : Instr.wf (.balloc 12) = false := by decide
theorem smoke_helper_0 : Instr.wf (.start 0 0) = false ∧ Instr.wf (.hwait 11) = false := by decide
theorem smoke_attach_table_entry_12 : Instr.wf (.csrr (.att 12)) = false := by decide
theorem smoke_no_event_selected : Instr.wf (.waite 0) = false := by decide
theorem smoke_phase_of_no_cycles : Instr.wf (.flow 0 0) = false := by decide
theorem smoke_group_of_no_registers : Instr.wf (.mxwrg 0 0 0) = false ∧ Instr.wf (.mxwrg 0 17 0) = false := by decide
theorem smoke_group_of_nine_registers : Instr.wf (.vwrg 0 9 0) = false ∧ Instr.wf (.cwrg 8 1 0) = false := by decide
theorem smoke_register_8 : Instr.wf (.vwr 8 0) = false ∧ Instr.wf (.vrd 8) = false ∧ Instr.wf (.cwr 8 0) = false := by decide
theorem smoke_reduction_to_rv_with_a_pointer : Instr.wf (.vred 1 0 .sum true) = false := by decide

/-! ### Words that are no instruction (02 R47) -/

theorem test_reject_words :
    decode 0x00000000 = .error .func ∧ decode 0x00100001 = .error .reserved ∧ decode 0x00800000 = .error .value ∧
    decode 0x30700000 = .error .mode ∧ decode 0x30100001 = .error .reserved ∧ decode 0x3001F000 = .error .func ∧
    decode 0x04008000 = .error .value ∧ decode 0x040E0000 = .error .reserved ∧ decode 0x78000000 = .error .major ∧
    decode 0x580C0000 = .error .value ∧ decode 0x5C0B0000 = .error .value ∧ decode 0x64000000 = .error .value ∧
    decode 0x64700000 = .error .value ∧ decode 0x38040000 = .error .value ∧ decode 0x28000000 = .error .value ∧
    decode 0x0C01E000 = .error .value ∧ decode 0x00400004 = .error .value ∧ decode 0x4D030000 = .error .value := by decide
theorem test_decode_sys_1 :
    decode 0x00100000 = .ok .nop ∧
    decode 0x00200019 = .ok (.trap 0x19) ∧
    decode 0x00300000 = .ok .eret ∧
    decode 0x00400013 = .ok (.csrr .tval) ∧
    decode 0x00500013 = .ok (.csrw .tval) ∧
    decode 0x00600013 = .ok (.csrs .tval) ∧
    decode 0x00700013 = .ok (.csrc .tval) ∧
    decode 0x00800009 = .ok (.waite 9) ∧
    decode 0x00900066 = .ok (.halt true 0x26) ∧
    decode 0x00A00002 = .ok (.icinv .cluster) ∧
    decode 0x00B0007C = .ok (.tlbw true 0x3c) ∧
    decode 0x00C0011E = .ok (.tlbinv true 7 .part) ∧
    decode 0x00D00012 = .ok (.revoke 0x12) ∧
    decode 0x00E0001D = .ok (.ctxsv 0x1d) ∧
    decode 0x00F00028 = .ok (.ctxld 0x28) ∧
    decode 0x01000067 = .ok (.gstop 0x33 true) := by decide

theorem test_decode_sys_2 :
    decode 0x011000BE = .ok (.dbrk 0xbe) ∧
    decode 0x01200000 = .ok .rdtime ∧
    decode 0x01300000 = .ok .rdcyc ∧
    decode 0x01400007 = .ok (.reissue 7) ∧
    decode 0x01500000 = .ok .oorclr ∧
    decode 0x01600000 = .ok .movrv := by decide

theorem test_decode_ldl :
    decode 0x072A0000 = .ok (.ldl .w true ⟨6, .preStride, 0⟩) := by decide

theorem test_decode_ldc :
    decode 0x08B60000 = .ok (.ldc .h true ⟨1, .postSize, 0⟩) := by decide

theorem test_decode_ldg :
    decode 0x0E4A03A2 = .ok (.ldg .w true ⟨4, .dispWrite, 930⟩) ∧
    decode 0x0FD6C000 = .ok (.ldgOrdered .h true .acq .sys ⟨7, .indexA, 0⟩) := by decide

theorem test_decode_ldw :
    decode 0x116A0000 = .ok (.ldw .w true ⟨2, .postNeg, 0⟩) ∧
    decode 0x12878411 = .ok (.ldwOrdered .h true .ar ⟨5, .disp, 1041⟩) := by decide

theorem test_decode_stl :
    decode 0x14140000 = .ok (.stl .h ⟨0, .postStride, 0⟩) := by decide

theorem test_decode_stc :
    decode 0x19A80000 = .ok (.stc .w ⟨3, .preStride, 0⟩) := by decide

theorem test_decode_stg :
    decode 0x1F3C0000 = .ok (.stg .d ⟨6, .postSize, 0⟩) ∧
    decode 0x1CC144A5 = .ok (.stgOrdered .b .rel .sys ⟨1, .dispWrite, 1189⟩) := by decide

theorem test_decode_stw :
    decode 0x22540000 = .ok (.stw .h ⟨4, .indexA, 0⟩) ∧
    decode 0x23E98000 = .ok (.stwOrdered .w .ar ⟨7, .postNeg, 0⟩) := by decide

theorem test_decode_full_empty :
    decode 0x250C0514 = .ok (.ldlf .d ⟨2, .disp, 1300⟩) ∧
    decode 0x26901000 = .ok (.ldlfC .b ⟨5, .postStride, 0⟩) ∧
    decode 0x24242000 = .ok (.ldcf .h ⟨0, .preStride, 0⟩) ∧
    decode 0x25B83000 = .ok (.ldcfC .w ⟨3, .postSize, 0⟩) ∧
    decode 0x274C45A8 = .ok (.stlf .d ⟨6, .dispWrite, 1448⟩) ∧
    decode 0x24D05000 = .ok (.stcf .b ⟨1, .indexA, 0⟩) ∧
    decode 0x26606000 = .ok (.feset ⟨4, .postNeg, 0⟩) ∧
    decode 0x27807617 = .ok (.feclr ⟨7, .disp, 1559⟩) ∧
    decode 0x25108000 = .ok (.fetst ⟨2, .postStride, 0⟩) := by decide

theorem test_decode_amog :
    decode 0x2AA80E00 = .ok (.amogAdd false .ar .sys ⟨5, .preStride, 0⟩) ∧
    decode 0x283C1400 = .ok (.amogAnd true .acq .part ⟨0, .postSize, 0⟩) ∧
    decode 0x29C829AB = .ok (.amogOr false .rel .dev ⟨3, .dispWrite, 171⟩) ∧
    decode 0x2B5C3E00 = .ok (.amogXor true .ar .sys ⟨6, .indexA, 0⟩) ∧
    decode 0x28E84400 = .ok (.amogMin false .acq .part ⟨1, .postNeg, 0⟩) ∧
    decode 0x2A0C591A = .ok (.amogMax true .rel .dev ⟨4, .disp, 26⟩) ∧
    decode 0x2B986E00 = .ok (.amogMinu false .ar .sys ⟨7, .postStride, 0⟩) ∧
    decode 0x292C7400 = .ok (.amogMaxu true .acq .part ⟨2, .preStride, 0⟩) ∧
    decode 0x2AB88900 = .ok (.amogSwap false .rel .dev ⟨5, .postSize, 0⟩) ∧
    decode 0x284C9EAE = .ok (.amogCas true .ar .sys ⟨0, .dispWrite, 174⟩) := by decide

theorem test_decode_amoc :
    decode 0x2DD80000 = .ok (.amocAdd false ⟨3, .indexA, 0⟩) ∧
    decode 0x2F6C1000 = .ok (.amocAnd true ⟨6, .postNeg, 0⟩) ∧
    decode 0x2C88201D = .ok (.amocOr false ⟨1, .disp, 29⟩) ∧
    decode 0x2E1C3000 = .ok (.amocSwap true ⟨4, .postStride, 0⟩) ∧
    decode 0x2FA84000 = .ok (.amocCas false ⟨7, .preStride, 0⟩) := by decide

theorem test_decode_alu_1 :
    decode 0x313C0000 = .ok (.add .d ⟨2, .postSize, 0⟩) ∧
    decode 0x32C018B1 = .ok (.adc .b ⟨5, .dispWrite, 2225⟩) ∧
    decode 0x30542000 = .ok (.sub .h ⟨0, .indexA, 0⟩) ∧
    decode 0x31E83000 = .ok (.sbc .w ⟨3, .postNeg, 0⟩) ∧
    decode 0x330C4920 = .ok (.rsb .d ⟨6, .disp, 2336⟩) ∧
    decode 0x30905000 = .ok (.adds .b ⟨1, .postStride, 0⟩) ∧
    decode 0x32246000 = .ok (.addsu .h ⟨4, .preStride, 0⟩) ∧
    decode 0x33B87000 = .ok (.subs .w ⟨7, .postSize, 0⟩) ∧
    decode 0x314C89B4 = .ok (.subsu .d ⟨2, .dispWrite, 2484⟩) ∧
    decode 0x32D09000 = .ok (.mul .b ⟨5, .indexA, 0⟩) ∧
    decode 0x3064A000 = .ok (.mulh .h ⟨0, .postNeg, 0⟩) ∧
    decode 0x3188BA23 = .ok (.mulhu .w ⟨3, .disp, 2595⟩) ∧
    decode 0x331CC000 = .ok (.div .d ⟨6, .postStride, 0⟩) ∧
    decode 0x30A0D000 = .ok (.divu .b ⟨1, .preStride, 0⟩) ∧
    decode 0x3234E000 = .ok (.rem .h ⟨4, .postSize, 0⟩) ∧
    decode 0x33C8FAB7 = .ok (.remu .w ⟨7, .dispWrite, 2743⟩) := by decide

theorem test_decode_alu_2 :
    decode 0x315D0000 = .ok (.and .d ⟨2, .indexA, 0⟩) ∧
    decode 0x32E11000 = .ok (.or .b ⟨5, .postNeg, 0⟩) ∧
    decode 0x30052B26 = .ok (.xor .h ⟨0, .disp, 2854⟩) ∧
    decode 0x31993000 = .ok (.andn .w ⟨3, .postStride, 0⟩) ∧
    decode 0x332D4000 = .ok (.shl .d ⟨6, .preStride, 0⟩) ∧
    decode 0x30B15000 = .ok (.shr .b ⟨1, .postSize, 0⟩) ∧
    decode 0x32456BBA = .ok (.sar .h ⟨4, .dispWrite, 3002⟩) ∧
    decode 0x33D97000 = .ok (.rol .w ⟨7, .indexA, 0⟩) ∧
    decode 0x316D8000 = .ok (.ror .d ⟨2, .postNeg, 0⟩) ∧
    decode 0x32819C29 = .ok (.min .b ⟨5, .disp, 3113⟩) ∧
    decode 0x3015A000 = .ok (.max .h ⟨0, .postStride, 0⟩) ∧
    decode 0x31A9B000 = .ok (.minu .w ⟨3, .preStride, 0⟩) ∧
    decode 0x333DC000 = .ok (.maxu .d ⟨6, .postSize, 0⟩) ∧
    decode 0x30C1DCBD = .ok (.cmp .b ⟨1, .dispWrite, 3261⟩) ∧
    decode 0x3255E000 = .ok (.tst .h ⟨4, .indexA, 0⟩) := by decide

theorem test_decode_alu_immediate :
    decode 0x340003E1 = .ok (.addi 0x3e1) ∧
    decode 0x341003EC = .ok (.addsi 0x3ec) ∧
    decode 0x342003F7 = .ok (.rsbi 0x3f7) ∧
    decode 0x34300402 = .ok (.muli 0x402) ∧
    decode 0x3440040D = .ok (.andi 0x40d) ∧
    decode 0x34500418 = .ok (.ori 0x418) ∧
    decode 0x34600423 = .ok (.xori 0x423) ∧
    decode 0x3470002E = .ok (.shli 0x2e) ∧
    decode 0x34800039 = .ok (.shri 0x39) ∧
    decode 0x34900004 = .ok (.sari 4) ∧
    decode 0x34A0000F = .ok (.rori 0xf) ∧
    decode 0x34B0045A = .ok (.cmpi 0x45a) ∧
    decode 0x34C00465 = .ok (.tsti 0x465) := by decide

theorem test_decode_fpu :
    decode 0x3B580000 = .ok (.fadd ⟨6, .indexA, 0⟩) ∧
    decode 0x38E81000 = .ok (.fsub ⟨1, .postNeg, 0⟩) ∧
    decode 0x3A082F32 = .ok (.frsub ⟨4, .disp, 3890⟩) ∧
    decode 0x3B983000 = .ok (.fmul ⟨7, .postStride, 0⟩) ∧
    decode 0x39284000 = .ok (.fdiv ⟨2, .preStride, 0⟩) ∧
    decode 0x3AB85000 = .ok (.fmin ⟨5, .postSize, 0⟩) ∧
    decode 0x38486FC6 = .ok (.fmax ⟨0, .dispWrite, 4038⟩) ∧
    decode 0x39D87000 = .ok (.fcmp ⟨3, .indexA, 0⟩) ∧
    decode 0x3B688000 = .ok (.fsqrt ⟨6, .postNeg, 0⟩) ∧
    decode 0x38849035 = .ok (.fcvtbf ⟨1, .disp, 53⟩) ∧
    decode 0x3A14A000 = .ok (.fcvthf ⟨4, .postStride, 0⟩) ∧
    decode 0x3BA8B000 = .ok (.frndbf ⟨7, .preStride, 0⟩) ∧
    decode 0x3938C000 = .ok (.frndhf ⟨2, .postSize, 0⟩) ∧
    decode 0x3AC8D0C9 = .ok (.fcvti ⟨5, .dispWrite, 201⟩) ∧
    decode 0x3858E000 = .ok (.fcvtf ⟨0, .indexA, 0⟩) ∧
    decode 0x39E8F000 = .ok (.fcvtuf ⟨3, .postNeg, 0⟩) := by decide

theorem test_decode_unary :
    decode 0x3C000000 = .ok .not ∧
    decode 0x3C100000 = .ok .neg ∧
    decode 0x3C200000 = .ok .abs ∧
    decode 0x3C300000 = .ok .negs ∧
    decode 0x3C400000 = .ok .abss ∧
    decode 0x3C500000 = .ok .clz ∧
    decode 0x3C600000 = .ok .ctz ∧
    decode 0x3C700000 = .ok .popc ∧
    decode 0x3C800000 = .ok .bswap ∧
    decode 0x3C900000 = .ok .sextb ∧
    decode 0x3CA00000 = .ok .sexth ∧
    decode 0x3CB00000 = .ok .sextw ∧
    decode 0x3CC00000 = .ok .zextb ∧
    decode 0x3CD00000 = .ok .zexth ∧
    decode 0x3CE00000 = .ok .zextw := by decide

theorem test_decode_pointers :
    decode 0x42D00000 = .ok (.pmov 5 5) ∧
    decode 0x400105D0 = .ok (.paddi 0 0 0x5d0) ∧
    decode 0x41B20000 = .ok (.padda 3 3) ∧
    decode 0x430305E6 = .ok (.pstr 6 0x5e6) ∧
    decode 0x40840000 = .ok (.pget 1) ∧
    decode 0x42050000 = .ok (.pset 4) ∧
    decode 0x43F60000 = .ok (.psub 7 7) := by decide

theorem test_decode_branch :
    decode 0x46400612 = .ok (.b .ugt 0x612) := by decide

theorem test_decode_call :
    decode 0x4800061D = .ok (.call 0x61d) := by decide

theorem test_decode_jumps :
    decode 0x4C000628 = .ok (.jmp 0 0x628) ∧
    decode 0x4C010000 = .ok .ret ∧
    decode 0x4C82063E = .ok (.loop true 0x63e) ∧
    decode 0x4C830649 = .ok (.dbnz true 0x649) := by decide

theorem test_decode_li :
    decode 0x50000654 = .ok (.li 0x654) := by decide

theorem test_decode_lih :
    decode 0x5400065F = .ok (.lih 0x65f) := by decide

theorem test_decode_banks :
    decode 0x580B0000 = .ok (.balloc 0xb) ∧
    decode 0x581B0000 = .ok (.att 0xb) ∧
    decode 0x582B0000 = .ok (.det 0xb) ∧
    decode 0x583B0000 = .ok (.detZ 0xb) ∧
    decode 0x584B0696 = .ok (.arm 0xb 0x696) ∧
    decode 0x585B0000 = .ok (.bwait 0xb) ∧
    decode 0x586B0000 = .ok (.openSlot 0xb) ∧
    decode 0x587B0000 = .ok (.closeSlot 0xb) ∧
    decode 0x588B0000 = .ok (.bqry 0xb) ∧
    decode 0x589B0000 = .ok (.hov 0xb) := by decide

theorem test_decode_threads :
    decode 0x5C0A06D8 = .ok (.start 0xa 0x6d8) ∧
    decode 0x5C1A06E3 = .ok (.startM 0xa 0x6e3) ∧
    decode 0x5C200000 = .ok .endT ∧
    decode 0x5C3A0000 = .ok (.hwait 0xa) ∧
    decode 0x5C4A0000 = .ok (.hkill 0xa) ∧
    decode 0x5C500000 = .ok .yield ∧
    decode 0x5C600000 = .ok .self ∧
    decode 0x5C700000 = .ok .spawn := by decide

theorem test_decode_groups :
    decode 0x60000030 = .ok (.join 0x30) ∧
    decode 0x6010003B = .ok (.leave 0x3b) ∧
    decode 0x60200046 = .ok (.bar 0x46) := by decide

theorem test_decode_flow :
    decode 0x64146001 = .ok (.flow 0x51 0x2001) ∧
    decode 0x6464075C = .ok (.xmit .xe 4 0x75c) ∧
    decode 0x64A00767 = .ok (.muxs .xe 0x767) ∧
    decode 0x64C20772 = .ok (.recv 2 0x772) ∧
    decode 0x6520077D = .ok (.xfwd .xe 0x77d) ∧
    decode 0x65400000 = .ok .flend := by decide

theorem test_decode_matrix :
    decode 0x69B00000 = .ok (.mxls 3 3) ∧
    decode 0x68004000 = .ok .mxflip ∧
    decode 0x68908000 = .ok (.mxst 1 1) ∧
    decode 0x6800C000 = .ok .mxzero ∧
    decode 0x68010000 = .ok .mxswap ∧
    decode 0x69214000 = .ok (.mxdrn 2 2) ∧
    decode 0x68018000 = .ok .mxckl ∧
    decode 0x6801C000 = .ok .mxckf ∧
    decode 0x68020000 = .ok .mxrty ∧
    decode 0x68024000 = .ok .mxwait ∧
    decode 0x68028001 = .ok (.mxrd 1) ∧
    decode 0x6A02C00C = .ok (.mxwr 0xc 4) ∧
    decode 0x6B830109 = .ok (.mxwrg 9 0x10 7) := by decide

theorem test_decode_vector_1 :
    decode 0x6D200001 = .ok (.vadd 2 2 true) ∧
    decode 0x6ED04001 = .ok (.vsub 5 5 true) ∧
    decode 0x6C008001 = .ok (.vmul 0 0 true) ∧
    decode 0x6DB0C001 = .ok (.vfma 3 3 true) ∧
    decode 0x6F610001 = .ok (.vmin 6 6 true) ∧
    decode 0x6C914001 = .ok (.vmax 1 1 true) ∧
    decode 0x6E418000 = .ok (.vabs 4 4) ∧
    decode 0x6FF1C000 = .ok (.vneg 7 7) ∧
    decode 0x6D220000 = .ok (.vexp2 2 2) ∧
    decode 0x6ED24000 = .ok (.vlog2 5 5) ∧
    decode 0x6C028000 = .ok (.vrcp 0 0) ∧
    decode 0x6DB2C000 = .ok (.vrsq 3 3) ∧
    decode 0x6F630000 = .ok (.vtanh 6 6) ∧
    decode 0x6C934000 = .ok (.vcvt 1 1) ∧
    decode 0x6C438016 = .ok (.vred 0 4 .asum true) ∧
    decode 0x6FF3C000 = .ok (.vscan 7 7) := by decide

theorem test_decode_vector_2 :
    decode 0x6D240020 = .ok (.vafs 2 2 true) ∧
    decode 0x6ED44001 = .ok (.vsel 5 5 true) ∧
    decode 0x6C048000 = .ok (.vclamp 0 0) ∧
    decode 0x6DB4C00D = .ok (.vcmp 3 3 .ord true) ∧
    decode 0x6F650000 = .ok (.vgath 6 6) ∧
    decode 0x6C954000 = .ok (.vscat 1 1) ∧
    decode 0x6E058004 = .ok (.vwr 4 4) ∧
    decode 0x6F85C075 = .ok (.vwrg 5 7 7) ∧
    decode 0x6C060002 = .ok (.vrd 2) ∧
    decode 0x6C064000 = .ok .vwait := by decide

theorem test_decode_copy :
    decode 0x70000000 = .ok (.cg2l 0 0) ∧
    decode 0x71B04000 = .ok (.cl2g 3 3) ∧
    decode 0x73608000 = .ok (.cl2c 6 6) ∧
    decode 0x7090C000 = .ok (.cc2l 1 1) ∧
    decode 0x72410000 = .ok (.cw2l 4 4) ∧
    decode 0x73F14000 = .ok (.cl2w 7 7) ∧
    decode 0x71218000 = .ok (.cx2g 2 2) ∧
    decode 0x72D1C000 = .ok (.cg2x 5 5) ∧
    decode 0x70020000 = .ok (.cwr 0 0) ∧
    decode 0x71824075 = .ok (.cwrg 5 7 3) ∧
    decode 0x70028000 = .ok .cwait := by decide

theorem test_decode_reduction :
    decode 0x74900000 = .ok (.rdadd 1 1) ∧
    decode 0x76004000 = .ok (.rdflush 4) ∧
    decode 0x74008000 = .ok .rdwait := by decide

/-! ### Scalar steps; expected values by hand from chapters 02 to 04 -/

-- FEh sign-extended is -2; 5 - 2 = 3 with a carry out of bit 63 (R71)
theorem test_add_byte_sign : nx (exec (.add .b m2) (atM 5 0)) (fun t => t.me.a == 3 && t.me.flag stC && !t.me.flag stV && t.me.pc == 0x104) = true := by decide
theorem test_add_overflow : nx (exec (.add .d m2) (am 0x7FFFFFFFFFFFFFFF 1 0)) (fun t => t.me.flag stV && t.me.flag stN && !t.me.flag stC) = true := by decide
theorem test_adc_carry_in : nx (exec (.adc .d m2) (am 0xFFFFFFFFFFFFFFFF 0 4)) (fun t => t.me.a == 0 && t.me.flag stC && t.me.flag stZ) = true := by decide
-- C is no borrow (R72)
theorem test_sub_borrow : nx (exec (.sub .d m2) (am 1 2 0)) (fun t => t.me.a == 0xFFFFFFFFFFFFFFFF && !t.me.flag stC && t.me.flag stN) = true := by decide
theorem test_sbc_borrow_in : nx (exec (.sbc .d m2) (am 5 2 0)) (fun t => t.me.a == 2 && t.me.flag stC) = true := by decide
theorem test_rsb : nx (exec (.rsb .d m2) (am 3 10 0)) (fun t => t.me.a == 7 && t.me.flag stC) = true := by decide
theorem test_adds_byte_clamps : nx (exec (.adds .b m2) (am 0x7F 1 0)) (fun t => t.me.a == 0x7F && t.me.flag stV && t.me.flag stQ) = true := by decide
theorem test_adds_half_negative : nx (exec (.adds .h m2) (am 0x8000 0xFFFF 0)) (fun t => t.me.a == 0xFFFFFFFFFFFF8000 && t.me.flag stQ) = true := by decide
theorem test_addsu_clamps : nx (exec (.addsu .b m2) (am 0xFF 1 0)) (fun t => t.me.a == 0xFF && t.me.flag stQ) = true := by decide
theorem test_subs_clamps : nx (exec (.subs .b m2) (am 0x80 1 0)) (fun t => t.me.a == 0xFFFFFFFFFFFFFF80 && t.me.flag stQ) = true := by decide
theorem test_subsu_clamps : nx (exec (.subsu .w m2) (am 1 2 0)) (fun t => t.me.a == 0 && t.me.flag stZ && t.me.flag stQ) = true := by decide
theorem test_mul_overflow : nx (exec (.mul .d m2) (am 0x4000000000000000 2 0)) (fun t => t.me.a == 0x8000000000000000 && t.me.flag stV) = true := by decide
theorem test_mulh_signed : nx (exec (.mulh .d m2) (am 0xFFFFFFFFFFFFFFFF 2 0)) (fun t => t.me.a == 0xFFFFFFFFFFFFFFFF) = true := by decide
theorem test_mulhu : nx (exec (.mulhu .d m2) (am 0xFFFFFFFFFFFFFFFF 2 0)) (fun t => t.me.a == 1) = true := by decide
theorem test_div_toward_zero : nx (exec (.div .d m2) (am 0xFFFFFFFFFFFFFFF9 2 0)) (fun t => t.me.a == 0xFFFFFFFFFFFFFFFD) = true := by decide
theorem test_div_most_negative : nx (exec (.div .d m2) (am 0x8000000000000000 0xFFFFFFFFFFFFFFFF 0)) (fun t => t.me.a == 0x8000000000000000 && t.me.flag stV) = true := by decide
theorem test_divu : nx (exec (.divu .d m2) (am 0xFFFFFFFFFFFFFFF9 2 0)) (fun t => t.me.a == 0x7FFFFFFFFFFFFFFC) = true := by decide
theorem test_rem_sign : nx (exec (.rem .d m2) (am 0xFFFFFFFFFFFFFFF9 2 0)) (fun t => t.me.a == 0xFFFFFFFFFFFFFFFF) = true := by decide
theorem test_remu : nx (exec (.remu .b m2) (am 0x17 10 0)) (fun t => t.me.a == 3) = true := by decide
-- a division by zero traps with TADDR at the operand and A in TVAL (R74)
theorem test_div_zero : nx (exec (.div .d m2) (am 9 0 0)) (fun t => t.me.tcause == 8 && t.me.taddr == 0x1020 && t.me.tval == 9 && t.me.tpc == 0x100) = true := by decide
-- logic operands are zero-extended (R71)
theorem test_and_zero_extends : nx (exec (.and .b m2) (am 0xFFFFFFFFFFFFFFFF 0xFE 8)) (fun t => t.me.a == 0xFE && t.me.flag stV) = true := by decide
theorem test_or : nx (exec (.or .h m2) (am 1 0x8000 0)) (fun t => t.me.a == 0x8001 && !t.me.flag stN) = true := by decide
theorem test_xor_zero : nx (exec (.xor .b m2) (am 0xFE 0xFE 0)) (fun t => t.me.flag stZ) = true := by decide
theorem test_andn : nx (exec (.andn .b m2) (am 0xFF 0x0F 0)) (fun t => t.me.a == 0xF0) = true := by decide
theorem test_shl_carry : nx (exec (.shl .b m2) (am 0x8000000000000001 1 0)) (fun t => t.me.a == 2 && t.me.flag stC) = true := by decide
theorem test_shl_count_zero_keeps_carry : nx (exec (.shl .b m2) (am 3 64 4)) (fun t => t.me.a == 3 && t.me.flag stC) = true := by decide
theorem test_shr : nx (exec (.shr .b m2) (am 3 1 0)) (fun t => t.me.a == 1 && t.me.flag stC) = true := by decide
theorem test_sar : nx (exec (.sar .b m2) (am 0x8000000000000000 63 0)) (fun t => t.me.a == 0xFFFFFFFFFFFFFFFF) = true := by decide
theorem test_rol : nx (exec (.rol .b m2) (am 0x8000000000000000 1 0)) (fun t => t.me.a == 1 && t.me.flag stC) = true := by decide
theorem test_ror : nx (exec (.ror .b m2) (am 1 1 0)) (fun t => t.me.a == 0x8000000000000000 && t.me.flag stC) = true := by decide
theorem test_min_signed : nx (exec (.min .b m2) (am 1 0xFE 0)) (fun t => t.me.a == 0xFFFFFFFFFFFFFFFE) = true := by decide
theorem test_max_signed : nx (exec (.max .b m2) (am 1 0xFE 0)) (fun t => t.me.a == 1) = true := by decide
theorem test_minu : nx (exec (.minu .b m2) (am 1 0xFE 0)) (fun t => t.me.a == 1) = true := by decide
theorem test_maxu : nx (exec (.maxu .b m2) (am 1 0xFE 0)) (fun t => t.me.a == 0xFE) = true := by decide
theorem test_cmp_keeps_a : nx (exec (.cmp .b m2) (am 0 0xFF 0)) (fun t => t.me.a == 0 && !t.me.flag stC && !t.me.flag stZ) = true := by decide
theorem test_tst : nx (exec (.tst .b m2) (am 1 2 4)) (fun t => t.me.a == 1 && t.me.flag stZ && t.me.flag stC) = true := by decide
theorem test_misaligned : nx (exec (.add .h m2) (aps 0 0x1021 0)) (fun t => t.me.tcause == 3 && t.me.taddr == 0x1021) = true := by decide

theorem test_addi_negative : nx (exec (.addi 0xFFFFF) (atM 5 0)) (fun t => t.me.a == 4 && t.me.flag stC) = true := by decide
theorem test_addsi : nx (exec (.addsi 1) (atM 0x7FFFFFFFFFFFFFFF 0)) (fun t => t.me.a == 0x7FFFFFFFFFFFFFFF && t.me.flag stQ) = true := by decide
theorem test_rsbi : nx (exec (.rsbi 0) (atM 5 0)) (fun t => t.me.a == 0xFFFFFFFFFFFFFFFB && !t.me.flag stC) = true := by decide
theorem test_muli : nx (exec (.muli 0xFFFFF) (atM 5 0)) (fun t => t.me.a == 0xFFFFFFFFFFFFFFFB) = true := by decide
theorem test_andi_zero_extends : nx (exec (.andi 0xFFFFF) (atM 0xFFFFFFFFFFFFFFFF 0)) (fun t => t.me.a == 0xFFFFF) = true := by decide
theorem test_ori : nx (exec (.ori 0x80000) (atM 1 0)) (fun t => t.me.a == 0x80001) = true := by decide
theorem test_xori : nx (exec (.xori 5) (atM 5 0)) (fun t => t.me.flag stZ) = true := by decide
theorem test_shli : nx (exec (.shli 63) (atM 3 0)) (fun t => t.me.a == 0x8000000000000000 && t.me.flag stC) = true := by decide
theorem test_shri : nx (exec (.shri 4) (atM 0x18 0)) (fun t => t.me.a == 1 && t.me.flag stC) = true := by decide
theorem test_sari : nx (exec (.sari 1) (atM 0xFFFFFFFFFFFFFFFE 0)) (fun t => t.me.a == 0xFFFFFFFFFFFFFFFF && !t.me.flag stC) = true := by decide
theorem test_rori : nx (exec (.rori 4) (atM 0xF 0)) (fun t => t.me.a == 0xF000000000000000) = true := by decide
theorem test_cmpi : nx (exec (.cmpi 5) (atM 5 0)) (fun t => t.me.flag stZ && t.me.flag stC && t.me.a == 5) = true := by decide
theorem test_tsti : nx (exec (.tsti 2) (atM 5 0)) (fun t => t.me.flag stZ && t.me.a == 5) = true := by decide
theorem test_li_sign : nx (exec (.li 0x80000) (atM 5 1)) (fun t => t.me.a == 0xFFFFFFFFFFF80000 && t.me.st == 1) = true := by decide
theorem test_lih : nx (exec (.lih 0xABCDE) (atM 5 0)) (fun t => t.me.a == 0x5ABCDE) = true := by decide

theorem test_neg_low : nx (exec .neg (atM 0x8000000000000000 0)) (fun t => t.me.a == 0x8000000000000000 && t.me.flag stV) = true := by decide
theorem test_negs_low : nx (exec .negs (atM 0x8000000000000000 0)) (fun t => t.me.a == 0x7FFFFFFFFFFFFFFF && t.me.flag stQ) = true := by decide
theorem test_abs : nx (exec .abs (atM 0xFFFFFFFFFFFFFFFB 0)) (fun t => t.me.a == 5) = true := by decide
theorem test_abss_low : nx (exec .abss (atM 0x8000000000000000 0)) (fun t => t.me.a == 0x7FFFFFFFFFFFFFFF && t.me.flag stQ) = true := by decide
theorem test_not : nx (exec .not (atM 0 0)) (fun t => t.me.a == 0xFFFFFFFFFFFFFFFF && t.me.flag stN) = true := by decide
theorem test_clz_zero : nx (exec .clz (atM 0 0)) (fun t => t.me.a == 64) = true := by decide
theorem test_ctz : nx (exec .ctz (atM 0x50 0)) (fun t => t.me.a == 4) = true := by decide
theorem test_popc : nx (exec .popc (atM 0xF0F 0)) (fun t => t.me.a == 8) = true := by decide
theorem test_bswap : nx (exec .bswap (atM 0x0102030405060708 0)) (fun t => t.me.a == 0x0807060504030201) = true := by decide
theorem test_sextb : nx (exec .sextb (atM 0x180 0)) (fun t => t.me.a == 0xFFFFFFFFFFFFFF80) = true := by decide
theorem test_sexth : nx (exec .sexth (atM 0x18000 0)) (fun t => t.me.a == 0xFFFFFFFFFFFF8000) = true := by decide
theorem test_sextw : nx (exec .sextw (atM 0x180000000 0)) (fun t => t.me.a == 0xFFFFFFFF80000000) = true := by decide
theorem test_zextb : nx (exec .zextb (atM 0x1FF 0)) (fun t => t.me.a == 0xFF) = true := by decide
theorem test_zexth : nx (exec .zexth (atM 0x1FFFF 0)) (fun t => t.me.a == 0xFFFF) = true := by decide
theorem test_zextw : nx (exec .zextw (atM 0x1FFFFFFFF 0)) (fun t => t.me.a == 0xFFFFFFFF) = true := by decide

-- 1.0 + 2.0 = 3.0; 1.0 - 2.0; 3.0 x 2.0; 1.0 / 3.0 to nearest and toward zero (R58, IEEE images)
theorem test_fadd : nx (exec (.fadd m2) (am 0x3F800000 0x40000000 0)) (fun t => t.me.a == 0x40400000) = true := by decide
theorem test_fsub : nx (exec (.fsub m2) (am 0x3F800000 0x40000000 0)) (fun t => t.me.a == 0xBF800000) = true := by decide
theorem test_frsub : nx (exec (.frsub m2) (am 0x3F800000 0x40000000 0)) (fun t => t.me.a == 0x3F800000) = true := by decide
theorem test_fmul : nx (exec (.fmul m2) (am 0x40400000 0x40000000 0)) (fun t => t.me.a == 0x40C00000) = true := by decide
theorem test_fdiv_nearest : nx (exec (.fdiv m2) (am 0x3F800000 0x40400000 0)) (fun t => t.me.a == 0x3EAAAAAB) = true := by decide
theorem test_fdiv_toward_zero : nx (exec (.fdiv m2) (am 0x3F800000 0x40400000 0x20)) (fun t => t.me.a == 0x3EAAAAAA) = true := by decide
theorem test_fsqrt : nx (exec (.fsqrt m2) (am 0 0x40800000 0)) (fun t => t.me.a == 0x40000000) = true := by decide
theorem test_fmin : nx (exec (.fmin m2) (am 0x3F800000 0xC0000000 0)) (fun t => t.me.a == 0xC0000000) = true := by decide
theorem test_fmax : nx (exec (.fmax m2) (am 0x3F800000 0xC0000000 0)) (fun t => t.me.a == 0x3F800000) = true := by decide
theorem test_fcmp_unordered : nx (exec (.fcmp m2) (am 0x3F800000 0x7FC00000 0)) (fun t => t.me.flag stC && t.me.flag stV && !t.me.flag stZ && !t.me.flag stN) = true := by decide
theorem test_fcvtbf : nx (exec (.fcvtbf m2) (am 0 0x3F80 0)) (fun t => t.me.a == 0x3F800000) = true := by decide
theorem test_fcvthf : nx (exec (.fcvthf m2) (am 0 0x3C00 0)) (fun t => t.me.a == 0x3F800000) = true := by decide
theorem test_frndbf_ties_to_even : nx (exec (.frndbf m2) (am 0 0x3F808000 0)) (fun t => t.me.a == 0x3F80) = true := by decide
theorem test_frndhf : nx (exec (.frndhf m2) (am 0 0x3F800000 0)) (fun t => t.me.a == 0x3C00) = true := by decide
theorem test_fcvti_clamps : nx (exec (.fcvti m2) (am 0 0x4F000000 0)) (fun t => t.me.a == 0x7FFFFFFF && t.me.flag stQ) = true := by decide
theorem test_fcvtf : nx (exec (.fcvtf m2) (am 0 0xFFFFFFFF 0)) (fun t => t.me.a == 0xBF800000) = true := by decide
theorem test_fcvtuf : nx (exec (.fcvtuf m2) (am 0 0xFFFFFFFF 0)) (fun t => t.me.a == 0x4F800000) = true := by decide

-- pointer images: stride in bits 63 to 48 (R17, R80)
theorem test_paddi_wraps_the_address : nx (exec (.paddi 2 1 1) (aps 0 0x0008FFFFFFFFFFFF 0)) (fun t => t.me.ptr 2 == 0x0008000000000000) = true := by decide
theorem test_padda : nx (exec (.padda 2 1) (aps 0x10 0x0008000000001000 0)) (fun t => t.me.ptr 2 == 0x0008000000001010) = true := by decide
theorem test_pstr : nx (exec (.pstr 1 0xFFF0) (aps 0 0x0008000000001000 0)) (fun t => t.me.ptr 1 == 0xFFF0000000001000) = true := by decide
theorem test_psub : nx (exec (.psub 0 1) (aps 0 0x0008000000000001 0)) (fun t => t.me.a == 0xFFFFFFFFFFFFFFFF && t.me.flag stN) = true := by decide
theorem test_pmov_pget_pset : nx (exec (.pmov 3 1) (aps 7 9 0)) (fun t => t.me.ptr 3 == 9) = true ∧ nx (exec (.pget 1) (aps 7 9 0)) (fun t => t.me.a == 9) = true ∧ nx (exec (.pset 4) (aps 7 9 0)) (fun t => t.me.ptr 4 == 7) = true := by decide
-- the stride in a post-update access; the store of its own pointer's form (R42)
theorem test_post_stride : nx (exec (.add .b ⟨1, .postStride, 0⟩) (aps 0 0xFFF0000000001020 0)) (fun t => t.me.ptr 1 == 0xFFF0000000001010) = true := by decide
theorem test_post_size : nx (exec (.add .h ⟨1, .postSize, 0⟩) (aps 0 0x1020 0)) (fun t => t.me.ptr 1 == 0x1022) = true := by decide

-- off22 counts words from the branch itself (R81)
theorem test_b_back : nx (exec (.b .eq 0x3FFFFF) (atM 0 1)) (fun t => t.me.pc == 0xFC) = true := by decide
theorem test_b_not_taken : nx (exec (.b .ugt 2) (atM 0 5)) (fun t => t.me.pc == 0x104) = true := by decide
theorem test_call : nx (exec (.call 4) (atM 0 0)) (fun t => t.me.pc == 0x110 && t.me.ptr 7 == 0x104) = true := by decide
theorem test_jmp : nx (exec (.jmp 1 0xFFFC) (aps 0 0x0008000000000104 0)) (fun t => t.me.pc == 0x100) = true := by decide
theorem test_jmp_misaligned : nx (exec (.jmp 1 0) (aps 0 2 0)) (fun t => t.me.tcause == 3) = true := by decide
theorem test_ret : nx (exec .ret (oneWith fun y => { y with p := y.p.set 7 0x200 })) (fun t => t.me.pc == 0x200) = true := by decide
theorem test_loop_zero_skips : nx (exec (.loop false 8) (atM 0x10000 0)) (fun t => t.me.pc == 0x120 && t.me.lc0 == 0) = true := by decide
theorem test_loop_enters : nx (exec (.loop true 8) (atM 0x10003 0)) (fun t => t.me.pc == 0x104 && t.me.lc1 == 3) = true := by decide
theorem test_dbnz_last : nx (exec (.dbnz false 0xFFFE) (oneWith fun y => { y with lc0 := 1 })) (fun t => t.me.pc == 0x104 && t.me.lc0 == 0) = true := by decide
theorem test_dbnz_wraps : nx (exec (.dbnz false 0xFFFE) one) (fun t => t.me.pc == 0xF8 && t.me.lc0 == 0xFFFF) = true := by decide
/-! ### Memory, banks, system, threads and engines: one step each, expected values by hand from the chapters -/

theorem test_ldl_sign : nx (exec (.ldl .b true m2L) (atM 0 0)) (fun t => t.me.a == 0xFFFFFFFFFFFFFFFE) = true := by decide
theorem test_ldl_out_of_range : nx (exec (.ldl .d false m2L) (aps 7 0xC000 0)) (fun t => t.me.a == 0 && t.me.oorf && t.me.oora == 0xC000) = true := by decide
theorem test_stl_keeps_neighbours : nx (exec (.stl .b ⟨1, .disp, 1⟩) (aps 0x155 0x1020 0)) (fun t => (t.bank 0 1).granule 2 == 0x55FE) = true := by decide
theorem test_stl_detached : nx (exec (.stl .b m2L) (aps 0 0x2000 0)) (fun t => t.me.tcause == 4 && t.me.taddr == 0x2000) = true := by decide
theorem test_ldlf_full : nx (exec (.ldlf .b m2) (atM 0 0)) (fun t => t.me.a == 0xFE && (t.bank 0 1).isFull 2) = true := by decide
theorem test_ldlf_c_empties : nx (exec (.ldlfC .b m2) (atM 0 0)) (fun t => t.me.a == 0xFE && !(t.bank 0 1).isFull 2) = true := by decide
theorem test_ldlf_empty_holds : nx (exec (.ldlf .b ⟨1, .disp, 16⟩) (atM 3 0)) (fun t => t.me.hold.isSome && t.me.pc == 0x100 && t.me.a == 3) = true := by decide
theorem test_stlf_fills : nx (exec (.stlf .b ⟨1, .disp, 16⟩) (atM 3 0)) (fun t => (t.bank 0 1).isFull 3 && (t.bank 0 1).granule 3 == 3) = true := by decide
theorem test_feset_feclr : nx (exec (.feset ⟨1, .disp, 16⟩) (atM 3 0)) (fun t => (t.bank 0 1).isFull 3) = true ∧ nx (exec (.feclr m2) (atM 3 0)) (fun t => !(t.bank 0 1).isFull 2) = true := by decide
theorem test_fetst : nx (exec (.fetst m2) (atM 3 0)) (fun t => t.me.a == 1 && !t.me.flag stZ) = true := by decide

/-- P1 at the empty granule 3 of slot 1, on which contexts wait with loads of P1. -/
def feWaits (l : List (Nat × Instr)) : State :=
  l.foldl (fun s e => s.setCtx 0 e.1 { s.me with live := true, hold := some { instr := e.2, since := 0, phase := .poll 0 } })
    (aps 7 0x1030 0)
def waitsAt (f : Size → MemOp 12 → Instr) : State := feWaits [(1, f .b m2)]
/-- Every waiting LDLF completes, and one LDLF.c, which empties the granule (05 R101). -/
theorem test_stlf_releases_every_waiter :
    nx (exec (.stlf .b m2) (feWaits [(1, .ldlfC .b m2), (2, .ldlf .b m2)])) (fun t =>
      (t.ctx 0 1).a == 7 && (t.ctx 0 2).a == 7 && (t.ctx 0 1).hold.isNone && (t.ctx 0 2).pc == 0x104 &&
      !(t.bank 0 1).isFull 3) = true := by decide
theorem test_stlf_serves_one_taker :
    nx (exec (.stlf .b m2) (feWaits [(1, .ldlfC .b m2), (2, .ldlfC .b m2)])) (fun t =>
      (t.ctx 0 1).hold.isNone && (t.ctx 0 2).hold.isSome && !(t.bank 0 1).isFull 3) = true := by decide

/-- `one` with slot 1 open to the cluster. -/
def openOne : State := oneCore fun x => x.setSlot 1 { bank := 1, state := .attached, opened := true }
def openA (a p1 : Word) : State := openOne.setMe { openOne.me with a := a, p := openOne.me.p.set 1 p1 }

theorem test_ldc : nx (exec (.ldc .b false m2L) (openA 0 0x1020)) (fun t => t.me.a == 0xFE) = true := by decide
theorem test_stc : nx (exec (.stc .h m2L) (openA 0x1234 0x1020)) (fun t => (t.bank 0 1).granule 2 == 0x1234) = true := by decide
theorem test_ldc_of_a_closed_bank : nx (exec (.ldc .b false m2L) (atM 0 0)) (fun t => t.me.tcause == 6) = true := by decide
theorem test_ldcf : nx (exec (.ldcf .b m2) (openA 0 0x1020)) (fun t => t.me.a == 0xFE) = true ∧ nx (exec (.ldcfC .b m2) (openA 0 0x1020)) (fun t => !(t.bank 0 1).isFull 2) = true := by decide
theorem test_stcf : nx (exec (.stcf .b m2) (openA 7 0x1030)) (fun t => (t.bank 0 1).isFull 3 && (t.bank 0 1).granule 3 == 7) = true := by decide
theorem test_amoc_add : nx (exec (.amocAdd false ⟨1, .disp, 0⟩) (openA 2 0x1020)) (fun t => t.me.a == 0x80FE && (t.bank 0 1).granule 2 == 0x8100) = true := by decide
theorem test_amoc_and_or : nx (exec (.amocAnd false ⟨1, .disp, 0⟩) (openA 0xFF 0x1020)) (fun t => (t.bank 0 1).granule 2 == 0xFE) = true ∧ nx (exec (.amocOr false ⟨1, .disp, 0⟩) (openA 1 0x1020)) (fun t => (t.bank 0 1).granule 2 == 0x80FF) = true := by decide
theorem test_amoc_swap_cas : nx (exec (.amocSwap false ⟨1, .disp, 0⟩) (openA 9 0x1020)) (fun t => (t.bank 0 1).granule 2 == 9) = true ∧ nx (exec (.amocCas true ⟨1, .disp, 0⟩) (openA 9 0x1020)) (fun t => (t.bank 0 1).granule 2 == 0x80FE && !t.me.flag stZ) = true := by decide

-- page 0x10 lies in frame 0x20: address 0x80000 is physical 0x100000 (R290)
theorem test_stg_is_posted : nx (exec (.stg .h m2L) (glo 0x1234 0x80002)) (fun t => (t.me.log.get 0).state == .posted && (t.me.log.get 0).pa == 0x100002 && (t.me.log.get 0).data == 0x1234 && t.mem == tables) = true := by decide
theorem test_ldg : nx (exec (.ldg .b true m2L) { glo 0 0x80001 with mem := tables ++ [(0x100001, 0x80)] }) (fun t => t.me.a == 0xFFFFFFFFFFFFFF80) = true := by decide
theorem test_ldg_misaligned : nx (exec (.ldg .w false m2L) (glo 0 0x80002)) (fun t => t.me.tcause == 3) = true := by decide
theorem test_ldg_miss_is_held : nx (exec (.ldg .b false m2L) (glo 0 0x90000)) (fun t => t.me.phase == some (.miss 1 0x90000 false false)) = true := by decide
theorem test_amog_add : nx (exec (.amogAdd false .none .part ⟨1, .disp, 0⟩) { glo 1 0x80000 with mem := tables ++ [(0x100000, 0xFF)] }) (fun t => t.me.a == 0xFF && Memory.read t.mem 0x100001 == 1 && Memory.read t.mem 0x100000 == 0) = true := by decide
theorem test_amog_min_signed : nx (exec (.amogMin false .none .part ⟨1, .disp, 0⟩) (glo 0xFFFFFFFF 0x80000)) (fun t => t.me.a == 0 && Memory.readN t.mem 0x100000 4 == 0xFFFFFFFF) = true := by decide
theorem test_amog_cas : nx (exec (.amogCas false .none .part ⟨1, .disp, 0⟩) (glo 7 0x80000)) (fun t => t.me.a == 0 && t.me.flag stZ && Memory.readN t.mem 0x100000 4 == 7) = true := by decide

-- the lowest free bank of the quad first: banks 0 and 1 are held (R109, R110)
theorem test_balloc : nx (exec (.balloc 2) one) (fun t => t.me.a == 2 && (t.slot 0 2).state == .attached && (t.bank 0 2).state == .held 0 2) = true := by decide
theorem test_balloc_of_a_used_slot : nx (exec (.balloc 1) one) (fun t => t.me.tcause == 0xC) = true := by decide
theorem test_att_busy : nx (exec (.att 2) (atM 1 0)) (fun t => t.me.a == 1) = true := by decide
theorem test_det_keeps : nx (exec (.det 1) one) (fun t => (t.slot 0 1).state == .empty && (t.bank 0 1).state == .kept 1 && (t.bank 0 1).granule 2 == 0x80FE) = true := by decide
theorem test_det_z_zeroes : nx (exec (.detZ 1) one) (fun t => (t.bank 0 1).state == .clean && (t.bank 0 1).granule 2 == 0 && !(t.bank 0 1).isFull 2) = true := by decide
theorem test_arm : nx (exec (.arm 2 0x77) one) (fun t => (t.slot 0 2).state == .armed && (t.slot 0 2).tag == 0x77) = true := by decide
theorem test_open_close : nx (exec (.openSlot 1) one) (fun t => (t.slot 0 1).opened) = true ∧ nx (exec (.closeSlot 1) openOne) (fun t => !(t.slot 0 1).opened) = true := by decide
theorem test_bqry_and_bwait : nx (exec (.bqry 2) one) (fun t => (bits t.me.a 0 10) == 0x3FF) = true ∧ nx (exec (.bwait 1) one) (fun t => t.me.pc == 0x104) = true := by decide

theorem test_trap : nx (exec (.trap 3) one) (fun t => t.me.tcause == 0x14 && t.me.tpc == 0x104 && t.me.tval == 3 && t.me.flag stTRP && t.me.ptr 6 == 0x0008000000000020) = true := by decide
theorem test_trap_in_a_handler_is_double : nx (exec (.trap 3) (atM 0 0x400)) (fun t => (t.core 0).stop == .double) = true := by decide
-- P6 = 0x40: the frame lies at 0x20 of slot 0 (R212)
theorem test_eret : nx (exec .eret (oneWith fun y => { y with st := 0x400, tpc := 0x200, causeRead := true, p := y.p.set 6 0x40 })) (fun t => t.me.pc == 0x200 && t.me.a == 0 && t.me.ptr 6 == 0 && !t.me.flag stTRP) = true := by decide
theorem test_csrr_cyc : nx (exec (.csrr .cyc) { one with cyc := 77 }) (fun t => t.me.a == 77) = true := by decide
theorem test_csrw_swaps : nx (exec (.csrw .lc0) (atM 0x12345 0)) (fun t => t.me.lc0 == 0x2345 && t.me.a == 0) = true := by decide
theorem test_csrs_csrc_st : nx (exec (.csrs .st) (atM 0xFFFFFFFFFFFFFFFF 0)) (fun t => t.me.st == 0xFFFF007F) = true ∧ nx (exec (.csrc .st) (atM 1 3)) (fun t => t.me.st == 2 && t.me.a == 3) = true := by decide
theorem test_waite : nx (exec (.waite 6) (oneWith fun y => { y with latches := 5 })) (fun t => t.me.a == 4 && t.me.latches == 1) = true := by decide
theorem test_rdcyc_movrv : nx (exec .rdcyc { one with cyc := 9 }) (fun t => t.me.a == 9) = true ∧ nx (exec .movrv (oneWith fun y => { y with rv := 6, st := 0x2000 })) (fun t => t.me.a == 6 && !t.me.flag stRVF) = true := by decide
theorem test_dbrk_none_traps : nx (exec (.dbrk 1) one) (fun t => t.me.tcause == 0x15) = true ∧ nx (exec (.dbrk 1) { one with debug := .halt }) (fun t => (t.core 0).stop == .halted && t.me.pc == 0x104) = true := by decide
theorem test_halt_needs_sup : nx (exec (.halt false 0) one) (fun t => t.me.tcause == 2) = true ∧ nx (exec (.halt false 0) svc) (fun t => (t.core 0).stop == .halted && t.me.a == 0) = true := by decide
theorem test_gstop : nx (exec (.gstop 0 false) svc) (fun t => (t.core 0).stop == .gstopped && (t.core 1).stop == .gstopped) = true := by decide
theorem test_tlbw : nx (exec (.tlbw false 0) (svcWith 0x000E000000100000 0x0001000000080000)) (fun t => (t.core 0).tlb.length == 1) = true := by decide
theorem test_revoke_frees_the_core : nx (exec (.revoke 0) svc) (fun t => (t.core 0).task == none && t.me.a == 0) = true := by decide +kernel
theorem test_illins : nx (exec (.illins 0) one) (fun t => t.me.tcause == 1 && t.me.tpc == 0x100 && t.me.taddr == 0x100) = true := by decide

theorem test_start : nx (exec (.start 2 4) one) (fun t => (t.ctx 0 2).live && (t.ctx 0 2).pc == 0x110 && (t.ctx 0 2).a == 5 && (t.ctx 0 2).flag stHLP) = true := by decide
theorem test_hwait_not_started : nx (exec (.hwait 2) one) (fun t => t.me.a == 2) = true := by decide
theorem test_end_frees_the_core : nx (exec .endT one) (fun t => (t.core 0).task == none && (t.slot 0 1).state == .empty) = true := by decide
theorem test_join_leave : nx (exec (.join 3) one) (fun t => ((t.part 0).group 3).members == [0]) = true := by decide
/-- Group 0 with core 0 alone. -/
def alone : State := one.setPart 0 ((one.part 0).setGroup 0 { members := [0] })
theorem test_bar_alone : nx (exec (.bar 0) alone) (fun t => t.me.pc == 0x104 && t.me.hold == none) = true := by decide
theorem test_flow_alone : nx (exec (.flow 0 10) alone) (fun t => t.me.flag stFLW && (t.core 0).flowcyc == 0 && t.coreFlows 0) = true := by decide +kernel
/-- Core 0 in an open phase of group 0, with input N selected. -/
def flows : State :=
  { alone with
    cores := [(0, { coreOne with
      ctxs := [(0, { ctxOne with st := 0x800, p := (Vector.replicate 8 0).set 1 0x0010000000001020 })]
      flow := some { group := 0, n := 10, base := 0x100, words := [], opened := true }, flowcyc := 3, sel := some .e }),
      (1, { outs := [(.w, 0xABC, false)] })]
    parts := [(0, { valid := true, base := 0, len := 4, vdev := 1, groups := [(0, { members := [0], phase := some { members := [0], going := [0], n := 10 } })] })] }
theorem test_xmit : nx (exec (.xmit .e 1 3) flows) (fun t => (t.core 0).outsNext == [(.e, 0x80FE, false)] && t.me.ptr 1 == 0x0010000000001030) = true := by decide
theorem test_xmit_slot : nx (exec (.xmit .e 1 4) flows) (fun t => t.me.tcause == 0xA && !t.me.flag stFLW) = true := by decide
theorem test_recv : nx (exec (.recv 1 3) flows) (fun t => (t.bank 0 1).granule 2 == 0xABC && (t.bank 0 1).isFull 2) = true := by decide
theorem test_recv_outside_a_phase : nx (exec (.recv 1 3) one) (fun t => t.me.tcause == 9) = true := by decide
theorem test_xfwd_muxs : nx (exec (.xfwd .w 3) flows) (fun t => (t.core 0).outsNext == [(.w, 0xABC, false)]) = true ∧ nx (exec (.muxs .s 3) flows) (fun t => (t.core 0).sel == some .s) = true := by decide
theorem test_flend : nx (exec .flend flows) (fun t => !t.me.flag stFLW && (t.core 0).flow == none && t.me.a == 0) = true := by decide

theorem test_mxwr_queues : nx (exec (.mxwr 3 1) (aps 0 0x30 0)) (fun t => ((t.core 0).mx.queue.map fun q => (q.pa, q.ran)) == [(0x30, false)]) = true := by decide
theorem test_mxrd_owes : nx (exec (.mxrd 3) one) (fun t => t.me.owed == some 0) = true := by decide
theorem test_mxls_misaligned : nx (exec (.mxls 1 2) (aps 0 0x1021 0)) (fun t => t.me.tcause == 3) = true := by decide
theorem test_vwait_idle : nx (exec .vwait one) (fun t => t.me.pc == 0x104) = true := by decide
theorem test_cwait_answers_cv7 : nx (exec .cwait one) (fun t => (t.core 0).returns == [(0, 0, 0)] && t.me.owed == some 0) = true := by decide
theorem test_rdwait_idle : nx (exec .rdwait one) (fun t => t.me.pc == 0x104) = true := by decide

/-! ### Events -/

theorem test_rv_fill : nx (exec (.rvFill 0) (oneCore fun x => { x with returns := [(0, 4, 9)], ctxs := [(0, { ctxOne with owed := some 4 })] })) (fun t => t.me.rv == 9 && t.me.flag stRVF) = true := by decide
theorem test_matrix_grant_writes_mg : nx (exec (.matrixCommandGrant 0) (oneCore fun x => { x with mx := { queue := [{ id := 0, instr := .mxwr 3 1, ctx := 0, pc := 0x100, pa := 0x30 }], enqueued := 1 } })) (fun t => (t.core 0).mx.mg.get 3 == 0x30) = true := by decide
theorem test_tlb_miss_walks : nx (exec (.tlbMissRequest 0 0) (oneWith fun y => { y with hold := some { instr := .ldg .b false m2L, since := 0, phase := .miss 1 0x8000 false false } })) (fun t => ((t.core 0).tlb.map TlbEntry.ppn) == [0x21]) = true := by decide
/-- `one` with a port to the host. -/
def hosted : State := { one with ports := [(0, { peer := some 64 })] }
theorem test_partition_write : nx (exec (.partitionWrite 1 0x8000010000800004) hosted) (fun t => (t.part 1).valid && (t.part 1).base == 4 && (t.part 1).len == 8 && (t.part 1).vdev == 1) = true := by decide
theorem test_partition_overlap_refused : nx (exec (.partitionWrite 1 0x8000010000800003) hosted) (fun t => !(t.part 1).valid) = true := by decide
theorem test_sqtail_overrun : nx (exec (.sqtailWrite 1 0 65) { hosted with vdevs := [(1, { streams := [(0, { live := true })] })] }) (fun t => (t.strm 1 0).err && (t.strm 1 0).detail == 9) = true := by decide
theorem test_host_read : nx (exec (.hostGRead 1 0x8000 2) { hosted with mem := tables ++ [(0x108001, 7)] }) (fun t => match t.host with | [.response v _ bs] => v == 1 && bs == [0, 7] | _ => false) = true := by decide +kernel
theorem test_host_write_unmapped : nx (exec (.hostGWrite 1 0x40000 [1]) hosted) (fun t => match t.host with | [.failure v _ c] => v == 1 && c == 0xF | _ => false) = true := by decide
theorem test_power_on_reset : nx (exec .powerOnReset one) (fun t => t.cores == [] && t.bootPhase == 0) = true := by decide

/-! ### A step from reset -/

-- ADDI 3 as the first instruction after reset
theorem test_first_step : nx (step (State.reset.withFetchWord 32 0x34000003)) (fun t => t.me.a == 3 && t.me.pc == 4) = true := by decide
theorem test_table_word : decodeTableWord 32 0x34000003 = some (.addi 3) := by decide
theorem test_boot_begins : nx (step State.reset) (fun t => t.bootPhase == 1) = true := by decide
/-! ### Witnesses: for each statement with hypotheses, states and operands that meet them -/

theorem witness_DecodeOfWordsFromTheTables :
    0x1E ≤ (bits (0x78000000 : W32) 26 6).toNat ∧ 0x1E ≤ (bits (0xFFFFFFFF : W32) 26 6).toNat := by decide
theorem witness_DecodeOfEncodeIsTheInstruction :
    Instr.wf (.flow 3 10) = true ∧ encode (.flow 3 10) = some 0x6400C00A := by decide
theorem witness_DecodedWordsHaveOneEncoding : decode 0x34000003 = .ok (.addi 3) := by decide

/-- The module right after a word has been placed for its next step. -/
def ready : State := State.reset.withFetchWord 32 0x34000003
theorem witness_StepRunsTheDecodedInstruction :
    ready.booted = true ∧ ready.script = .issue 0 1 :: [] ∧ validCore 0 = true ∧
    ({ ready with script := [] } : State).nextReady 0 = some 0 ∧ ready.coreFlows 0 = false ∧
    (ready.ctx 0 0).lateEntry = none ∧ (ready.ctx 0 0).pc ≠ sentinel ∧ decode 0x34000003 = .ok (.addi 3) := by decide +kernel
theorem witness_StepRunsTheDecodedInstruction_fetch : ready.fetchWord 0 0 (ready.ctx 0 0).pc = .ok 0x34000003 := rfl
theorem witness_StepTakesTheEvent :
    ({ one with script := [.event (.rvFill 0) 1] } : State).booted = true ∧ isEvent (.rvFill 0) = true := by decide +kernel
theorem witness_ResetLeavesTheStatedValues : 0 < sites ∧ 655359 < sites := by decide
theorem witness_NothingStopsTheMachine : State.reset.onModule = true ∧ one.onModule = true := by decide +kernel
theorem witness_EveryStepKeepsMemoryCanonical : State.reset.memOk ∧ one.memOk ∧ (∃ t, step one = .next t) :=
  ⟨rfl, by unfold State.memOk; decide +kernel, ⟨_, rfl⟩⟩

theorem witness_WhereAnInstructionMayExecute :
    one.me.flag stSUP = false ∧ (atM 0 0x800).me.flag stFLW = true ∧
    ((atM 0 0x300).me.flag stFLW = false ∧ (atM 0 0x300).me.flag stMIG = true) ∧
    ((atM 0 0x100).me.flag stFLW = false ∧ (atM 0 0x100).me.flag stMIG = false ∧ (atM 0 0x100).me.flag stHLP = true) ∧
    (one.me.flag stFLW = false ∧ one.me.flag stMIG = false ∧ one.me.flag stHLP = false) ∧
    ((admS.priv = true) ∧ admG.priv = false ∧ admG.flow = false ∧ (admL true).mig = false ∧ admGrp.helper = false ∧
      admFlow.flowOnly = true) := by decide +kernel
theorem witness_TrapsEnterTheHandler :
    one.c < 11 ∧ one.me.hold = none ∧ one.me.guest = none ∧ one.me.flag stTRP = false ∧ one.me.flag stFLW = false ∧
    (one.slot one.k 0).state = .attached ∧ (one.slot one.k 0).bank = 0 ∧ (one.bank (clusOf one.k) 0).poison = 0 ∧
    one.debug = .none := by decide +kernel
theorem witness_DbrkTracesOrStops :
    (one.issues {} ∧ one.coreFlows one.k = false ∧ (one.core one.k).stop = .running) ∧
    (one.stands one.k = true ∧ (one.core one.k).stopReq = none) ∧ (one.vdev (one.traceDevice (one.vdevOf one.k one.c))).trbase = 0 := by
  refine ⟨by unfold State.issues; decide +kernel, by decide +kernel, ?_⟩
  generalize one.traceDevice (one.vdevOf one.k one.c) = d
  by_cases h : d = 1
  · rw [h]; decide +kernel
  · simp [State.vdev, one, Sparse.get, Sparse.find_cons, Ne.symm h]

/-- In a handler with its frame at 0x20 of slot 0. -/
def handler : State := oneWith fun y => { y with st := 0x400, tpc := 0x200, causeRead := true, p := y.p.set 6 0x40 }
theorem witness_EretRestoresTheFrame :
    handler.issues {} ∧ handler.me.flag stTRP = true ∧ (addrOf (handler.me.ptr 6) - 32).toNat = 0x20 ∧
    bits handler.me.tpc 0 2 = 0 ∧ handler.me.st &&& stReserved = 0 := by
  unfold State.issues
  decide +kernel
theorem witness_EretRestoresTheFrame_read :
    handler.frameRead 0x20 = .ok 0 ∧ handler.frameRead 0x28 = .ok 0 ∧ handler.frameRead 0x30 = .ok 0 ∧
    handler.frameRead 0x38 = .ok 0 := ⟨rfl, rfl, rfl, rfl⟩
theorem witness_CsrInstructionsReadAndWrite :
    one.issues {} ∧ one.issues { priv := csrPriv .st } ∧ svc.issues { priv := csrPriv .psel } ∧ (one.ctx 0 0).guest = none ∧
    (one.ctx 0 0).flag stHLP = false ∧ ((atM 0 0x100).ctx 0 0).flag stHLP = true := by
  unfold State.issues
  decide +kernel
theorem witness_ClockAndIdentityReads : one.issues {} ∧ (atM 0 0x2000).issues {} ∧ (atM 0 0x2000).me.flag stRVF = true := by
  unfold State.issues
  decide +kernel
/-- Held in WAITE with a bound of 64 c-cycles that has run out. -/
def waits : State :=
  { oneWith fun y => { y with st := 0x10000, hold := some { instr := .waite 1, since := 10, phase := .poll 0 } } with cyc := 74 }
theorem witness_WaiteReturnsTheLatchesItSelects :
    (oneWith fun y => { y with latches := 3 }).bars {} = none ∧ (oneWith fun y => { y with latches := 3 }).me.hold = none ∧
    (oneWith fun y => { y with latches := 3 }).me.latches &&& 1 ≠ 0 ∧
    waits.bars {} = none ∧ waits.me.hold = some { instr := .waite 1, since := 10, phase := .poll 0 } ∧
    waits.me.latches &&& 1 = 0 ∧ 0 < waits.me.bound ∧ 10 + waits.me.bound ≤ waits.cyc.toNat := by decide +kernel

theorem witness_CachesAndTranslations :
    one.issues {} ∧ svc.issues admS ∧ svc.inService (svc.target 0) = true ∧ svc.inService (svc.target 63) = true ∧
    (tlbwBad 0x0001000000080000 0x000E000000100000 = false ∧ getBit (0x000E000000100000 : Word) 51 = true) ∧
    ∀ all : Bool, (svc.tlbRemove 0 .core all 0x0001000000080000).tlbBusy 0 .core all 0x0001000000080000 = false := by
  unfold State.issues
  decide +kernel
/-- `svc` with core 0 changed. -/
def svcCore (f : Core → Core) : State := svc.setCore 0 (f coreOne)
theorem witness_HaltAndGstopStopCores :
    svc.issues admS ∧ svc.inService (svc.target 0) = true ∧ svc.target 0 = 0 ∧
    (svc.stands 0 = true ∧ (svc.core 0).stop = .running ∧ (svc.core 0).savedAt = none ∧ (svc.core 0).stopReq = none) ∧
    (svcCore fun x => { x with stop := .halted }).issues admS ∧
    (((svcCore fun x => { x with stop := .halted }).core 0).stop = .halted ∧
      ((svcCore fun x => { x with stop := .halted }).core 0).inbox = []) ∧
    (∀ j ∈ svc.gang 0, svc.stands j = true ∧ (svc.core j).saving = false) ∧ svc.gang 0 ≠ [] ∧
    (svcCore fun x => { x with outOfService := true }).issues admS ∧
    (svcCore fun x => { x with outOfService := true }).inService 0 = false := by
  unfold State.issues
  decide +kernel
/-! A save area that reads as it was written: its bytes are the device's own (entry 8), whatever they are. -/

/-- The tables with the zero bytes of the entries that a walk reads listed, so that no walk reads further. -/
def fullTables : List Host.Cell :=
  ([0x4000, 0x5000, 0x6000].flatMap fun a => (List.range 8).map fun i => (a + i, Memory.read tables (a + i))) ++
    (List.range 64).map fun i => (0x6400 + i, Memory.read tables (0x6400 + i))

def areaMem (e : Saved) : List Host.Cell := fullTables ++ (List.range 0x20000).map fun i => (0x100000 + i, e.byte i)

theorem find_append_none (l m : List Host.Cell) (a : Nat) (h : ∀ e ∈ l, e.1 ≠ a) : Sparse.find (l ++ m) a = Sparse.find m a := by
  induction l with
  | nil => rfl
  | cons e t ih =>
    have he : e.1 ≠ a := h e (List.mem_cons_self ..)
    rw [List.cons_append, Sparse.find_cons, if_neg he, ih fun x hx => h x (List.mem_cons_of_mem _ hx)]

theorem find_map_range (f : Nat → Byte) (b i n : Nat) (h : i < n) :
    Sparse.find ((List.range n).map fun j => (b + j, f j)) (b + i) = some (f i) := by
  induction n with
  | zero => omega
  | succ n ih =>
    rw [List.range_succ, List.map_append]
    by_cases hi : i < n
    · have := ih hi
      generalize (List.range n).map (fun j => (b + j, f j)) = l at this ⊢
      induction l with
      | nil => cases this
      | cons e t iht =>
        rw [List.cons_append, Sparse.find_cons] at *
        split at this
        · rename_i hk; rw [if_pos hk]; exact this
        · rename_i hk; rw [if_neg hk]; exact iht this
    · have hn : i = n := by omega
      subst hn
      rw [find_append_none]
      · simp [Sparse.find]
      · intro e he
        obtain ⟨j, hj, rfl⟩ := List.mem_map.mp he
        have := List.mem_range.mp hj
        simp only; omega

theorem area_read (e : Saved) (i : Nat) (h : i < 0x20000) : Memory.read (areaMem e) (0x100000 + i) = e.byte i := by
  unfold Memory.read Sparse.get areaMem
  rw [find_append_none, find_map_range (fun i => e.byte i) _ _ _ h]; · rfl
  intro x hx
  have : ∀ x ∈ fullTables, x.1 < 0x100000 := by decide +kernel
  have := this x hx
  omega

theorem readN_eq (m : List Host.Cell) (f : Nat → Byte) (a n : Nat) (h : ∀ i < n, Memory.read m (a + i) = f i) :
    Memory.readN m a n = leNat ((List.range n).map f) := by
  induction n generalizing a f with
  | zero => rfl
  | succ n ih =>
    rw [List.range_succ_eq_map, List.map_cons, List.map_map]
    simp only [Memory.readN, leNat]
    rw [ih (f ∘ Nat.succ) (a + 1) fun i hi => by
      have := h (i + 1) (by omega)
      rw [show a + 1 + i = a + (i + 1) by omega]; exact this]
    have := h 0 (by omega)
    rw [Nat.add_zero] at this
    rw [this]

theorem get_all {α : Type} (p : α → Prop) (m : Sparse α) (d : α) (k : Nat) (hd : p d) (h : ∀ e ∈ m, p e.2) : p (m.get d k) := by
  unfold Sparse.get
  induction m with
  | nil => exact hd
  | cons e t ih =>
    rw [Sparse.find_cons]
    split
    · exact h e (List.mem_cons_self ..)
    · exact ih fun x hx => h x (List.mem_cons_of_mem _ hx)

def areaPages : List Nat := [0x100000, 0x108000, 0x110000, 0x118000]

theorem areaLine_eq (i : Nat) (h : i < 2048) : areaLine areaPages i = 0x100000 + 64 * i := by
  unfold areaLine areaPages
  have : i / 512 = 0 ∨ i / 512 = 1 ∨ i / 512 = 2 ∨ i / 512 = 3 := by omega
  rcases this with h | h | h | h <;> rw [h] <;> simp <;> omega

theorem area_good (s : State) (key : Nat) (e : Saved) (hm : s.mem = areaMem e) (hl : s.lines = []) (hs : s.stored = [])
    (hf : s.frames = pinned) (hp : s.areaPages key false = some areaPages) : s.areaGood key e = true := by
  unfold State.areaGood
  rw [hp]
  simp only [List.all_eq_true, List.mem_range, Bool.and_eq_true, decide_eq_true_eq]
  intro i hi
  rw [areaLine_eq i hi]
  refine ⟨?_, ?_⟩
  · have ho : ∀ f, (s.frame f).owner = none ∧ (s.frame f).lost = false := fun f => by
      unfold State.frame; rw [hf]
      exact get_all (fun x : Frame => x.owner = none ∧ x.lost = false) _ _ _ ⟨rfl, rfl⟩ (by decide +kernel)
    have hn : ∀ l, s.line l = {} := fun l => by unfold State.line; rw [hl]; rfl
    have hi : ∀ l, s.intact l = true := fun l => by unfold State.intact; rw [hs]; rfl
    simp [State.sliceCheck, State.lineCheck, ho, hn, hi, hs]
  · rw [hm]
    refine readN_eq _ _ _ _ fun j hj => ?_
    rw [Nat.add_assoc, area_read e (64 * i + j) (by omega)]

/-- A service core and a core 0 that holds a context saved in pages 0 to 3 of its device. -/
def savedOne : Saved := { saver := 0, part := 0, vdev := 1, banks := [(2, { full := 1 })], mask := 4, cyc := 9 }
def svcSaved (f : Core → Core) : State :=
  { svc with
    mem := areaMem savedOne, saved := [(0x1000000000000, savedOne)]
    cores := [(0, f coreOne), (655360, { ctxs := [(0, { live := true, pc := 0x40, st := 0x1000 })] })] }

theorem witness_RevokeSaveAndLoadOfACore_revoke :
    svc.issues admS ∧ svc.inService (svc.target 0) = true ∧ (svc.core (svc.target 0)).task ≠ none ∧
    svc.settled (.core svc.k) (.core (svc.target 0)) .ctrl = true ∧
    (((svc.pass (.core svc.k) (.core (svc.target 0)) .ctrl).abortTask (svc.target 0)).core (svc.target 0)).revoking = false ∧
    (svcCore fun x => { x with task := none }).issues admS ∧
    ((svcCore fun x => { x with task := none }).core 0).task = none := by
  unfold State.issues
  decide +kernel
theorem witness_RevokeSaveAndLoadOfACore_save :
    let key := areaKey (svc.areaDevice 0) (addrOf (svc.me.ptr 5))
    let s1 := (((svc.pass (.core svc.k) (.core 0) .ctrl).beginSave 0 key).recallAll 0).drainAcks 0
    (svc.core 0).stop = .running ∧ (svc.core 0).task ≠ none ∧ (svc.core 0).savedAt = none ∧ (svc.core 0).stopReq = none ∧
    (svc.core 0).revoking = false ∧ svc.areaPages key true ≠ none ∧ svc.settled (.core svc.k) (.core 0) .ctrl = true ∧
    s1.areaPages key true = some areaPages ∧ s1.saveReady 0 = true ∧ s1.areaMoves key true = false := by decide +kernel
def svcLoads : State := svcSaved fun x => { x with savedAt := some 0x1000000000000 }
theorem witness_RevokeSaveAndLoadOfACore_load :
    (areaKey (svcLoads.areaDevice 0) (addrOf (svcLoads.me.ptr 5)) = 0x1000000000000 ∧
      svcLoads.issues admS ∧ svcLoads.inService (svcLoads.target 0) = true ∧
      (svcLoads.core 0).savedAt = some 0x1000000000000 ∧
      savedOne.saver = 0 ∧ svcLoads.partOfSite 0 = some savedOne.part ∧ (svcLoads.core 0).inbox = [] ∧
      svcLoads.areaMoves 0x1000000000000 false = false ∧ svcLoads.settled (.core svcLoads.k) (.core 0) .ctrl = true) ∧
    svcLoads.saved.find 0x1000000000000 = some savedOne ∧ svcLoads.areaGood 0x1000000000000 savedOne = true :=
  ⟨by unfold State.issues; decide +kernel, rfl, area_good _ _ _ rfl rfl rfl rfl (by decide +kernel)⟩
/-- `glo` with a failed store in entry 0, and with a store under way there. -/
def failedOne : LogEntry := { state := .failed, addr := 0x80000, pa := 0x100000, size := .b, data := 7, word := 0x1C800000, cause := 0xF }
def gloFailed : State := (glo 0 0).setMe { (glo 0 0).me with log := (glo 0 0).me.log.set 0 failedOne }
theorem witness_ReissuePostsAFailedEntryAgain :
    gloFailed.issues admG ∧ (gloFailed.me.log.get 0).state = .failed ∧ (gloFailed.me.log.get 0).rel = false ∧
    gloFailed.xlateGW false 0x80000 true = .ok 0x100000 ∧ gloFailed.me.postedTo false 0x80000 = false ∧
    gloFailed.fenced gloFailed.k gloFailed.c = false :=
  ⟨⟨by decide +kernel, by decide +kernel⟩, by decide +kernel, by decide +kernel, rfl, by decide +kernel, by decide +kernel⟩

theorem witness_AluOnMemoryArithmetic : (am 5 3 0).lOperand true .d m2 3 ∧ (am 5 0xFE 0).lOperand true .b m2 0xFE :=
  ⟨⟨⟨by decide +kernel, by decide +kernel⟩, by decide +kernel, rfl⟩, ⟨by decide +kernel, by decide +kernel⟩, by decide +kernel, rfl⟩
theorem witness_AluOnMemoryLogicAndShifts : (am 5 64 0).lOperand true .d m2 64 :=
  ⟨⟨by decide +kernel, by decide +kernel⟩, by decide +kernel, rfl⟩
theorem witness_AluOnMemoryProducts :
    (am 5 3 0).lOperand false .d m2 3 ∧ (3 : Word) ≠ 0 ∧ (am 5 0 0).lOperand false .d m2 0 ∧ (am 5 0 0).c < 11 ∧
    (am 5 0 0).me.guest = none ∧ (am 5 0 0).me.flag stTRP = false ∧ ((am 5 0 0).slot (am 5 0 0).k 0).state = .attached ∧
    ((am 5 0 0).bank (clusOf (am 5 0 0).k) ((am 5 0 0).slot (am 5 0 0).k 0).bank).poison = 0 :=
  ⟨⟨⟨by decide +kernel, by decide +kernel⟩, by decide +kernel, rfl⟩, by decide,
    ⟨⟨by decide +kernel, by decide +kernel⟩, by decide +kernel, rfl⟩, by decide +kernel⟩
theorem witness_ImmediateAlu : one.issues {} := ⟨by decide +kernel, by decide +kernel⟩
theorem witness_UnaryFunctions : (atM 0x8000000000000000 0).issues {} := ⟨by decide +kernel, by decide +kernel⟩
theorem witness_PointerFunctions : (aps 1 2 0).issues {} := ⟨by decide +kernel, by decide +kernel⟩
theorem witness_CallWritesP7AndBranches : one.issues {} ∧ (atM 0 0x800).me.flag stFLW = true :=
  ⟨⟨by decide +kernel, by decide +kernel⟩, by decide +kernel⟩
theorem witness_BranchesJumpsAndLoops :
    (aps 0 0x200 0).issues {} ∧ bits (addrOf ((aps 0 0x200 0).me.ptr 1) + (4 : BitVec 16).signExtend 48) 0 2 = 0 ∧
    bits (addrOf ((aps 0 0x200 0).me.ptr 7)) 0 2 = 0 :=
  ⟨⟨by decide +kernel, by decide +kernel⟩, by decide +kernel, by decide +kernel⟩
theorem witness_ScalarFloatingPoint :
    (am 0x3F800000 0x40000000 0).lOperand false .w m2 0x40000000 ∧ (am 0 0x3F80 0).lOperand false .h m2 0x3F80 :=
  ⟨⟨⟨by decide +kernel, by decide +kernel⟩, by decide +kernel, rfl⟩, ⟨by decide +kernel, by decide +kernel⟩, by decide +kernel, rfl⟩
theorem witness_WhatTheScalarInstructionsKeep :
    (am 5 3 0).lOperand false .w m2 3 ∧ (am 5 3 0).lOperand false .h m2 3 ∧ (3 : Word) ≠ 0 ∧
    (∃ t, exec (.add .w m2) (am 5 3 0) = .next t) ∧ (∃ t, exec (.fadd m2) (am 5 3 0) = .next t) ∧
    (∃ t, exec (.fcvtbf m2) (am 5 3 0) = .next t) :=
  ⟨⟨⟨by decide +kernel, by decide +kernel⟩, by decide +kernel, rfl⟩, ⟨⟨by decide +kernel, by decide +kernel⟩, by decide +kernel, rfl⟩,
    by decide, ⟨_, rfl⟩, ⟨_, rfl⟩, ⟨_, rfl⟩⟩
theorem witness_OutOfRangeRecord :
    (outOfRange 0xC000 = true ∧ ctxOne.oorf = false) ∧ { ctxOne with oorf := true }.oorf = true ∧ outOfRange 0xBFFF = false ∧
    ((aps 0 0xC000 0).issues (admL true) ∧ aligned (eaOf m2L (aps 0 0xC000 0).me) 8 = true ∧
      outOfRange (eaOf m2L (aps 0 0xC000 0).me) = true) ∧ one.issues {} := by
  refine ⟨by decide, rfl, by decide, ?_⟩
  unfold State.issues
  decide +kernel

theorem witness_BankLoadsAndStores :
    (aligned (eaOf m2L (aps 0 0xC000 0).me) 8 = true ∧ (aps 0 0xC000 0).issues (admL true) ∧
      outOfRange (eaOf m2L (aps 0 0xC000 0).me) = true) ∧
    (aligned (eaOf m2L (atM 0 0).me) 8 = true ∧ (atM 0 0).issues (admL true) ∧ (atM 0 0).reachesL (eaOf m2L (atM 0 0).me) 1) ∧
    (openA 0 0x1020).issues admC := by
  unfold State.issues State.reachesL
  decide +kernel
theorem witness_BankLoadsAndStores_cluster : (openA 0 0x1020).reachesC (eaOf m2L (openA 0 0x1020).me) 1 := ⟨rfl, by decide +kernel⟩

/-- Device 1 holds window 0, of frame 0x30, with write access. -/
def win : State :=
  { aps 0 0 0 with
    windows := [(0, { owner := 1, va := 0x180000, frames := [0x30], holders := [(1, .grantedWrite)] })]
    frames := pinned ++ [(0x30, { pins := 1, owner := some 1, cove := some 0 })] }
def m13 : MemOp 13 := ⟨1, .disp, 0⟩
theorem reaches_glo (wr : Bool) (o : Order) (sc : Scope) (h : (glo 0 0x80000).mustWait false 0x80000 0x100000 o sc = false)
    (hx : (glo 0 0x80000).xlateGW false 0x80000 wr = .ok 0x100000) : (glo 0 0x80000).reachesG false 0x80000 0x100000 wr o sc :=
  ⟨by decide +kernel, fun _ e => (by cases e), hx, h, by decide +kernel, by decide +kernel, by cases wr <;> decide +kernel⟩
theorem witness_GlobalLoadsReadTheirBytes :
    aligned (eaOf m2L (glo 0 0x80000).me) 8 = true ∧ eaOf m2L (glo 0 0x80000).me = 0x80000 ∧
    (glo 0 0x80000).reachesG false 0x80000 0x100000 false .none .part ∧ aligned (eaOf m13 (glo 0 0x80000).me) 8 = true ∧
    eaOf m13 (glo 0 0x80000).me = 0x80000 ∧ (glo 0 0x80000).reachesG false 0x80000 0x100000 false .ar .sys :=
  ⟨by decide +kernel, by decide +kernel, reaches_glo _ _ _ (by decide +kernel) rfl, by decide +kernel, by decide +kernel,
    reaches_glo _ _ _ (by decide +kernel) rfl⟩
theorem witness_GlobalLoadsReadTheirBytes_window :
    eaOf m2L win.me = 0 ∧ eaOf m13 win.me = 0 ∧ aligned 0 8 = true ∧ win.reachesG true 0 0x180000 false .ar .dev :=
  ⟨by decide +kernel, by decide +kernel, by decide +kernel, by decide +kernel, fun _ e => (by cases e), rfl, by decide +kernel⟩
/-- `glo` with the answer to its load come, and with a store of another core before its load at the slice. -/
def answered : State :=
  (glo 0 0x80000).setMe { (glo 0 0x80000).me with hold := some { instr := .ldg .b false m2L, since := 0, phase := .answered none 7 } }
def behindOne : State := { glo 0 0x80000 with slices := [(0x20, { taken := [{ core := 1, ctx := 0, entry := 0 }] })] }
theorem witness_GlobalLoadsReadTheirBytes_packets :
    (answered.bars admG = none ∧ (answered.taskOf answered.k answered.c).bind Task.twin = none ∧
      answered.me.hold = some { instr := .ldg .b false m2L, since := 0, phase := .answered none 7 }) ∧
    behindOne.sendsG false (eaOf m2L behindOne.me) 0x100000 false .none .part :=
  ⟨by decide +kernel, ⟨by decide +kernel, by decide +kernel⟩, rfl, by decide +kernel⟩
theorem witness_GlobalStoresArePosted :
    freeEntry (glo 7 0x80000).me = some 0 ∧ (glo 7 0x80000).issues admG ∧ aligned (eaOf m2L (glo 7 0x80000).me) 8 = true ∧
    (glo 7 0x80000).xlateGW false (eaOf m2L (glo 7 0x80000).me) true = .ok 0x100000 ∧
    (glo 7 0x80000).me.postedTo false (eaOf m2L (glo 7 0x80000).me) = false ∧ (glo 7 0x80000).fenced 0 0 = false ∧
    (glo 7 0x80000).xlateGW false (eaOf m13 (glo 7 0x80000).me) true = .ok 0x100000 :=
  ⟨by decide +kernel, ⟨by decide +kernel, by decide +kernel⟩, by decide +kernel, rfl, by decide +kernel, by decide +kernel, rfl⟩
theorem witness_GlobalStoresArePosted_window :
    freeEntry win.me = some 0 ∧ win.issues admG ∧ win.xlateGW true (eaOf m2L win.me) true = .ok 0x180000 ∧
    win.me.postedTo true (eaOf m2L win.me) = false ∧ win.fenced 0 0 = false :=
  ⟨by decide +kernel, ⟨by decide +kernel, by decide +kernel⟩, rfl, by decide +kernel, by decide +kernel⟩

theorem witness_FullEmptyAccesses :
    ((atM 0 0).issues (admL false) ∧ aligned (eaOf m2 (atM 0 0).me) 1 = true ∧ (atM 0 0).reachesL (eaOf m2 (atM 0 0).me) 1 ∧
      ((atM 0 0).bank 0 1).isFull (granuleOf (eaOf m2 (atM 0 0).me)) = true ∧ (atM 0 0).feWaiters 0 1 2 = []) ∧
    ((aps 0 0x1030 0).reachesL (eaOf m2 (aps 0 0x1030 0).me) 1 ∧
      ((aps 0 0x1030 0).bank 0 1).isFull (granuleOf (eaOf m2 (aps 0 0x1030 0).me)) = false ∧
      (aps 0 0x1030 0).feWaiters 0 1 3 = []) ∧
    ((openA 0 0x1020).issues admC ∧ aligned (eaOf m2 (openA 0 0x1020).me) 1 = true ∧ (openA 0 0x1020).feWaiters 0 1 2 = []) ∧
    ((aps 0 0xC000 0).issues (admL false) ∧ outOfRange (eaOf m2 (aps 0 0xC000 0).me) = true ∧
      aligned (eaOf m2 (aps 0 0xC000 0).me) 1 = true) := by
  unfold State.issues State.reachesL
  decide +kernel
theorem witness_FullEmptyAccesses_waiter :
    (waitsAt .ldlfC).issues (admL false) ∧ (waitsAt .ldlfC).reachesL (eaOf m2 (waitsAt .ldlfC).me) 1 ∧
    ((waitsAt .ldlfC).bank 0 1).isFull 3 = false ∧
    (waitsAt .ldlfC).feWaiters 0 1 3 = [⟨0, 1, 0, ⟨false, true, .b, m2⟩⟩] ∧ (0, 1) ≠ (waitsAt .ldlfC).cur ∧
    (waitsAt .ldlfC).feLate ⟨0, 1, 0, ⟨false, true, .b, m2⟩⟩ = false ∧
    granuleOf (eaOf m2 ((waitsAt .ldlfC).ctx 0 1)) = 3 ∧ aligned (eaOf m2 ((waitsAt .ldlfC).ctx 0 1)) 1 = true := by
  unfold State.issues State.reachesL
  decide +kernel
theorem witness_FullEmptyAccesses_cluster :
    (openA 0 0x1030).feWaiters 0 1 3 = [] ∧
    (openA 0 0x1020).reachesC (eaOf m2 (openA 0 0x1020).me) 1 ∧ ((openA 0 0x1020).bank 0 1).isFull 2 = true ∧
    (openA 0 0x1030).reachesC (eaOf m2 (openA 0 0x1030).me) 1 ∧ ((openA 0 0x1030).bank 0 1).isFull 3 = false :=
  ⟨by decide +kernel, ⟨rfl, by decide +kernel⟩, by decide +kernel, ⟨rfl, by decide +kernel⟩, by decide +kernel⟩

def m8 : MemOp 8 := ⟨1, .disp, 0⟩
theorem witness_AtomicsUpdateTheirWord :
    aligned (eaOf m8 (glo 0 0x80000).me) (amoSize true).bytes = true ∧ eaOf m8 (glo 0 0x80000).me = 0x80000 ∧
    (glo 0 0x80000).reachesG false 0x80000 0x100000 true .none .part ∧ m8.p ≠ 6 ∧ (openA 0 0x1020).issues admC ∧
    aligned (eaOf m8 (openA 0 0x1020).me) (amoSize true).bytes = true :=
  ⟨by decide +kernel, by decide +kernel, reaches_glo _ _ _ (by decide +kernel) rfl, by decide,
    ⟨by decide +kernel, by decide +kernel⟩, by decide +kernel⟩
theorem witness_AtomicsUpdateTheirWord_cluster : (openA 0 0x1020).reachesC (eaOf m8 (openA 0 0x1020).me) 1 := ⟨rfl, by decide +kernel⟩

/-- `one` with slots 2 ARMED with tag 0x77 and 3 EMPTY; every bank of `full` is held. -/
def armedOne : State := oneCore fun x => x.setSlot 2 { state := .armed, tag := 0x77 }
def fullPool : State :=
  one.setCluster 0 { banks := (List.range 768).map fun b => (b, { state := .held 1 1 }) }
theorem witness_BankInstructionsMoveBanks :
    one.issues { mig := false } ∧ (2 : BitVec 4) ≠ 0 ∧ (one.slot 0 2).state = .empty ∧ (one.cluster 0).pick (quadIn 0) = some 2 ∧
    (bits (2 : Word) 0 10).toNat < 768 ∧ (one.bank 0 2).free = true ∧ (one.bank 0 1).free = false ∧
    fullPool.issues { mig := false } ∧ (fullPool.slot 0 2).state = .empty ∧
    armedOne.issues { mig := false } ∧ (armedOne.slot 0 2).state = .armed ∧
    (one.slot 0 1).state = .attached ∧ one.unitsIn 0 1 = false ∧ (one.core 0).cameTo 1 = false ∧ one.drains 0 1 = false ∧
    (one.bank 0 1).marked = false := by
  unfold State.issues
  decide +kernel
theorem witness_BankInstructionsMoveBanks_none_free : (fullPool.cluster 0).pick (quadIn 0) = none := by decide +kernel
/-- Core 0 about to hand bank 1 to slot 3 of core 1, which is ARMED with `tag`. -/
def handsOver (tag : BitVec 16) : State :=
  { one with cores := [(0, { coreOne with ctxs := [(0, { ctxOne with a := 0x400000770301 })] }),
      (1, { task := some { vdev := 1, part := 0, launch := 0 }, slots := [(3, { state := .armed, tag := tag })] })] }
theorem witness_HandOversMoveABank (tag : BitVec 16) (h : tag = 0x77 ∨ tag = 0x78) :
    (handsOver tag).issues { mig := false } ∧ (1 : BitVec 4) ≠ 0 ∧
    ((handsOver tag).taskOf 0 0).bind Task.twin = none ∧ hovBad (handsOver tag).me.a = false ∧
    hovTarget 0 (handsOver tag).me.a = some 1 ∧ ((handsOver tag).slot 0 1).state = .attached ∧
    ((handsOver tag).core 0).cameTo 1 = false ∧ (handsOver tag).hovReady 0 0 1 = true ∧ (handsOver tag).inService 1 = true ∧
    (handsOver tag).partOf 1 = (handsOver tag).partOf 0 ∧ ((handsOver tag).partOf 0).isSome = true ∧
    ((handsOver tag).core 1).task.isSome = true ∧ ((handsOver tag).core 1).revoking = false ∧ clusOf 1 = clusOf 0 ∧
    ((handsOver tag).slot 1 (hovSlot (handsOver tag).me.a)).state = .armed ∧
    (((handsOver tag).slot 1 (hovSlot (handsOver tag).me.a)).tag = hovTag (handsOver tag).me.a ↔ tag = 0x77) ∧
    (∀ e ∈ ((handsOver tag).core 1).ctxs, e.2.feWaitL = none) ∧
    ((1, hovSlot (handsOver tag).me.a) : Nat × Nat) ≠ (0, 1) := by
  unfold State.issues
  rcases h with rfl | rfl <;> decide +kernel
/-- `one` with its context held in an instruction. -/
def held (i : Instr) (p : Phase) : State := oneWith fun y => { y with hold := some { instr := i, since := 0, phase := p } }
theorem witness_HandOversMoveABank_events :
    (((held (.hov 1) .hovDrain).ctx 0 0).hold = some { instr := .hov 1, since := 0, phase := .hovDrain } ∧
      (held (.hov 1) .hovDrain).hovReady 0 0 1 = true) ∧
    ((held (.hov 1) .hovSent).ctx 0 0).hold = some { instr := .hov 1, since := 0, phase := .hovSent } ∧
    (((held (.hov 1) (.hovBack 2)).ctx 0 0).hold = some { instr := .hov 1, since := 0, phase := .hovBack 2 } ∧
      ((held (.hov 1) (.hovBack 2)).ctx 0 0).live = true) ∧
    (((held (.det 1) (.release 1)).ctx 0 0).hold = some { instr := .det 1, since := 0, phase := .release 1 } ∧
      ((held (.det 1) (.release 1)).bank 0 1).marked = false ∧ (held (.det 1) (.release 1)).drains 0 1 = false) ∧
    (((held (.detZ 1) (.release 1)).ctx 0 0).hold = some { instr := .detZ 1, since := 0, phase := .release 1 } ∧
      (held (.detZ 1) (.release 1)).drains 0 1 = false) ∧
    (((held (.detZ 1) (.zeroing 1)).ctx 0 0).hold = some { instr := .detZ 1, since := 0, phase := .zeroing 1 } ∧
      ((held (.detZ 1) (.zeroing 1)).bank 0 1).marked = false) := by decide +kernel
theorem witness_HandOversMoveABank_waits :
    ∀ j, ∀ e ∈ ((held (.hov 1) .hovSent).core j).ctxs, e.2.feWaitL = none := fun j =>
  get_all (fun x : Core => ∀ e ∈ x.ctxs, e.2.feWaitL = none) _ _ j (fun _ h => nomatch h) (by decide +kernel)

/-- `one` with helper 2 live, and with helper 2 executing. -/
def helper2 : State := one.setCtx 0 2 { live := true, st := 0x100 }
def inHelper2 : State := { helper2 with cur := (0, 2) }
theorem witness_HelpersStartWaitAndEnd :
    one.me.hold = none ∧ one.c = 0 ∧ (one.ctx 0 2).live = false ∧ (one.ctx 0 2).guest = none ∧
    (∀ mig : Bool, one.bars { helper := false, mig := false, twin := !mig } = none) ∧ one.bars { helper := false } = none ∧
    helper2.me.hold = none ∧ (helper2.ctx 0 2).live = true ∧ (helper2.ctx 0 2).guest = none ∧ (helper2.ctx 0 2).away = none ∧
    (helper2.ctx 0 2).midway = false ∧ (helper2.ctx 0 2).anyPosted = false ∧ helper2.bars { helper := false } = none ∧
    inHelper2.me.hold = none ∧ inHelper2.bars {} = none ∧ inHelper2.c ≠ 0 ∧ inHelper2.me.guest = none ∧
    inHelper2.me.flag stTRP = false ∧ inHelper2.me.anyPosted = false := by decide +kernel

theorem witness_TasksEndAndSpawn_end :
    one.issues {} ∧ one.c = 0 ∧ one.me.flag stTRP = false ∧ (one.core 0).task.isSome = true ∧ (one.core 0).liveHelpers = [] ∧
    (one.core 0).anyPosted = false ∧ one.me.anyPosted = false ∧ failedEntry one.me = none ∧ one.unitsOn 0 = false ∧ (one.core 0).enginesIdle = true ∧ one.partOf 0 = some 0 := by
  unfold State.issues
  decide +kernel
/-- A spawn record of zeros at address 0, and one with a reserved bit set. -/
def spawns : State := atM 0 0
def spawnsBad : State := { spawns with mem := tables ++ [(0x100006, 1)] }
def spawnsFull : State := spawns.setPart 0 { spawns.part 0 with spawned := List.replicate 4096 taskOne }
theorem witness_TasksEndAndSpawn_spawn :
    spawns.issues {} ∧ bits (addrOf spawns.me.a) 0 5 = 0 ∧ spawns.releasable 0 0 .dev = true ∧ spawns.fenced 0 0 = false ∧
    spawns.taskOf 0 0 = some taskOne ∧ taskOne.twin = none ∧ spawns.xlateCluster 0 1 0 false = some 0x100000 ∧
    spawns.sliceFree 0x100000 = true ∧ spawns.quiet (.core (spawns.homeOf 0 0)) (.slice (sliceOf 0x100000)) .req .rsp = true ∧
    spawns.sliceCheck 1 0x100000 = none ∧ spawns.spawnBad 1 (Memory.readN spawns.mem 0x100000 32) = false ∧
    (spawns.part 0).spawned.length < 4096 ∧ spawnsBad.issues {} ∧
    spawnsBad.spawnBad 1 (Memory.readN spawnsBad.mem 0x100000 32) = true ∧ spawnsBad.xlateCluster 0 1 0 false = some 0x100000 := by
  unfold State.issues
  decide +kernel
theorem witness_TasksEndAndSpawn_full :
    spawnsFull.issues {} ∧ 4096 ≤ (spawnsFull.part 0).spawned.length ∧
    spawnsFull.spawnBad 1 (Memory.readN spawnsFull.mem 0x100000 32) = false :=
  ⟨⟨by decide +kernel, by decide +kernel⟩, by decide +kernel, by decide +kernel⟩

/-- Group 0 of partition 0 with two members, none of which has arrived. -/
def pair : State := one.setPart 0 ((one.part 0).setGroup 0 { members := [0, 1] })
theorem witness_GroupsAndBarriers :
    (alone.issues admGrp ∧ alone.c = 0 ∧ 0 ∈ ((alone.part alone.myPart).group 0).members ∧ alone.releasable 0 0 .part = true ∧
      ((alone.part 0).group 0).pending = none ∧ (∀ e ∈ ((alone.part 0).group 0).arrived, e.2 = Arrival.bar) ∧
      (∀ j ∈ ((alone.part 0).group 0).members, j = 0 ∨ ∃ e ∈ ((alone.part 0).group 0).arrived, e.1 = j)) ∧
    pair.issues admGrp ∧ (∃ j ∈ ((pair.part 0).group 0).members, j ≠ 0 ∧ ∀ e ∈ ((pair.part 0).group 0).arrived, e.1 ≠ j) ∧
    ((held (.bar 0) (.arrived true false)).ctx 0 0).hold = some { instr := .bar 0, since := 0, phase := .arrived true false } ∧
    pair.partOf 0 = some 0 ∧
    (∀ e ∈ (pair.part 0).groups, 0 ∈ e.2.members →
      ∃ j ∈ ((pair.part 0).group e.1).members, ∀ a ∈ ((pair.part 0).group e.1).arrived, a.1 ≠ j) := by
  unfold State.issues
  decide +kernel
/-- As `pair`, with both members arrived at a barrier and core 0 held there. -/
def meets : State :=
  (held (.bar 0) (.arrived false false)).setPart 0 ((one.part 0).setGroup 0 { members := [0, 1], arrived := [(1, .bar), (0, .bar)] })
theorem witness_GroupsAndBarriers_arrival :
    meets.partOf 0 = some 0 ∧ (meets.part 0).groups = [(0, { members := [0, 1], arrived := [(1, .bar), (0, .bar)] })] ∧
    (∀ j ∈ [0, 1], ∃ e ∈ [((1 : Nat), Arrival.bar), (0, .bar)], e.1 = j) ∧ (meets.ctx 0 0).hold.isSome = true := by decide +kernel
theorem witness_FlowPhasesOpenMoveAndClose_flow :
    alone.issues { helper := false, mig := false, twin := false } ∧ alone.c = 0 ∧ 0 ∈ ((alone.part alone.myPart).group 0).members ∧
    ((alone.part 0).group 0).members.Nodup ∧ (10 : BitVec 14).toNat ≤ (alone.part 0).flowmax.toNat ∧ (alone.core 0).absentSlot = none ∧
    alone.releasable 0 0 .part = true ∧ alone.lockMoves 0 0 (alone.me.pc + 4) = false ∧ ((alone.part 0).group 0).pending = none ∧
    (∀ j ∈ ((alone.part 0).group 0).members, alone.coreRuns j = true) ∧
    (∀ j ∈ ((alone.part 0).group 0).members, j = 0 ∨ ∃ e ∈ ((alone.part 0).group 0).arrived, e.1 = j) ∧
    (∀ e ∈ ((alone.part 0).group 0).arrived, e.2 = Arrival.flow 10) := by
  unfold State.issues
  decide +kernel
/-- As `flows`, with nothing on the selected input. -/
def flowsIdle : State := { flows with cores := flows.cores.take 1 }
theorem witness_FlowPhasesOpenMoveAndClose_moves :
    flows.issues admFlow ∧ (flows.core 0).flowcyc.toNat = (3 : BitVec 16).toNat ∧ bits (addrOf (flows.me.ptr 1)) 0 4 = 0 ∧
    (flows.core 0).sel = some .e ∧ outOfRange (addrOf (flows.me.ptr 1)) = false ∧ flows.input 0 .e = some (0xABC, false) ∧
    flows.phaseSpoiled 0 = false ∧ flowsIdle.issues admFlow ∧ flowsIdle.input 0 .e = none ∧
    (flowsIdle.core 0).flow.isSome = true ∧ flows.c = 0 ∧ flows.partOf 0 = some 0 ∧ ((flows.core 0).flow.map Flow.group) = some 0 ∧
    (((flows.part 0).group 0).phase.map fun r => (r.going, r.faults)) = some ([0], []) := by
  unfold State.issues
  and_intros <;> decide +kernel
theorem witness_FlowPhasesOpenMoveAndClose_granule :
    flows.feWaiters 0 1 2 = [] ∧ flows.lGranule 0 (addrOf (flows.me.ptr 1)) = .ok 0x80FE ∧ flows.lBank 0 true (addrOf (flows.me.ptr 1)) = .ok 1 := ⟨by decide +kernel, rfl, rfl⟩

/-- Core 0 waits in FLOW for the release of group 0; and waits in FLEND for the closing. -/
def waitsFlow : State :=
  { one with
    cores := [(0, { coreOne with
      ctxs := [(0, { ctxOne with hold := some { instr := .flow 0 10, since := 0, phase := .arrived false false } })]
      flow := some { group := 0, n := 10, base := 0x104, words := [] } })]
    parts := [(0, { valid := true, base := 0, len := 4, vdev := 1, groups := [(0, { members := [0], arrived := [(0, .flow 10)], pending := some 10 })] })] }
def flowsOver : State := flows.setCore 0 { flows.core 0 with flowcyc := 10 }
def waitsClosing : State :=
  { flows with
    cores := [(0, { coreOne with
      ctxs := [(0, { ctxOne with hold := some { instr := .flend, since := 0, phase := .closing } })]
      flow := some { group := 0, n := 10, base := 0x104, words := [] } })]
    parts := [(0, { valid := true, base := 0, len := 4, vdev := 1, groups := [(0, { members := [0], phase := some { members := [0], going := [], n := 10 } })] })] }
/-- As `waitsFlow`, with the core still running another program: its cluster sleeps. -/
def waitsRunning : State := waitsFlow.setCluster 0 { waitsFlow.cluster 0 with power := .drowse }
/-- As `waitsClosing`, with a member still in its phase, and without a record of the phase. -/
def closingOpen : State :=
  waitsClosing.setPart 0 ((waitsClosing.part 0).setGroup 0 { members := [0], phase := some { members := [0], going := [1], n := 10 } })
def closingAlone : State := waitsClosing.setPart 0 ((waitsClosing.part 0).setGroup 0 { members := [0] })
theorem witness_EventsOfAFlowPhase :
    (((waitsFlow.part 0).group 0).pending = some 10 ∧ ((waitsFlow.part 0).group 0).members = [0] ∧
      ((waitsFlow.part 0).group 0).arrived = [(0, .flow 10)] ∧ waitsFlow.coreRuns 0 = true ∧ (waitsFlow.core 0).flow.isSome = true) ∧
    (((waitsRunning.part 0).group 0).pending = some 10 ∧ ((waitsRunning.part 0).group 0).members = [0] ∧
      waitsRunning.coreRuns 0 = false) ∧
    (flowsOver.overrun 0 = some 10 ∧ flowsOver.partOf 0 = some 0 ∧ (flowsOver.ctx 0 0).flag stFLW = true ∧
      (flowsOver.ctx 0 0).guest = none ∧ (flowsOver.ctx 0 0).flag stTRP = false ∧ (flowsOver.slot 0 0).state = .attached ∧
      (flowsOver.bank 0 (flowsOver.slot 0 0).bank).poison = 0 ∧ (flowsOver.phaseOf 0).isSome = true ∧ one.overrun 0 = none) := by
  decide +kernel
theorem witness_EventsOfAFlowPhase_closing :
    ((waitsClosing.ctx 0 0).hold = some { instr := .flend, since := 0, phase := .closing } ∧
      (waitsClosing.phaseOf 0).map (fun r => r.2.going) = some []) ∧
    ((closingOpen.ctx 0 0).hold = some { instr := .flend, since := 0, phase := .closing } ∧
      (closingOpen.phaseOf 0).map (fun r => r.2.going) = some [1]) ∧
    ((closingAlone.ctx 0 0).hold = some { instr := .flend, since := 0, phase := .closing } ∧ (closingAlone.phaseOf 0).isNone = true) ∧
    (one.ctx 0 0).phase ≠ some .closing := by decide +kernel

theorem engineTakes_of (s : State) (e : Engine) (m : Adm) (rv : Bool) (h : s.bars m = none ∧ s.me.hold = none ∧
    (s.core s.k).engineAbsent e = false ∧ ((s.core s.k).queueOf e).length < e.depth ∧ s.me.flag stRVF = false ∧ s.me.owed = none) :
    s.engineTakes e m rv := ⟨⟨h.1, h.2.1⟩, h.2.2.1, h.2.2.2.1, fun _ => h.2.2.2.2⟩
theorem footAttached_of (s : State) (f : List (Nat × Nat))
    (h : ∀ r ∈ f, r.2 = 0 ∨ (r.1 + r.2 ≤ 0xC000 ∧ r.1 / 4096 = (r.1 + r.2 - 1) / 4096 ∧ (s.slot s.k (r.1 / 4096)).state = .attached)) :
    s.footAttached f := fun r hr => (h r hr).imp id fun ⟨a, b, c⟩ => ⟨a, fun n h1 h2 => by
      have : n = r.1 / 4096 := by omega
      rw [this]; exact c⟩
theorem witness_EngineRegisterAccessesAndWaits :
    (atM 0 0).engineTakes .mx admE false ∧ (atM 0 0).engineTakes .mx admE true ∧ (atM 0 0).engineTakes .vx admE false ∧
    (atM 0 0).engineTakes .vx admE true ∧ (atM 0 0).engineTakes .cx (admCp true) false ∧
    (atM 0 0).groupRead (addrOf ((atM 0 0).me.ptr 1)) 1 = .ok [0x80FE] ∧
    ((15 : BitVec 4).toNat + (1 : BitVec 5).toNat ≤ 16 ∧ (7 : BitVec 4).toNat + (1 : BitVec 5).toNat ≤ 8 ∧
      (addrOf ((atM 0 0).me.ptr 1)).toNat % 8 = 0 ∧ (addrOf ((atM 0 0).me.ptr 1)).toNat + 8 * (1 : BitVec 5).toNat ≤ 0xC000) :=
  ⟨engineTakes_of _ _ _ _ (by decide +kernel), engineTakes_of _ _ _ _ (by decide +kernel), engineTakes_of _ _ _ _ (by decide +kernel),
    engineTakes_of _ _ _ _ (by decide +kernel), engineTakes_of _ _ _ _ (by decide +kernel), rfl, by decide +kernel⟩
/-- A context that waits for the third command of an engine, the fourth being the oldest one queued. -/
def waitsThird : State :=
  (held .mxwait (.until 3)).setCore 0
    { (held .mxwait (.until 3)).core 0 with mx := { enqueued := 4, completed := 3, queue := [{ id := 3, instr := .mxflip, ctx := 0, pc := 0, nth := 3 }] } }
theorem witness_EngineRegisterAccessesAndWaits_waits :
    (one.bars admE = none ∧ one.bars (admCp true) = none ∧ one.me.hold = none ∧
      (∀ e ∈ [Engine.mx, .vx, .cx], (one.core 0).engineAbsent e = false ∧ (one.core 0).enqueued e = 0 ∧ (one.core 0).queueOf e = []) ∧
      (one.core 0).mx.err = false ∧ (one.core 0).vx.err = false ∧ one.me.flag stRVF = false ∧ one.me.owed = none) ∧
    (waitsThird.bars admE = none ∧ (waitsThird.core 0).engineAbsent .mx = false ∧ waitsThird.me.phase = some (.until 3) ∧
      (∀ q ∈ (waitsThird.core 0).queueOf .mx, 3 ≤ q.nth) ∧ (waitsThird.core 0).mx.err = false) := by decide +kernel

/-- Four elements, at P1 = 0x1020 and P2 = 0x1040. -/
def four : State :=
  (oneWith fun y => { y with p := (y.p.set 1 0x1020).set 2 0x1040 }).setCore 0
    { (oneWith fun y => { y with p := (y.p.set 1 0x1020).set 2 0x1040 }).core 0 with vx := { vc := vcReset.set 0 4 } }
theorem witness_VectorCommandsAreQueued :
    four.engineTakes .vx admE false ∧ (four.core 0).vx.err = false ∧
    (∃ os, vOperands (.vabs 1 2) (four.vcAhead 0) (four.me.ptr 1) (four.me.ptr 2) = some os ∧ (∀ o ∈ os, o.aligned = true) ∧
      os.length = 2 ∧ four.footAttached (os.map VOp.foot).flatten) :=
  ⟨engineTakes_of _ _ _ _ (by decide +kernel), by decide +kernel, _, rfl, by decide +kernel, by decide +kernel,
    footAttached_of _ _ (by decide +kernel)⟩

/-- A weight plane's elements at 0x1000 with the headers at 0, and four copied bytes at 0x1000. -/
def mxAt (cv0 : Word) : State :=
  (aps 0 0x1000 0).setCore 0 { (aps 0 0x1000 0).core 0 with cx := { cv := cvReset.set 0 cv0 } }
theorem witness_MatrixAndCopyCommandsAreQueued :
    (mxAt 4).engineTakes .mx admE false ∧ ((mxAt 4).core 0).mx.err = false ∧
    (addrOf ((mxAt 4).me.ptr 1)).toNat % 16 = 0 ∧ (addrOf ((mxAt 4).me.ptr 2)).toNat % 2 = 0 ∧
    (mxAt 4).footAttached (planeFoot (mgWfmt ((mxAt 4).mgAhead 0)) 0x1000 0) ∧
    mgEs ((mxAt 4).mgAhead 0) % 16 = 0 ∧ mgHs ((mxAt 4).mgAhead 0) % 2 = 0 ∧
    (mxAt 4).footAttached (streamFoot (mgAfmt ((mxAt 4).mgAhead 0)) (mgM ((mxAt 4).mgAhead 0)) (mgEs ((mxAt 4).mgAhead 0))
      (mgHs ((mxAt 4).mgAhead 0)) 0x1000 0) ∧
    (mxAt 4).footAttached ((mxAt 4).core 0).mx.retryFoot ∧ (mxAt 4).engineTakes .cx (admCp true) false ∧
    (mxAt 4).engineTakes .cx (admCp false) false ∧ redMisaligned ((mxAt 4).core 0).cx.ahead ((mxAt 4).me.ptr 1) ((mxAt 4).me.ptr 2) = none ∧
    (∀ i ∈ [Instr.cg2l 1 2, .cl2g 1 2, .cw2l 1 2, .cl2w 1 2, .cl2c 1 2, .cc2l 1 2, .cx2g 1 2, .cg2x 1 2, .rdadd 1 2],
      (mxAt 4).footAttached (copyFoot i ((mxAt 4).core 0).cx.ahead ((mxAt 4).me.ptr 1) ((mxAt 4).me.ptr 2))) ∧
    (copyFoot (.cg2l 1 2) ((mxAt 4).core 0).cx.ahead ((mxAt 4).me.ptr 1) ((mxAt 4).me.ptr 2)).map Prod.snd ≠ [] :=
  ⟨engineTakes_of _ _ _ _ (by decide +kernel), by decide +kernel, by decide +kernel, by decide +kernel,
    footAttached_of _ _ (by decide +kernel), by decide +kernel, by decide +kernel, footAttached_of _ _ (by decide +kernel),
    footAttached_of _ _ (by decide +kernel), engineTakes_of _ _ _ _ (by decide +kernel), engineTakes_of _ _ _ _ (by decide +kernel),
    by decide +kernel, fun i hi => footAttached_of _ _ (by revert i; decide +kernel), by decide +kernel⟩

/-- A visible result, to be drained to slot 1. -/
def drains : State :=
  (aps 0 0x1000 0).setCore 0 { (aps 0 0x1000 0).core 0 with mx := { mg := mgReset.set 9 2 } }
theorem drains_injects_nothing : drains.mgRead (drains.core 0).mx 14 = 0 := by
  have h : mgGet (drains.core 0).mx.mg 14 = 0 := by decide +kernel
  simp [State.mgRead, h]
theorem witness_ADrainWritesWhenItsCheckPasses :
    drains.engineTakes .mx admE false ∧
    ((drains.core 0).mx.err = false ∧ (drains.core 0).mx.queue = [] ∧ (drains.core 0).mx.flag mgVIS = true ∧
      (1 ≤ mgM (drains.core 0).mx.mg ∧ mgM (drains.core 0).mx.mg ≤ 32) ∧
      (1 ≤ mgNcol (drains.core 0).mx.mg ∧ mgNcol (drains.core 0).mx.mg ≤ 32) ∧ mgOfmt (drains.core 0).mx.mg ≠ 3 ∧
      mgScl (drains.core 0).mx.mg = false ∧ mgBia (drains.core 0).mx.mg = false ∧ (addrOf (drains.me.ptr 1)).toNat % 16 = 0 ∧
      mgOs (drains.core 0).mx.mg % 16 = 0) ∧
    drains.footAttached (drainFoot (drains.core 0).mx.mg (addrOf (drains.me.ptr 1)).toNat (addrOf (drains.me.ptr 2)).toNat) ∧
    (injectBad (drains.mgRead (drains.core 0).mx 14) = false ∧
      (((drains.core 0).mx.inject (drains.mgRead (drains.core 0).mx 14)).check).pass = true) ∧
    ((0 < sites) ∧ drains.throttled = false ∧ drains.enginesRun 0 = true ∧
      (∀ j ∈ quadCores (quadOf 0), j ≠ 0 → (drains.core j).mx.queue = []) ∧
      (∀ e ∈ drains.footBanks 0 (drainFoot (drains.core 0).mx.mg (addrOf (drains.me.ptr 1)).toNat (addrOf (drains.me.ptr 2)).toNat),
        e.2 ≠ noBank)) :=
  ⟨engineTakes_of _ _ _ _ (by decide +kernel), by decide +kernel, footAttached_of _ _ (by decide +kernel),
    by rw [drains_injects_nothing]; decide +kernel, by decide +kernel⟩

/-- `glo` with an entry of its log. -/
def logged (e : LogEntry) : State := (glo 0 0).setMe { (glo 0 0).me with log := (glo 0 0).me.log.set 0 e }
/-- A store first in its slice; and the same with its line poisoned. -/
def tookOne : Taken := { core := 0, ctx := 0, entry := 0 }
def slicing : State := { logged { failedOne with state := .taken } with slices := [(0x20, { taken := [tookOne] })] }
def slicingBad : State := { slicing with lines := [(0x4000, { poison := true })] }
/-- The answer to the store of entry 0 come to its core. -/
def ackOne : Packet := { src := .slice 0x20, dst := .core 0, cls := .rsp, seq := 0, level := 0, payload := .ack 0 0 0 }
def acked (x : LogState) : State := { logged { failedOne with state := x } with packets := [(3, ackOne)] }
theorem witness_StoresArePerformedAtTheirSlices :
    ((slicing.logEntry 0 0 0).mate = none ∧ slicing.takenAt 0 0 0 = some (0x20, tookOne) ∧ slicing.servable 0x20 tookOne = true ∧
      slicing.storeFails (slicing.vdevOf 0 0) (slicing.logEntry 0 0 0) false = none) ∧
    (slicingBad.takenAt 0 0 0 = some (0x20, tookOne) ∧ slicingBad.servable 0x20 tookOne = true ∧
      slicingBad.storeFails (slicingBad.vdevOf 0 0) (slicingBad.logEntry 0 0 0) false = some causeEccunc) ∧
    (((acked .performed).logEntry 0 0 0).state = .performed ∧ ((acked .performed).logEntry 0 0 0).mate = none ∧
      ((acked .performed).core 0).revoking = false ∧ (acked .performed).ackOf 0 0 0 = some (3, ackOne) ∧ ackOne.dst = .core 0 ∧
      (acked .performed).fencedNode (.core 0) = false ∧ ((acked .performed).core 0).savedAt = none ∧
      ((acked .performed).core 0).inbox.length < 64 ∧ ((acked .performed).core 0).takesNow ackOne.payload = true) ∧
    (((acked .refused).logEntry 0 0 0).state = .refused ∧ (acked .refused).ackOf 0 0 0 = some (3, ackOne)) := by decide +kernel
/-- As `acked`, with the core stopped. -/
def parks (x : LogState) : State := (acked x).setCore 0 { (acked x).core 0 with stop := .halted }
theorem witness_StoresArePerformedAtTheirSlices_parked :
    (∀ x ∈ [LogState.performed, .refused], ((parks x).logEntry 0 0 0).state = x ∧ ((parks x).logEntry 0 0 0).mate = none ∧
      ((parks x).core 0).revoking = false ∧ (parks x).ackOf 0 0 0 = some (3, ackOne) ∧ (parks x).fencedNode (.core 0) = false ∧
      ((parks x).core 0).savedAt = none ∧ ((parks x).core 0).inbox.length < 64 ∧ ((parks x).core 0).saving = false ∧
      ((parks x).core 0).stop ≠ .running) := by decide +kernel
theorem witness_StoresArePerformedAtTheirSlices_trap :
    (gloFailed.ctx 0 0).lateEntry = some 0 ∧ (gloFailed.ctx 0 0).hold = none ∧ gloFailed.frameReady 0 0 ∧
    (∀ d ∈ gloFailed.vdevs, ∀ x ∈ d.2.streams, x.2.owed = []) ∧ ∀ l ∈ gloFailed.launches, l.2.dones = [] := by
  unfold State.frameReady
  decide +kernel

/-- `glo` with a load held, as it waits for its response. -/
def loading : State :=
  (glo 0 0x80000).setMe { (glo 0 0x80000).me with hold := some { instr := .ldg .d false m2L, since := 0, phase := .held } }
/-- `one` with a translation miss at an address. -/
def misses (va : Addr) : State := oneWith fun y => { y with hold := some { instr := .ldg .b false m2L, since := 0, phase := .miss 1 va false false } }
def missesBad : State := { misses 0x8000 with vdevs := [(1, { keys := true, ptroot := 0x4040 })] }
theorem witness_MissesAndWaitsAreServed_load :
    (loading.ctx 0 0).hold = some { instr := .ldg .d false m2L, since := 0, phase := .held } ∧
    aligned (eaOf m2L (loading.me)) 8 = true ∧ (loading.ctx 0 0).lateEntry = none ∧ loading.enabled 0 0 = true ∧
    loading.reachesG false (eaOf m2L loading.me) 0x100000 false .none .part := by
  refine ⟨rfl, by decide +kernel, by decide +kernel, by decide +kernel, by decide +kernel, fun h e => ?_, rfl, by decide +kernel⟩
  cases e; rfl
theorem witness_MissesAndWaitsAreServed_miss :
    (∀ s ∈ [misses 0x8000, misses 0x40000, missesBad], s.quiet (.core 0) (.core (serviceOf (clusOf 0))) .ctrl .ctrl = true) ∧
    ((misses 0x8000).ctx 0 0).phase = some (.miss 1 0x8000 false false) ∧ (∃ e, (misses 0x8000).walk 1 0x8000 = .leaf e) ∧
    ((misses 0x40000).ctx 0 0).phase = some (.miss 1 0x40000 false false) ∧ (misses 0x40000).walk 1 0x40000 = .none ∧
    (missesBad.ctx 0 0).phase = some (.miss 1 0x8000 false false) ∧ missesBad.walk 1 0x8000 = .malformed :=
  ⟨by decide +kernel, rfl, ⟨_, rfl⟩, rfl, rfl, rfl, rfl⟩
/-- `one` about to fetch where nothing is mapped. -/
def fetchesNowhere : State := oneWith fun y => { y with pc := 0x40000 }
theorem witness_MissesAndWaitsAreServed_fetch :
    (∀ s ∈ [one, fetchesNowhere], s.enabled 0 0 = true ∧ (s.ctx 0 0).hold = none ∧ (s.ctx 0 0).absent = false ∧ s.coreFlows 0 = false ∧
      s.fetchable 0 0 = false ∧ (s.ctx 0 0).codeBad ≠ some (s.ctx 0 0).pc ∧ s.lineMoves 0 (s.vdevOf 0 0) (s.ctx 0 0).pc = false) ∧
    (∃ x, one.readLine 0 (one.vdevOf 0 0) (one.ctx 0 0).pc = .inr (x, true)) ∧
    fetchesNowhere.readLine 0 (fetchesNowhere.vdevOf 0 0) (fetchesNowhere.ctx 0 0).pc = .inl causePagefatal ∧
    fetchesNowhere.frameReady 0 0 :=
  ⟨by decide +kernel, ⟨_, rfl⟩, rfl, by unfold State.frameReady; decide +kernel⟩

def svcRestores (f : Core → Core) : State := svcSaved fun x => f { x with restoreFrom := some 0x1000000000000, slots := x.slots.put 2 { state := .absent } }
def svcWanted : State := svcRestores fun x => { x with ctxs := [(0, { ctxOne with hold := some { instr := .ldl .b false m2L, since := 0, phase := .bankMiss 2 } })] }
def svcAbsent : State := svcRestores fun x => { x with ctxs := [(0, { ctxOne with absent := true })] }
def svcEngine : State :=
  svcRestores fun x => { x with ctxs := [(0, { ctxOne with hold := some { instr := .vwait, since := 0, phase := .engineMiss } })], vx := { absent := true } }
theorem restores_of (f : Core → Core) (h : ((svcRestores f).core 0).restoreFrom = some 0x1000000000000)
    (hp : (svcRestores f).areaPages 0x1000000000000 false = some areaPages) :
    (svcRestores f).restores 0 0x1000000000000 savedOne := ⟨h, rfl, area_good _ _ _ rfl rfl rfl rfl hp⟩
theorem witness_MissesAndWaitsAreServed_restore :
    svcWanted.restores 0 0x1000000000000 savedOne ∧ svcAbsent.restores 0 0x1000000000000 savedOne ∧
    svcEngine.restores 0 0x1000000000000 savedOne ∧
    ((∀ s ∈ [svcWanted, svcAbsent, svcEngine], s.restoreWaits 0 = false) ∧ (svcWanted.slot 0 2).state = .absent ∧ svcWanted.slotWanted 0 2 = true ∧
      (svcWanted.cluster (clusOf 0)).pick (quadIn 0) = some 2 ∧ savedOne.banks.find 2 = some { full := 1 } ∧
      (svcAbsent.ctx 0 0).absent = true ∧ (svcEngine.ctx 0 0).absent = false ∧
      (svcEngine.ctx 0 0).hold = some { instr := .vwait, since := 0, phase := .engineMiss }) :=
  ⟨restores_of _ (by decide +kernel) (by decide +kernel), restores_of _ (by decide +kernel) (by decide +kernel),
    restores_of _ (by decide +kernel) (by decide +kernel), by decide +kernel⟩
def polls : State :=
  { oneWith fun y => { y with st := 0x10000, hold := some { instr := .ldlf .b m2, since := 10, phase := .poll 0x1020 } } with cyc := 74 }
theorem witness_MissesAndWaitsAreServed_wait :
    (polls.ctx 0 0).hold = some { instr := .ldlf .b m2, since := 10, phase := .poll 0x1020 } ∧ (∀ m, Instr.ldlf .b m2 ≠ .waite m) ∧
    (0 < (polls.ctx 0 0).bound ∧ 10 + (polls.ctx 0 0).bound ≤ polls.cyc.toNat) ∧
    ((waits.ctx 0 0).hold = some { instr := .waite 1, since := 10, phase := .poll 0 } ∧ 0 < (waits.ctx 0 0).bound ∧
      10 + (waits.ctx 0 0).bound ≤ waits.cyc.toNat) ∧
    ((oneWith fun y => { y with away := some (1, 4), latches := 5 }).ctx 0 0).away = some (1, 4) ∧
    ((oneWith fun y => { y with away := some (1, 4), latches := 5 }).ctx 0 0).latches ≠ 0 :=
  ⟨rfl, fun m h => (by cases h), by decide +kernel⟩

/-- Core 0 with a request to stop, and in its `DOUBLE` stop; a helper on its way from core 0 to core 1. -/
def saveAsked : State := svcCore fun x => { x with stopReq := some (.save 0x1000000000000) }
def doubled : State := oneCore fun x => { x with stop := .double }
def onItsWay : Migration := { src := 0, dst := 1, home := 0, helper := 2, ctx := { live := true } }
def migrates : State := one.setCluster 0 { one.cluster 0 with moving := [onItsWay] }
theorem witness_StopsAndSavesComplete :
    (((oneCore fun x => { x with stopReq := some .halt }).core 0).stopReq = some .halt ∧
      (oneCore fun x => { x with stopReq := some .halt }).stands 0 = true ∧
      ((oneCore fun x => { x with stopReq := some .halt }).core 0).stop = .running ∧
      ((oneCore fun x => { x with stopReq := some .halt }).core 0).savedAt = none) ∧
    ((saveAsked.core 0).stopReq = some (.save 0x1000000000000) ∧ ((saveAsked.recallAll 0).drainAcks 0).areaPages 0x1000000000000 true = some areaPages ∧
      ((saveAsked.recallAll 0).drainAcks 0).saveReady 0 = true ∧
      ((saveAsked.recallAll 0).drainAcks 0).areaMoves 0x1000000000000 true = false) ∧
    ((doubled.core 0).stop = .double ∧ doubled.debug ≠ .halt ∧ ((doubled.abortTask 0).core 0).revoking = false ∧
      ({ doubled with debug := .halt } : State).debug = .halt ∧ (doubled.core 0).doubleReleased = false) ∧
    getBit ((one.setCluster 0 { one.cluster 0 with migctl := 0 }).cluster 0).migctl 0 = false ∧
    ((migrates.cluster 0).moving = [onItsWay] ∧ onItsWay.dst ≠ onItsWay.home ∧ onItsWay.recalled = false ∧
      seqGet migrates.seqIn (.core onItsWay.src, .core onItsWay.dst, .ctrl) = onItsWay.seq ∧
      migrates.inService onItsWay.dst = true ∧ migrates.freeContext onItsWay.dst = some 1) := by decide +kernel

/-- What a reading answers. -/
def got {α : Type} (g : Got α) : Option α :=
  match g with
  | .ok x => some x
  | _ => none
theorem ok_of {α : Type} {g : Got α} {x : α} (h : got g = some x) : g = .ok x := by
  cases g <;> simp_all [got]
theorem some_of {α : Type} {o : Option α} (h : o.isSome = true) : ∃ x, o = some x := by
  cases o <;> simp_all

/-- One command at the engines of core 0. -/
def cmdOf (i : Instr) : Cmd := { id := 3, instr := i, ctx := 0, pc := 0x100, pa := 0x1000, pb := 0x8000 }
def mxOne (c : Cmd) : State := oneCore fun x => { x with mx := { shadow := some ⟨0, [], [], 0, 0⟩, queue := [c], enqueued := 1 } }
def vxOne (c : Cmd) : State := oneCore fun x => { x with vx := { queue := [c], enqueued := 1 } }
def cxOne (c : Cmd) : State := oneCore fun x => { x with cx := { cv := cvReset.set 0 4, queue := [c], enqueued := 1 } }
theorem witness_EngineGrantsAndCompletions_grants :
    0 ∈ quadCores 0 ∧ (quadCores 0).Nodup ∧
    ((mxOne (cmdOf (.mxwr 3 1))).mxNext 0 0 = some (cmdOf (.mxwr 3 1)) ∧
      ∀ j ∈ quadCores 0, j ≠ 0 → (mxOne (cmdOf (.mxwr 3 1))).mxNext 0 j = none) ∧
    ((mxOne (cmdOf .mxzero)).mxNext 0 0 = some (cmdOf .mxzero) ∧ ∀ j ∈ quadCores 0, j ≠ 0 → (mxOne (cmdOf .mxzero)).mxNext 0 j = none) ∧
    ((mxOne (cmdOf .mxflip)).mxNext 0 0 = some (cmdOf .mxflip) ∧ ((mxOne (cmdOf .mxflip)).core 0).mx.shadow.isSome = true ∧
      ∀ j ∈ quadCores 0, j ≠ 0 → (mxOne (cmdOf .mxflip)).mxNext 0 j = none) ∧
    ((vxOne (cmdOf (.vwr 3 1))).vxNext 0 0 = some (cmdOf (.vwr 3 1)) ∧
      ∀ j ∈ quadCores 0, j ≠ 0 → (vxOne (cmdOf (.vwr 3 1))).vxNext 0 j = none) := by decide +kernel
def ranCmd : Cmd := { cmdOf .mxflip with ran := true, moved := true }
theorem witness_EngineGrantsAndCompletions_completions :
    ((mxOne ranCmd).enginesRun 0 = true ∧ mxTurn ((mxOne ranCmd).core 0).mx.queue = some ranCmd ∧ ranCmd.present = true ∧
      ranCmd.moved = true ∧ (cmdOf .mxflip).started = false) ∧
    ((vxOne ranCmd).enginesRun 0 = true ∧ ((vxOne ranCmd).core 0).vx.queue.find? Cmd.ran = some ranCmd) ∧
    (((cxOne ranCmd).core 0).cx.queue = [ranCmd] ∧ ranCmd.ran = true ∧ ranCmd.answered = true ∧ ((cxOne ranCmd).core 0).savedAt = none) := by
  decide +kernel
theorem single_of (l : List (Nat × CopyReady)) (f : Bool) (h : l.map (fun e => (e.1, e.2.free)) = [(0, f)]) :
    ∃ r, l = [(0, r)] ∧ r.free = f := by
  obtain ⟨e, rfl, h1⟩ := List.map_eq_singleton_iff.mp h
  exact ⟨e.2, congrArg (fun a => [(a, e.2)]) (congrArg Prod.fst h1), congrArg Prod.snd h1⟩
theorem witness_EngineGrantsAndCompletions_copy :
    (∃ r, (cxOne (cmdOf (.cg2l 1 2))).copyReady 0 = [(0, r)] ∧ r.free = false) ∧
    ∃ r, (cxOne (cmdOf (.cwr 1 2))).copyReady 0 = [(0, r)] ∧ r.free = true :=
  ⟨single_of ((cxOne (cmdOf (.cg2l 1 2))).copyReady 0) false (by decide +kernel),
    single_of ((cxOne (cmdOf (.cwr 1 2))).copyReady 0) true (by decide +kernel)⟩
/-- The slice of address 0x100000 with a queue and open elements. -/
def reduces (l : List CollItem) (m : Sparse RAcc) : State := { one with slices := [(0x20, { coll := l, accs := m })] }
def accOne : RAcc := { bf16 := false, det := false, count := 1, got := 1, sum := 7 }
def contributes : State := reduces [.add 0 0 3 0x100000 false false 4 0 7] []
def flushes : State := reduces [.flush 0 3 1 0x100000 false] [(0x100000, accOne)]
def owes : State := oneCore fun x => { x with returns := [(0, 4, 9)], ctxs := [(0, { ctxOne with owed := some 4 })] }
theorem witness_EngineGrantsAndCompletions_reducers :
    ((contributes.slice 0x20).coll = [.add 0 0 3 0x100000 false false 4 0 7] ∧ (contributes.slice 0x20).accs.find 0x100000 = none ∧
      (contributes.slice 0x20).overlaps 0x100000 false = false ∧ (contributes.slice 0x20).accs.length < 16384) ∧
    ((flushes.slice 0x20).coll = [.flush 0 3 1 0x100000 false] ∧ (flushes.slice 0x20).accs.find 0x100000 = some accOne ∧
      accOne.bad = false ∧ accOne.bf16 = false ∧ accOne.det = false ∧ flushes.deviceHeld 1 = false ∧ flushes.sliceFree 0x100000 = true ∧
      flushes.sliceCheck 1 0x100000 = none) ∧
    ((owes.core 0).returns = [(0, 4, 9)] ∧ (owes.ctx 0 0).owed = some 4) := by decide +kernel

/-- Device 1 with stream 0, its ring at 0x8000 (physical 0x108000), and more memory. -/
def streamed (x : Stream) (m : List Host.Cell) : State :=
  { one with mem := tables ++ m, vdevs := [(1, { keys := true, ptroot := 0x4000, streams := [(0, x)] })] }
def fetches (m : List Host.Cell) : State := streamed { live := true, base := 0x8000, tail := 1 } m
-- WAITV on the doubleword at 0
theorem witness_StreamsFetchRunAndComplete_fetch :
    ((fetches [(0x108000, 5)]).mayFetch 1 0 = true ∧ ((fetches [(0x108000, 5)]).strm 1 0).err = false ∧
      (fetches [(0x108000, 5)]).recordOk 1 5 = true) ∧
    ((fetches []).mayFetch 1 0 = true ∧ ((fetches []).strm 1 0).err = false ∧ (fetches []).recordOk 1 0 = false) := by decide +kernel
theorem witness_StreamsFetchRunAndComplete_read :
    (fetches [(0x108000, 5)]).readRecord 1 (((fetches [(0x108000, 5)]).strm 1 0).recordAt ((fetches [(0x108000, 5)]).strm 1 0).head) = .ok 5 ∧
    (fetches []).readRecord 1 (((fetches []).strm 1 0).recordAt ((fetches []).strm 1 0).head) = .ok 0 := ⟨ok_of (by decide +kernel), ok_of (by decide +kernel)⟩
/-- A job of a stream that is running. -/
def jobOf (rc : BitVec 512) : Job := { rc := rc, state := .running }
def running (rc : BitVec 512) (m : List Host.Cell) : State := streamed { live := true, jobs := [(0, jobOf rc)] } m
def ends : State := running (5 + 8 * 2 ^ 16) []
theorem witness_StreamsFetchRunAndComplete_end :
    (ends.job 1 0 0 = some (jobOf (5 + 8 * 2 ^ 16)) ∧ stFailed < 256 ∧ 2 ^ 32 - 1 < 2 ^ 32 ∧ rcCw (jobOf (5 + 8 * 2 ^ 16)).rc ≠ 0 ∧
      (rcCw (jobOf (5 + 8 * 2 ^ 16)).rc).toNat % 8 = 0 ∧ (ends.strm 1 0).owed = [] ∧ ends.deviceBehind 1 = false ∧
      ends.sliceCheck 1 0x100008 = none) ∧
    (((streamed { live := true, dying := true } []).strm 1 0).live = true ∧ ((streamed { live := true, dying := true } []).strm 1 0).dying = true ∧
      ((streamed { live := true, dying := true } []).strm 1 0).jobs = [] ∧
      ((streamed { live := true, dying := true } []).strm 1 0).head = ((streamed { live := true, dying := true } []).strm 1 0).tail ∧
      ((streamed { live := true, dying := true } []).strm 1 0).owed = []) := by decide +kernel
theorem witness_StreamsFetchRunAndComplete_word : ends.deviceXlate 1 (rcCw (jobOf (5 + 8 * 2 ^ 16)).rc).toNat true = .ok 0x100008 :=
  ok_of (by decide +kernel)

/-- A descriptor of one node, a `WAITV` without predecessors, at 0x8000. -/
def oneNode : List Host.Cell := [(0x108000, 1), (0x108040, 5)] ++ (List.range 8).map fun i => (0x108080 + i, 0xFF)
def graphed (rc : BitVec 512) (gs : Sparse Graph) : State :=
  { one with mem := tables ++ oneNode, vdevs := [(1, { keys := true, ptroot := 0x4000, graphs := gs, streams := [(0, { live := true, jobs := [(0, jobOf rc)] })] })] }
def graphOne : Graph := { nodes := [(5, [])] }
def nodeBytes : List Byte :=
  1 :: List.replicate 63 0 ++ 5 :: List.replicate 63 0 ++ List.replicate 8 0xFF ++ List.replicate 56 0
def defines : State := graphed (2 + 0x8000 * 2 ^ 128) []
theorem newGraphId_of (s : State) (v : Nat) (h : ((List.range 4096).filter fun g => ((s.vdev v).graphs.find g).isNone).isEmpty = false) :
    ∃ id, s.newGraphId v = some id := by
  unfold State.newGraphId
  simp only [h]
  exact ⟨_, rfl⟩
theorem witness_GraphCommandsAndNodes_define :
    defines.runs 1 0 0 0x02 = some (jobOf (2 + 0x8000 * 2 ^ 128)) ∧ rcSub (jobOf (2 + 0x8000 * 2 ^ 128)).rc = 0 ∧
    defines.deviceRead 1 0x8000 64 false = .ok (1 :: List.replicate 63 0) ∧
    defines.deviceRead 1 0x8000 (64 + 128 * min 1024 (leNat (1 :: List.replicate 63 0) % 2 ^ 11)) false = .ok nodeBytes ∧
    defines.readNodes 1 nodeBytes = some [(5, [])] ∧
    ∃ id, defines.newGraphId 1 = some id :=
  ⟨by decide +kernel, by decide +kernel, ok_of (by decide +kernel), ok_of (by decide +kernel), by decide +kernel, newGraphId_of _ _ (by decide +kernel)⟩
theorem witness_GraphCommandsAndNodes_commands :
    ((graphed (2 + 2 ^ 64) [(0, graphOne)]).runs 1 0 0 0x02 = some (jobOf (2 + 2 ^ 64)) ∧ rcSub (jobOf (2 + 2 ^ 64)).rc = 1 ∧
      ((graphed (2 + 2 ^ 64) [(0, graphOne)]).strm 1 0).graph = none ∧
      ((graphed (2 + 2 ^ 64) [(0, graphOne)]).vdev 1).graphs.find (rcField (jobOf (2 + 2 ^ 64)).rc 80 12) = some graphOne) ∧
    ((graphed (2 + 2 * 2 ^ 64 + 0x8040 * 2 ^ 128) [(0, graphOne)]).runs 1 0 0 0x02 = some (jobOf (2 + 2 * 2 ^ 64 + 0x8040 * 2 ^ 128)) ∧
      rcSub (jobOf (2 + 2 * 2 ^ 64 + 0x8040 * 2 ^ 128)).rc = 2 ∧ graphOne.live = 0 ∧ rcCopy (jobOf (2 + 2 * 2 ^ 64 + 0x8040 * 2 ^ 128)).rc = false ∧
      (graphed (2 + 2 * 2 ^ 64 + 0x8040 * 2 ^ 128) [(0, graphOne)]).editOk 1 graphOne 0 5 = true) ∧
    ((graphed (2 + 3 * 2 ^ 64) [(0, graphOne)]).runs 1 0 0 0x02 = some (jobOf (2 + 3 * 2 ^ 64)) ∧ rcSub (jobOf (2 + 3 * 2 ^ 64)).rc = 3 ∧
      (graphed (2 + 3 * 2 ^ 64) [(0, { graphOne with live := 1 })]).runs 1 0 0 0x02 = some (jobOf (2 + 3 * 2 ^ 64)) ∧
      ((graphed (2 + 3 * 2 ^ 64) []).vdev 1).graphs.find 0 = none) := by decide +kernel
theorem witness_GraphCommandsAndNodes_edit :
    (graphed (2 + 2 * 2 ^ 64 + 0x8040 * 2 ^ 128) [(0, graphOne)]).deviceRead 1 0x8040 64 false = .ok (5 :: List.replicate 63 0) ∧
    BitVec.ofNat 512 (leNat (5 :: List.replicate 63 0)) = 5 :=
  ⟨ok_of (by decide +kernel), by decide +kernel⟩
def waitsNode : State := streamed { live := true, graph := some 0, jobs := [(0, jobOf (2 + 2 ^ 64)), (1, { rc := 5, state := .done }), (2, { rc := 5, preds := [0] })] } []
theorem witness_GraphCommandsAndNodes_node :
    (waitsNode.strm 1 0).jobs.find 2 = some { rc := 5, preds := [0] } ∧ (waitsNode.strm 1 0).dying = false ∧ waitsNode.deviceHeld 1 = false ∧
    (waitsNode.strm 1 0).owed = [] ∧ ({ rc := 5, preds := [0] } : Job).state = .waiting ∧
    (∀ p ∈ [0], ((waitsNode.strm 1 0).jobs.find (p + 1)).map Job.state = some .done) := by decide +kernel

/-- A parameter block: one task at ENTRY 0x100, with a resident region of one line at 0; the same co-resident. -/
def lpbOne : BitVec 512 := 0x100 + 2 ^ 176
def lpbTogether : BitVec 512 := lpbOne + 0x4 * 2 ^ 384
def launchRc : BitVec 512 := 1 + 0x8000 * 2 ^ 64
def launching (m : List Host.Cell) : State := { running launchRc m with cores := [] }
def launchOf (w : BitVec 512) : Launch := { lpb := w, vdev := 1, part := 0, stream := 0, job := 0 }
/-- A module without tasks and with a launch. -/
def placing (x : Launch) : State := { running launchRc [] with cores := [], launches := [(0, x)] }
theorem witness_LaunchesPlaceTheirTasks_launch :
    ((launching [(0x108001, 1), (0x108016, 1)]).runs 1 0 0 0x01 = some (jobOf launchRc) ∧ (jobOf launchRc).launch = none ∧
      (rcAddr (jobOf launchRc).rc 64).toNat = 0x8000 ∧
      (launching [(0x108001, 1), (0x108016, 1)]).launchFails 1 0 lpbOne = none ∧
      (launching [(0x108001, 1), (0x108016, 1)]).pagesMove 1 (lpbResb lpbOne) (64 * lpbResl lpbOne) = false) ∧
    ((launching []).runs 1 0 0 0x01 = some (jobOf launchRc) ∧ (launching []).launchFails 1 0 0 = some 0x02) := by decide +kernel
theorem witness_LaunchesPlaceTheirTasks_block :
    (launching [(0x108001, 1), (0x108016, 1)]).readRecord 1 0x8000 = .ok lpbOne ∧ (launching []).readRecord 1 0x8000 = .ok 0 :=
  ⟨ok_of (by decide +kernel), ok_of (by decide +kernel)⟩
theorem witness_LaunchesPlaceTheirTasks_place :
    let s := placing (launchOf lpbOne)
    s.launches.find 0 = some (launchOf lpbOne) ∧ s.partHeld 0 = false ∧ (s.headLaunch 0).map Prod.fst = some 0 ∧ 0 < sites ∧
    lpbCor lpbOne = false ∧ lpbSwiz lpbOne = 0 ∧ 0 < lpbTasks lpbOne ∧ s.findRun 0 (launchOf lpbOne) 1 = some [[0]] ∧
    s.imagesMove 1 lpbOne = false ∧
    (s.part 0).spawned = [] := by decide +kernel
theorem witness_LaunchesPlaceTheirTasks_placeSpawned : (placing (launchOf lpbOne)).placeSpawned 0 = none := rfl
theorem witness_LaunchesPlaceTheirTasks_together :
    let s := placing (launchOf lpbTogether)
    let t := placing { launchOf lpbTogether with holding := true }
    (s.launches.find 0 = some (launchOf lpbTogether) ∧ s.partHeld 0 = false ∧ lpbCor lpbTogether = true ∧ (s.part 0).spawned = [] ∧
      s.headLaunch 0 = some (0, launchOf lpbTogether)) ∧
    ((t.headLaunch 0).map Prod.fst = some 0 ∧ (State.placeAll 0 (lpbRuns lpbTogether) t).isSome = true) := by decide +kernel
def spawnedOne : Task := { taskOne with spawn := some (0x100, 0, 7) }
def spawnPlacing : State :=
  { placing { launchOf lpbOne with nextRun := 1, started := 1, ended := 1, spawned := 1 } with
    parts := [(0, { valid := true, base := 0, len := 4, vdev := 1, spawned := [spawnedOne] })] }
theorem witness_LaunchesPlaceTheirTasks_spawn :
    (spawnPlacing.part 0).spawned = [spawnedOne] ∧ spawnedOne.spawn = some (0x100, 0, 7) ∧
    spawnPlacing.launches.find spawnedOne.launch = some { launchOf lpbOne with nextRun := 1, started := 1, ended := 1, spawned := 1 } ∧
    spawnPlacing.partHeld 0 = false ∧ spawnPlacing.coresHeld 0 = false ∧ spawnPlacing.imagesMove 1 lpbOne = false ∧
    spawnPlacing.nearest 0 { launchOf lpbOne with nextRun := 1, started := 1, ended := 1, spawned := 1 } spawnedOne = some [1] := by decide +kernel
theorem witness_LaunchesPlaceTheirTasks_complete :
    (placing { launchOf lpbOne with nextRun := 1, started := 1, ended := 1 }).launches.find 0 =
      some { launchOf lpbOne with nextRun := 1, started := 1, ended := 1 } ∧
    ({ launchOf lpbOne with nextRun := 1, started := 1, ended := 1 } : Launch).finished = true := by decide +kernel

theorem got_of {α : Type} {g : Got α} (h : (got g).isSome = true) : ∃ x, g = .ok x := by
  cases g <;> simp_all [got]
/-- A job part of the way through. -/
def runningAt (rc : BitVec 512) (n : Nat) : State :=
  streamed { live := true, jobs := [(0, { jobOf rc with pos := n })] } []
def copyRc : BitVec 512 := 3 + 0xF8 * 2 ^ 64 + 0x8000 * 2 ^ 128 + 16 * 2 ^ 176
def fillRc : BitVec 512 := 4 + 0xF8 * 2 ^ 64 + 0x1122 * 2 ^ 128 + 16 * 2 ^ 192
theorem witness_StreamCommandsMoveBytesAndPages_copy :
    (∀ n ∈ [0, 8], (runningAt copyRc n).runs 1 0 0 0x03 = some { jobOf copyRc with pos := n } ∧ rcField copyRc 176 40 = 16 ∧
      granulePiece 0xF8 n 16 = 8 ∧ ∀ i < 8, (runningAt copyRc n).copyOverlap 1 0xF8 0x8000 16 (n + i) = false) ∧
    (∀ n ∈ [0, 8], (runningAt fillRc n).runs 1 0 0 0x04 = some { jobOf fillRc with pos := n } ∧ rcField fillRc 192 40 = 16 ∧
      granulePiece 0xF8 n 16 / 8 = 1) ∧ (jobOf copyRc).kill = false ∧ (jobOf fillRc).kill = false := by decide +kernel
theorem witness_StreamCommandsMoveBytesAndPages_bytes :
    (∀ n ∈ [0, 8], (runningAt copyRc n).deviceRead 1 (0x8000 + n) 8 false = .ok (List.replicate 8 0)) ∧
    (∀ n ∈ [0, 8], ∃ s1, (runningAt copyRc n).piecePut 1 0xF8 n 16 (List.replicate 8 0) = .ok s1) ∧
    ∀ n ∈ [0, 8], ∃ s1, (runningAt fillRc n).piecePut 1 0xF8 n 16 (List.replicate 1 (leBytes 8 0x1122)).flatten = .ok s1 :=
  ⟨fun n hn => ok_of (by revert n; decide +kernel), fun n hn => got_of (by revert n; decide +kernel),
    fun n hn => got_of (by revert n; decide +kernel)⟩
def unmet : BitVec 512 := 5 + 2 ^ 128 + 2 ^ 192
def bounded : BitVec 512 := unmet + 2 ^ 224
def signals : BitVec 512 := 6 + 7 * 2 ^ 128
def adds : BitVec 512 := signals + 2 ^ 192
theorem witness_StreamCommandsMoveBytesAndPages_waitAndSignal :
    ((running 5 []).runs 1 0 0 0x05 = some (jobOf 5) ∧ waitvHolds 5 0 = true) ∧
    ((running unmet []).runs 1 0 0 0x05 = some (jobOf unmet) ∧ waitvHolds unmet 0 = false) ∧
    (({ running bounded [] with cyc := 400 } : State).runs 1 0 0 0x05 = some (jobOf bounded) ∧ rcField bounded 224 32 = 1 ∧
      (jobOf bounded).since + 400 * 1 ≤ ({ running bounded [] with cyc := 400 } : State).cyc.toNat) ∧
    (running signals []).deviceBehind 1 = false ∧ (running adds []).deviceBehind 1 = false ∧
    ((running signals []).runs 1 0 0 0x06 = some (jobOf signals) ∧ rcField signals 192 1 = 0) ∧
    (running adds []).runs 1 0 0 0x06 = some (jobOf adds) ∧ rcField adds 192 1 = 1 := by decide +kernel
theorem witness_StreamCommandsMoveBytesAndPages_words :
    (running 5 []).deviceRead 1 0 8 true = .ok (List.replicate 8 0) ∧ (running unmet []).deviceRead 1 0 8 true = .ok (List.replicate 8 0) ∧
    (running adds []).deviceRead 1 0 8 false = .ok (List.replicate 8 0) ∧
    (∃ s1, (running signals []).deviceWrite 1 0 (leBytes 8 7) = .ok s1) ∧ ∃ s1, (running adds []).deviceWrite 1 0 (leBytes 8 7) = .ok s1 :=
  ⟨ok_of (by decide +kernel), ok_of (by decide +kernel), ok_of (by decide +kernel), got_of (by decide +kernel), got_of (by decide +kernel)⟩
def pinRc (op a : BitVec 512) : BitVec 512 := op + a * 2 ^ 64 + 2 ^ 112
theorem witness_StreamCommandsMoveBytesAndPages_pin :
    ((running (pinRc 7 0) []).runs 1 0 0 0x07 = some (jobOf (pinRc 7 0)) ∧
      (State.pinAll 1 (rangePages (pinRc 7 0)) ((running (pinRc 7 0) []).walkPages 1 (rangePages (pinRc 7 0)))).isSome = true) ∧
    ((running (pinRc 7 0x40000) []).runs 1 0 0 0x07 = some (jobOf (pinRc 7 0x40000)) ∧
      (State.pinAll 1 (rangePages (pinRc 7 0x40000)) ((running (pinRc 7 0x40000) []).walkPages 1 (rangePages (pinRc 7 0x40000)))).isNone = true) ∧
    ((running (pinRc 8 0x8000) []).runs 1 0 0 0x08 = some (jobOf (pinRc 8 0x8000)) ∧
      (rangePages (pinRc 8 0x8000) = [0x8000] ∧ (running (pinRc 8 0x8000) []).ringPage 1 0x8000 = false) ∧ (jobOf (pinRc 8 0x8000)).pos ≠ 1 ∧
      (State.unpinAll 1 (rangePages (pinRc 8 0x8000)) ((running (pinRc 8 0x8000) []).walkPages 1 (rangePages (pinRc 8 0x8000)))).isSome = true) ∧
    ((running (pinRc 8 0x40000) []).runs 1 0 0 0x08 = some (jobOf (pinRc 8 0x40000)) ∧ (running (pinRc 8 0x40000) []).ringPage 1 0x40000 = false ∧
      (State.unpinAll 1 (rangePages (pinRc 8 0x40000)) ((running (pinRc 8 0x40000) []).walkPages 1 (rangePages (pinRc 8 0x40000)))).isNone = true) ∧
    (runningAt (pinRc 8 0x8000) 1).runs 1 0 0 0x08 = some { jobOf (pinRc 8 0x8000) with pos := 1 } ∧
      (runningAt (pinRc 8 0x8000) 1).ringPage 1 0x8000 = false ∧
      (runningAt (pinRc 8 0x8000) 1).accessesTo (((rangePages (pinRc 8 0x8000)).filterMap fun a => (runningAt (pinRc 8 0x8000) 1).pageFrame 1 a).filter
        fun f => decide (((runningAt (pinRc 8 0x8000) 1).frame f).pins = 0)) false = false := by decide +kernel
/-- Page 0x40000 of device 1 lies in tier-1 frame 0, in some state, with a `TIER` command of a policy. -/
def tierRc (policy : BitVec 512) : BitVec 512 := pinRc 9 0x40000 + policy * 2 ^ 144
def tiered (policy : BitVec 512) (room : Word) (x : Frame) : State :=
  { streamed { live := true, jobs := [(0, jobOf (tierRc policy))] } [(0x6446, 0x1F)] with
    t1frames := 16, promo := room, frames := pinned ++ [(2 ^ 33, x)] }
def up : Frame := { pins := 1, promoted := true }
def down : Frame := { pins := 1 }
def tierOf (policy : BitVec 512) (room : Word) (x : Frame) : Prop :=
  (tiered policy room x).runs 1 0 0 0x09 = some (jobOf (tierRc policy)) ∧ (tiered policy room x).tierFrames 1 (tierRc policy) = some [2 ^ 33] ∧
    rcField (tierRc policy) 144 2 = policy.toNat ∧ (jobOf (tierRc policy)).detail = 0
theorem witness_StreamCommandsMoveBytesAndPages_tier :
    (∀ e ∈ [(up, true), (down, false)], ((tiered 0 1 e.1).frame (2 ^ 33)).moving = false ∧ ((tiered 0 1 e.1).frame (2 ^ 33)).promoted = e.2) ∧
    (tiered 0 1 down).poolRoom (2 ^ 33) = true ∧ (tiered 0 0 down).poolRoom (2 ^ 33) = false ∧
    (up.pins = 1 ∧ down.pins = 1) ∧ ((tiered 0 1 { up with moving := true }).frame (2 ^ 33)).moving = true ∧
    ((tiered 0 1 { up with automatic := true }).frame (2 ^ 33)).automatic = true := by decide +kernel
theorem witness_StreamCommandsMoveBytesAndPages_policies :
    tierOf 0 1 up ∧ tierOf 0 1 down ∧ tierOf 0 0 down ∧ tierOf 1 1 down ∧ tierOf 1 1 up ∧ tierOf 2 1 up := by
  unfold tierOf
  decide +kernel
/-- As `tiered`, with the frames found. -/
def tierJob (policy : BitVec 512) : Job := { jobOf (tierRc policy) with pos := 1, frames := [2 ^ 33] }
def tierOn (policy : BitVec 512) (x : Frame) : State :=
  { tiered policy 1 x with vdevs := [(1, { keys := true, ptroot := 0x4000, streams := [(0, { live := true, jobs := [(0, tierJob policy)] })] })] }
theorem witness_StreamCommandsMoveBytesAndPages_tierOn :
    ∀ p ∈ [(0, up), (0, { up with moving := true }), (0, down), (1, up), (1, down)], (tierOn p.1 p.2).runs 1 0 0 0x09 = some (tierJob p.1) ∧
      (tierOn p.1 p.2).frame (2 ^ 33) = p.2 ∧ (p.2 = down → (tierOn p.1 p.2).poolRoom (2 ^ 33) = true) := by decide +kernel

/-- A management command on device 1, part of the way through. -/
def mgRc (op sub rest : BitVec 512) : BitVec 512 := op + sub * 2 ^ 64 + 2 ^ 80 + rest
def manages (op sub rest : BitVec 512) (n : Nat) : State := { runningAt (mgRc op sub rest) n with cores := [] }
def does (s : State) (op sub rest : BitVec 512) (n : Nat) : Bool :=
  decide (s.runs 1 0 0 op.toNat = some { jobOf (mgRc op sub rest) with pos := n }) && decide (rcSub (mgRc op sub rest) = sub.toNat) &&
    decide (rcVdev (mgRc op sub rest) = 1)
theorem witness_ManagementCommandsActOnDevices_preempt :
    (does (manages 0x0A 0 0 1) 0x0A 0 0 1 = true ∧ (manages 0x0A 0 0 1).liveCores 0 = []) ∧
    (does (manages 0x0A 1 0 0) 0x0A 1 0 0 = true ∧ (manages 0x0A 1 0 0).savedCores 1 0 (rcField (mgRc 0x0A 1 0) 128 48) = []) ∧
    does (manages 0x0B 0 0 0) 0x0B 0 0 0 = true ∧ does (manages 0x0B 1 0 0) 0x0B 1 0 0 = true := by decide +kernel
/-- As `manages`, on a device that has no keys. -/
def keyless : State := { manages 0x0C 0 0 0 with vdevs := [(1, { ((manages 0x0C 0 0 0).vdev 1) with keys := false })] }
theorem witness_ManagementCommandsActOnDevices_keys :
    (does keyless 0x0C 0 0 0 = true ∧ (keyless.vdev 1).keys = false) ∧
    (does (manages 0x0C 0 0 0) 0x0C 0 0 0 = true ∧ ((manages 0x0C 0 0 0).vdev 1).keys = true) ∧
    (does (manages 0x0C 1 0 1) 0x0C 1 0 1 = true ∧ (manages 0x0C 1 0 1).streamsGone 1 1 0 = true) ∧
    does (manages 0x0C 1 0 2) 0x0C 1 0 2 = true := by decide +kernel
/-- One page at an address, for window 0; and the state with that window. -/
def coveRest (a : BitVec 512) : BitVec 512 := a * 2 ^ 112 + 2 ^ 160
def winOne : Window := { owner := 1, va := 0, frames := [0x20], holders := [(1, .grantedWrite)] }
def coved (sub : BitVec 512) (n : Nat) : State := { manages 0x0D sub 0 n with windows := [(0, winOne)] }
theorem witness_ManagementCommandsActOnDevices_windows :
    (does (manages 0x0D 0 (coveRest 0) 0) 0x0D 0 (coveRest 0) 0 = true ∧
      (manages 0x0D 0 (coveRest 0) 0).coveFrames (mgRc 0x0D 0 (coveRest 0)) = some [0x20] ∧ rcWin (mgRc 0x0D 0 (coveRest 0)) = 0 ∧
      (manages 0x0D 0 (coveRest 0) 0).windows.find 0 = none ∧ (manages 0x0D 0 (coveRest 0) 0).accessesTo [0x20] false = false) ∧
    (does (manages 0x0D 0 (coveRest 0x40000) 0) 0x0D 0 (coveRest 0x40000) 0 = true ∧
      (manages 0x0D 0 (coveRest 0x40000) 0).coveFrames (mgRc 0x0D 0 (coveRest 0x40000)) = none) ∧
    (does (coved 1 0) 0x0D 1 0 0 = true ∧ rcWin (mgRc 0x0D 1 0) = 0 ∧ (coved 1 0).windows.find 0 = some winOne) ∧
    does (coved 2 0) 0x0D 2 0 0 = true ∧
    ([(2 : BitVec 512), 3, 4].all fun n => does (coved n 1) 0x0D n 0 1 && !(coved n 1).coveBusy 0 winOne) = true ∧
    winOne.of 1 = true ∧ ({ manages 0x0C 1 0 2 with windows := [(0, winOne)] } : State).coveBusy 0 winOne = false := by decide +kernel
/-- Device 1 migrates, with frame 0x21 in a dirty log and the log buffer of device 0 at 0. -/
def migrating (sub : BitVec 512) (m : Migrating) : State :=
  { manages 0x0E sub 0 0 with
    vdevs := [(0, { keys := true, ptroot := 0x4000 }), (1, { ((manages 0x0E sub 0 0).vdev 1) with migrating := some m })]
    slices := [(0, { dirty := [(1, [0x21])] })] }
/-- Device 1 with window 0, ending here. -/
def commitsOn : State :=
  { migrating 3 { dest := 2 } with
    windows := [(0, winOne)]
    vdevs := [(0, { keys := true, ptroot := 0x4000, streams := [(0, { live := true, jobs := [(0, { jobOf (mgRc 0x0E 3 0) with pos := 1 })] })] }),
      (1, { keys := true, migrating := some { dest := 2, held := true, finalDone := true } })] }
theorem witness_ManagementCommandsActOnDevices_commit :
    commitsOn.runs 0 0 0 0x0E = some { jobOf (mgRc 0x0E 3 0) with pos := 1 } ∧
    (∀ e ∈ commitsOn.windows, e.2.of 1 = true → commitsOn.coveBusy e.1 e.2 = false) ∧ winOne.of 1 = true := by decide +kernel
/-- The streams of a held device are held: the commands run on a stream of device 0. -/
def migratingHeld (sub : BitVec 512) (m : Migrating) : State :=
  { migrating sub m with
    vdevs := [(0, { keys := true, ptroot := 0x4000, streams := [(0, { live := true, jobs := [(0, jobOf (mgRc 0x0E sub 0))] })] }),
      (1, { keys := true, migrating := some m })] }
theorem witness_ManagementCommandsActOnDevices_migrate :
    (does (manages 0x0E 0 0 0) 0x0E 0 0 0 = true ∧ (manages 0x0E 0 0 0).inCove 1 = false ∧
      ((manages 0x0E 0 0 0).vdevs.filter fun e => e.2.migrating.isSome).length < 8 ∧ ((manages 0x0E 0 0 0).vdev 1).migrating = none) ∧
    (does (migrating 1 { dest := 2 }) 0x0E 1 0 0 = true ∧ ((migrating 1 { dest := 2 }).vdev 1).migrating.isSome = true ∧
      (migrating 1 { dest := 2 }).dirtyFrames 1 = [0x21] ∧ (migrating 1 { dest := 2 }).dirtyOvf 1 = false) ∧
    ((migratingHeld 2 { dest := 2, held := true }).runs 0 0 0 0x0E = some (jobOf (mgRc 0x0E 2 0)) ∧ rcSub (mgRc 0x0E 2 0) = 2 ∧
      ((migratingHeld 2 { dest := 2, held := true }).vdev 1).migrating = some { dest := 2, held := true } ∧
      (migratingHeld 2 { dest := 2, held := true }).dirtyFrames 1 = [0x21] ∧ (migratingHeld 2 { dest := 2, held := true }).dirtyOvf 1 = false) ∧
    ((migratingHeld 3 { dest := 2, held := true, finalDone := true }).runs 0 0 0 0x0E = some (jobOf (mgRc 0x0E 3 0)) ∧
      rcSub (mgRc 0x0E 3 0) = 3 ∧
      ((migratingHeld 3 { dest := 2, held := true, finalDone := true }).vdev 1).migrating = some { dest := 2, held := true, finalDone := true }) ∧
    does (migrating 4 { dest := 2 }) 0x0E 4 0 0 = true := by decide +kernel
theorem witness_ManagementCommandsActOnDevices_log :
    (∃ s1, (migrating 1 { dest := 2 }).deviceWrite 0 (rcField (mgRc 0x0E 1 0) 112 48) ([0x21].flatMap fun f => leBytes 8 f) = .ok s1) ∧
    ∃ s1, (migratingHeld 2 { dest := 2, held := true }).deviceWrite 0 (rcField (mgRc 0x0E 2 0) 112 48)
      ([0x21].flatMap fun f => leBytes 8 f) = .ok s1 := ⟨got_of (by decide +kernel), got_of (by decide +kernel)⟩

def ported (s : State) : State := { s with ports := [(0, { peer := some 64 })] }
/-- `hosted` with an idle slot 1 of four tiles. -/
def slotOne : State := { hosted with parts := hosted.parts ++ [(1, { valid := true, base := 4, len := 4, vdev := 1 })] }
theorem witness_TheHostWritesAndReads_reach :
    (∀ s ∈ [ported (streamed { live := true } []), hosted, slotOne, ported { doubled with debug := .halt }, ported (one.setCluster 1 { power := .nap }),
      ported { one with inForce := some .prod }, ported { one with recovery := true }, ported { one with failStep := 3 }], s.hostReach = true) ∧
    ((∀ x ∈ [Config.Security.lab, .prod, .prodLocked, .rma], ({ hosted with inForce := some x } : State).security = x) ∧
      ∃ e ∈ hosted.vdevs, e.1 ≠ 0 ∧ e.2.keys = true) ∧
    (hosted.clusterLive 1 = [] ∧ (hosted.cluster 0).power = .run) ∧
    ((slotOne.part 1).valid = true ∧ slotOne.partIdle 1 = true ∧ (hosted.part 0).valid = true ∧ hosted.partIdle 0 = false ∧
      slotOne.intervalFree 1 4 8 = true) ∧
    ({ one with failStep := 3 } : State).failTold = false := by decide +kernel
def dir0 (d : LinkDir) : State := { one with ports := [(31, { out := d, inn := d })], cyc := 5000 }
theorem witness_TheHostWritesAndReads_registers :
    (((streamed { live := true } []).strm 1 0).live = true ∧ ((streamed { live := true } []).strm 1 0).err = false ∧
      2 ^ ((streamed { live := true } []).strm 1 0).size.toNat < (bits (65 : Word) 0 32 - ((streamed { live := true } []).strm 1 0).head).toNat ∧
      ((streamed { live := true } []).strm 1 0).dying = false ∧ ((streamed { live := true } []).strm 1 0).jobs = [] ∧
      ((streamed { live := true } []).strm 1 0).head = ((streamed { live := true } []).strm 1 0).tail) ∧
    ((one.part 0).valid = true ∧ (one.part 0).vdev = 1 ∧ (one.strm 1 63).live = false) ∧
    (coreAt 0 0 = 0 ∧ (({ doubled with debug := .halt } : State).core 0).stop = .double ∧ (({ doubled with debug := .halt } : State).core 0).doubleReleased = false) ∧
    ((one.cluster 1).power = .run ∧ 1 < clusterCount ∧ one.clusterIdle 1 = true ∧ one.mayDark 4064 = true ∧ 4064 < clusterCount ∧
      (one.cluster 4064).power = .run ∧ ((one.setCluster 1 { power := .nap }).cluster 1).power = .nap) ∧
    ((one.part 1).valid = false ∧ getBit (0x8000010000800004 : Word) 63 = true ∧ one.intervalFree 1 4 8 = true) ∧
    (getBit (0 : Word) 63 = false ∧ getBit (0x8000000000000001 : Word) 63 = true ∧ ({ one with inForce := some .prod } : State).security ≠ .rma ∧ (bits (0x2000 : Word) 0 14).toNat ≤ 8192 ∧ (∀ e ∈ one.frames, e.2.promoted = false ∧ e.2.moving = false) ∧
      one.recovery = false ∧ one.failStep = 0 ∧ ({ one with recovery := true } : State).recovery = true) := by decide +kernel
theorem witness_TheHostWritesAndReads_memory :
    hosted.hostOpen = true ∧ hosted.deviceRead 1 0x8000 256 true = .ok (List.replicate 256 0) ∧
    hosted.deviceRead 1 0x40000 256 true = .bad causePagefatal 0x40000 ∧
    (∃ s1, hosted.deviceWrite 1 0x8000 (List.replicate 256 1) = .ok s1) ∧
    hosted.deviceWrite 1 0x40000 [1] = .bad causePagefatal 0x40000 :=
  ⟨by decide +kernel, ok_of (by decide +kernel), rfl, got_of (by decide +kernel), rfl⟩

/-- A store on its way to slice 0x20, or a plain packet to core 1, first of its source, destination and class. -/
def packetOf (d : Node) (x : Payload) : Packet := { src := .core 0, dst := d, cls := .req, seq := 0, level := 2, payload := x, place := .there }
def carries (p : Packet) : State := { one with packets := [(3, p)], cyc := 5000 }
def toSlice : Packet := packetOf (.slice 0x20) (.store 0 0 0)
def toCore : Packet := packetOf (.core 1) .plain
def fullInbox : State := (carries toCore).setCore 1 { savedAt := some 0 }
def refusedOne : Packet := { toCore with place := .source, state := .nacked }
/-- A packet at the head of a buffer. -/
def atRouter : Packet := { toCore with place := .router 0 6 }
theorem witness_PacketsAndLinks_packets :
    ((carries toSlice).packets.find 3 = some toSlice ∧ (carries toSlice).due toSlice = true ∧ (carries toSlice).room toSlice = true ∧
      toSlice.payload.isAck = false ∧ (carries toSlice).fencedNode toSlice.dst = false ∧ toSlice.poisoned = false) ∧
    ((carries toCore).due toCore = true ∧ (carries toCore).room toCore = true ∧ toCore.payload.isAck = false ∧
      (carries toCore).fencedNode toCore.dst = false) ∧
    (fullInbox.due toCore = true ∧ fullInbox.room toCore = false ∧ fullInbox.packets.find 3 = some toCore) ∧
    (refusedOne.state = .nacked ∧ (carries refusedOne).firstHeld refusedOne = true ∧ (carries refusedOne).fencedNode refusedOne.src = false) ∧
    (atRouter.esc = false ∧ (carries atRouter).heads atRouter = true ∧ atRouter.since + (carries atRouter).esct ≤ (carries atRouter).cyc.toNat ∧
      ((carries atRouter).packets.map Prod.fst).Nodup ∧
      (carries atRouter).placeRoom { atRouter with esc := true, enter := none, legs := [] } atRouter.escapePlace = true) ∧
    ((0 < clusterCount) ∧ (one.cluster 0).elevator = .good) := by decide +kernel
theorem witness_PacketsAndLinks_links :
    (((dir0 {}).dir 31 true).up = true ∧ ((dir0 {}).dir 31 false).replay.length < 2048 ∧
      (∀ x ∈ ((dir0 {}).dir 31 true).replay, x.seq ≠ ((dir0 {}).dir 31 true).next) ∧
      (((dir0 { waiting := [{ seq := 0 }] }).linkOnWire 31 true 0).map fun e => e.1.copy) = some none ∧
      (((dir0 {}).linkOnWire 31 false 0).map fun e => e.1.copy) = some none) ∧
    (((dir0 { unacked := 16 }).dir 31 false).up = true ∧ 0 < ((dir0 { unacked := 16 }).dir 31 false).unacked ∧
      ((dir0 { nak := true, replay := [{ seq := 4095 }] }).dir 31 false).nak = true) ∧
    (((dir0 { replay := [{ seq := 4095 }] }).dir 31 true).replay = [{ seq := 4095 }] ∧
      ((dir0 { replay := [{ seq := 4095 }] }).dir 31 true).up = true ∧ 0 + 2048 ≤ (dir0 {}).cyc.toNat) ∧
    ((dir0 {}).dir 31 true).lanes.getLsbD 15 = true ∧
    (((dir0 { retraining := true, lanes := 0x7FFF }).dir 31 true).retraining = true ∧
      ((dir0 { retraining := true, lanes := 0x7FFF }).dir 31 true).requested = false ∧
      laneWidth ((dir0 { retraining := true, lanes := 0x7FFF }).dir 31 true).lanes = 8) := by decide +kernel

/-- A pair of twins on cores 0 and 1024, each with a packet held for comparison, at one time. -/
def twinTask (j : Nat) (first : Bool) : Task := { taskOne with twin := some { partner := j, primary := first } }
def twins (l : Sparse Packet) (t : Word) : State :=
  { one with cores := [(0, { coreOne with task := some (twinTask 1024 true) }), (1024, { coreOne with task := some (twinTask 0 false) })], packets := l, cyc := t }
def held1 (k : Nat) : Packet := { packetOf (.slice 0x20) .plain with src := .core k, checked := false, hash := some 7 }
theorem witness_ErrorsTestsAndPower_twins :
    (((twins [(3, held1 0), (4, held1 1024)] 0).core 0).task = some (twinTask 1024 true) ∧
      (twinTask 1024 true).twin = some { partner := 1024, primary := true } ∧
      (twins [(3, held1 0), (4, held1 1024)] 0).heldPair 0 1024 = some ((3, held1 0), (4, held1 1024)) ∧
      packetsAgree (held1 0) (held1 1024) = true ∧
      (twins [(3, held1 0), (4, { held1 1024 with hash := some 8 })] 0).heldPair 0 1024 =
        some ((3, held1 0), (4, { held1 1024 with hash := some 8 })) ∧
      packetsAgree (held1 0) { held1 1024 with hash := some 8 } = false ∧
      (twins [(3, held1 0), (4, held1 1024)] 0).twinLate 0 1024 = false ∧ (twins [(3, held1 0), (4, held1 1024)] 0).twinLate 1024 0 = false) ∧
    ((twins [(3, held1 0)] 65535).twinLate 0 1024 = false ∧ (twins [(3, held1 0)] 65536).twinLate 0 1024 = true) := by decide +kernel
def tests (q : Bool) : State := oneCore fun x => { x with testing := true, quarantined := q }
theorem witness_ErrorsTestsAndPower_others :
    (((tests false).core 0).testing = true ∧ ((tests false).core 0).quarantined = false ∧ ((tests true).core 0).quarantined = true ∧
      ((tests false).core 0).mismatchedAgain = false) ∧
    ((one.bank 0 767).state ≠ .gone ∧ (one.bank 0 1).state ≠ .gone) ∧ (one.stored.find 63 = none ∧ (one.counter 63).minor.get 0 63 ≠ 127) ∧
    ((({ one with frames := [(0, { owner := some 1 })] } : State).frame (63 / 512)).owner ≠ none ∧ (one.frame (63 / 512)).owner = none ∧
      (one.frame (63 / 512)).cove = none ∧ (({ one with frames := [(0, { cove := some 0 })] } : State).frame (63 / 512)).cove ≠ none) ∧
    ((∃ e ∈ one.cores, e.1 = 0) ∧ (one.core 0).saving = false ∧ one.stands 0 = true) ∧
    ((({ one with counters := [(0, { minor := [(63, 127)] })] } : State).counter 63).minor.get 0 63 = 127) ∧
    (((one.setCluster 1 { request := some .nap }).cluster 1).request = some .nap ∧ (one.setCluster 1 { request := some .nap }).clusterIdle 1 = true) ∧
    ((one.setCluster 1 { power := .drowse }).cluster 1).power = .drowse ∧
    (((one.setCluster 1 { power := .dark, booting := true }).cluster 1).power = .dark ∧
      ((one.setCluster 1 { power := .dark, booting := true }).cluster 1).booting = true) := by decide +kernel

end Sys2Proof.Tests
end

section
/-! G memory as a block of bytes: what a multi-byte write leaves unchanged, and that it is read back (O10). -/

namespace Sys2Proof.Machine

/-- The frame of a multi-byte write: bytes below and above the block read as before. -/
theorem Memory.read_writeN_outside (m : List Host.Cell) (a v n : Nat) {b : Nat} (h : b < a ∨ a + n ≤ b) :
    Memory.read (Memory.writeN m a v n) b = Memory.read m b := by
  induction n generalizing m a v with
  | zero => rfl
  | succ n ih =>
    have hrest : b < a + 1 ∨ a + 1 + n ≤ b := by omega
    have hne : b ≠ a := by omega
    calc Memory.read (Memory.writeN m a v (n + 1)) b
        = Memory.read (Memory.write m a (BitVec.ofNat 8 v)) b := ih _ _ _ hrest
      _ = Memory.read m b := Memory.read_write_ne m _ hne

/-- Little-endian round trip (R2): the low byte is kept by the writes of the bytes above it, and the bytes above it are
the quotient by 256 read back. -/
theorem Memory.readN_writeN_self (m : List Host.Cell) (a v n : Nat) :
    Memory.readN (Memory.writeN m a v n) a n = v % 256 ^ n := by
  induction n generalizing m a v with
  | zero => exact (Nat.mod_one v).symm
  | succ n ih =>
    have hlow : Memory.read (Memory.writeN m a v (n + 1)) a = BitVec.ofNat 8 v := by
      rw [Memory.writeN, Memory.read_writeN_outside _ _ _ _ (Or.inl (Nat.lt_succ_self a)), Memory.read_write_self]
    have hhigh : Memory.readN (Memory.writeN m a v (n + 1)) (a + 1) n = v / 256 % 256 ^ n := ih _ _ _
    calc Memory.readN (Memory.writeN m a v (n + 1)) a (n + 1)
        = v % 256 + 256 * (v / 256 % 256 ^ n) := by rw [Memory.readN, hlow, hhigh, BitVec.toNat_ofNat]
      _ = v % 256 ^ (n + 1) := by rw [Nat.pow_succ', Nat.mod_mul]

/-- Settles O10: a slice write is a multi-byte write of G memory, which is read back and keeps every byte outside. -/
theorem sliceWriteReadsBack : Obligations.SliceWriteReadsBack := by
  intro s v pa n x
  rw [State.gStore_mem]
  exact ⟨Memory.readN_writeN_self s.mem pa x n, fun _ ha => Memory.read_writeN_outside s.mem pa x n ha⟩

end Sys2Proof.Machine
end

section
/-! Nothing stops the machine (O7): every instruction and every event answers a next state, and so does every turn of a core
which the module has. -/

namespace Sys2Proof.Machine

/-! ### The shared operations of instructions -/

theorem operand_next (i : Instr) (adm : Adm) (z : Size) (m : MemOp 12) (s : State) (f : Word → Addr → Ctx → Act) :
    ∃ t, operand i adm z m s f = .next t := run_next ..
theorem regOp_next (i : Instr) (adm : Adm) (s : State) (f : Ctx → Ctx) :
    ∃ t, regOp i adm s f = .next t := run_next ..
theorem aluMem_next (i : Instr) (flow sx : Bool) (z : Size) (m : MemOp 12) (s : State) (f : Word → Word → Word → Res) :
    ∃ t, aluMem i flow sx z m s f = .next t := operand_next ..
theorem aluMemCmp_next (i : Instr) (sx : Bool) (z : Size) (m : MemOp 12) (s : State) (f : Word → Word → Res) :
    ∃ t, aluMemCmp i sx z m s f = .next t := operand_next ..
theorem aluMemDiv_next (i : Instr) (sx : Bool) (z : Size) (m : MemOp 12) (s : State) (f : Word → Word → Res) :
    ∃ t, aluMemDiv i sx z m s f = .next t := operand_next ..
theorem fpu_next (i : Instr) (z : Size) (m : MemOp 12) (s : State) (f : Rm → FVal → Word → Word) :
    ∃ t, fpu i z m s f = .next t := operand_next ..
theorem bankOp_next (i : Instr) (n : BitVec 4) (s : State) (body : State → Act) :
    ∃ t, bankOp i n s body = .next t := run_next ..
theorem detOp_next (i : Instr) (zero : Bool) (n : BitVec 4) (s : State) :
    ∃ t, detOp i zero n s = .next t := bankOp_next ..
theorem csrWriteOp_next (i : Instr) (r : Csr) (f : Word → Word → Word) (s : State) :
    ∃ t, csrWriteOp i r f s = .next t := run_next ..
theorem loadGW_next (i : Instr) (w : Bool) (z : Size) (sx : Bool) (o : Order) (sc : Scope) {n : Nat} (m : MemOp n) (s : State) :
    ∃ t, loadGW i w z sx o sc m s = .next t := run_next ..
theorem storeGW_next (i : Instr) (w : Bool) (z : Size) (o : Order) (sc : Scope) {n : Nat} (m : MemOp n) (s : State) :
    ∃ t, storeGW i w z o sc m s = .next t := run_next ..
theorem feLoadL_next (i : Instr) (take : Bool) (z : Size) (m : MemOp 12) (s : State) :
    ∃ t, feLoadL i take z m s = .next t := run_next ..
theorem feLoadC_next (i : Instr) (take : Bool) (z : Size) (m : MemOp 12) (s : State) :
    ∃ t, feLoadC i take z m s = .next t := run_next ..
theorem feBit_next (i : Instr) (m : MemOp 12) (s : State) (f : State → Nat → Addr → Ctx → Act) :
    ∃ t, feBit i m s f = .next t := run_next ..
theorem amog_next (i : Instr) (cas : Bool) (d64 : Bool) (o : Order) (sc : Scope) (m : MemOp 8) (s : State) :
    ∃ t, amog i cas d64 o sc m s = .next t := run_next ..
theorem amoc_next (i : Instr) (cas : Bool) (d64 : Bool) (m : MemOp 8) (s : State) (f : Word → Word → Word) :
    ∃ t, amoc i cas d64 m s f = .next t := run_next ..
theorem serviceOp_next (i : Instr) (c : BitVec 6) (s : State) (body : State → Nat → Act) :
    ∃ t, serviceOp i c s body = .next t := run_next ..
theorem engineOp_next (i : Instr) (e : Engine) (m : Adm) (s : State) (body : State → Act) :
    ∃ t, engineOp i e m s body = .next t := run_next ..
theorem groupWrite_next (i : Instr) (e : Engine) (m : Adm) (regs : Nat) (cls : BitVec 2) (k : BitVec 4) (n : BitVec 5)
    (a : PReg) (s : State) : ∃ t, groupWrite i e m regs cls k n a s = .next t := engineOp_next ..
theorem copyOp_next (i : Instr) (twin : Bool) (a b : PReg) (s : State) :
    ∃ t, copyOp i twin a b s = .next t := engineOp_next ..
theorem mxOp_next (i : Instr) (s : State) (body : State → Act) :
    ∃ t, mxOp i s body = .next t := engineOp_next ..
theorem mxPlain_next (i : Instr) (a : PReg) (returns : Bool) (s : State) :
    ∃ t, mxPlain i a returns s = .next t := mxOp_next ..
theorem vxOp_next (i : Instr) (s : State) (body : State → Act) :
    ∃ t, vxOp i s body = .next t := engineOp_next ..
theorem vxCommand_next (i : Instr) (a b : PReg) (returns : Bool) (s : State) :
    ∃ t, vxCommand i a b returns s = .next t := vxOp_next ..
theorem unary_next (i : Instr) (s : State) (f : Word → Res) :
    ∃ t, unary i s f = .next t := regOp_next ..
theorem transfer_next (i : Instr) (adm : Adm) (s : State) (f : Ctx → Ctx) :
    ∃ t, transfer i adm s f = .next t := run_next ..
theorem jump_next (i : Instr) (s : State) (t : Ctx → Addr) :
    ∃ u, jump i s t = .next u := run_next ..
theorem startOp_next (i : Instr) (mig : Bool) (h : BitVec 4) (o : BitVec 16) (s : State) :
    ∃ t, startOp i mig h o s = .next t := run_next ..
theorem flowOp_next (i : Instr) (sl : BitVec 16) (s : State) (body : State → Act) :
    ∃ t, flowOp i sl s body = .next t := run_next ..

theorem execRdadd_next (a b : PReg) (s : State) : ∃ t, execRdadd a b s = .next t := by
  unfold execRdadd
  split
  · exact engineOp_next ..
  · exact copyOp_next ..

/-- A member that closes its phase goes on or is left as it is; any other issues a `FLEND` (10 R204). -/
theorem execFlend_next (s : State) : ∃ t, execFlend s = .next t := by
  unfold execFlend
  split
  · split <;> exact ⟨_, rfl⟩
  · exact run_next ..

/-! ### The shared operations of events -/

theorem State.onJob_next (s : State) (v t n op : Nat) (f : Job → State) : ∃ u, s.onJob v t n op f = .next u := by
  unfold State.onJob
  split <;> exact ⟨_, rfl⟩
theorem State.onGraph_next (s : State) (v t sub : Nat) (f : Job → State) : ∃ u, s.onGraph v t sub f = .next u :=
  s.onJob_next ..
theorem State.onTier_next (s : State) (v t policy : Nat) (f : Job → State) : ∃ u, s.onTier v t policy f = .next u :=
  s.onJob_next ..
theorem State.onSub_next (s : State) (v t op sub : Nat) (f : Job → State) : ∃ u, s.onSub v t op sub f = .next u :=
  s.onJob_next ..
theorem State.ifReached_next (s : State) (o : Out) (h : ∃ t, o = .next t) : ∃ t, s.ifReached o = .next t := by
  unfold State.ifReached
  split
  · exact h
  · exact ⟨_, rfl⟩

theorem execHeldAccess_next (i : Instr) (s : State) : ∃ t, execHeldAccess i s = .next t := by
  unfold execHeldAccess
  split
  case h_1 | h_2 | h_3 | h_4 => exact loadGW_next ..
  case h_15 => exact ⟨_, rfl⟩
  all_goals exact amog_next ..

theorem giveBack_next (cur : Nat × Nat) (o : Out) (h : ∃ t, o = .next t) : ∃ t, giveBack cur o = .next t := by
  obtain ⟨t, rfl⟩ := h
  exact ⟨_, rfl⟩

theorem execGResponse_next (k c : Nat) (s : State) : ∃ t, execGResponse k c s = .next t := by
  unfold execGResponse
  dsimp only
  split
  · split
    · exact giveBack_next _ _ (execHeldAccess_next ..)
    · exact ⟨_, rfl⟩
  · exact ⟨_, rfl⟩

/-! ### Every instruction and every event -/

/-- The arms of `exec`. An instruction is one of the shared operations; an event is a shared operation too, or a tree of
decisions on the state with a next state at every leaf, here in the order of the modules. -/
theorem exec_next (i : Instr) (s : State) : ∃ t, exec i s = .next t := by
  cases i
  all_goals dsimp only [exec]
  case nop | trap | eret | csrr | waite | icinv | tlbw | tlbinv | dbrk | rdtime | rdcyc | reissue | oorclr | movrv
      | ldl | ldc | stl | stc | stlf | stcf | bqry | hov | endT | hwait | hkill | yield | self | spawn | join | leave
      | bar | flow =>
    exact run_next ..
  case csrw | csrs | csrc =>
    exact csrWriteOp_next ..
  case halt | revoke | ctxsv | ctxld | gstop =>
    exact serviceOp_next ..
  case ldg | ldgOrdered | ldw | ldwOrdered =>
    exact loadGW_next ..
  case stg | stgOrdered | stw | stwOrdered =>
    exact storeGW_next ..
  case ldlf | ldlfC =>
    exact feLoadL_next ..
  case ldcf | ldcfC =>
    exact feLoadC_next ..
  case feset | feclr | fetst =>
    exact feBit_next ..
  case amogAdd | amogAnd | amogOr | amogXor | amogMin | amogMax | amogMinu | amogMaxu | amogSwap | amogCas =>
    exact amog_next ..
  case amocAdd | amocAnd | amocOr | amocSwap | amocCas =>
    exact amoc_next ..
  case add | adc | sub | sbc | rsb | adds | addsu | subs | subsu | mul | mulh | mulhu | and | or | xor | andn | shl
      | shr | sar | rol | ror | min | max | minu | maxu =>
    exact aluMem_next ..
  case div | divu | rem | remu =>
    exact aluMemDiv_next ..
  case cmp | tst =>
    exact aluMemCmp_next ..
  case addi | addsi | rsbi | muli | andi | ori | xori | shli | shri | sari | rori | cmpi | tsti | pmov | paddi | padda
      | pstr | pget | pset | psub | li | lih =>
    exact regOp_next ..
  case fadd | fsub | frsub | fmul | fdiv | fmin | fmax | fsqrt | fcvtbf | fcvthf | frndbf | frndhf | fcvtf | fcvtuf =>
    exact fpu_next ..
  case fcmp | fcvti =>
    exact operand_next ..
  case not | neg | abs | negs | abss | clz | ctz | popc | bswap | sextb | sexth | sextw | zextb | zexth | zextw =>
    exact unary_next ..
  case b | call | loop | dbnz =>
    exact transfer_next ..
  case jmp | ret =>
    exact jump_next ..
  case balloc | att | arm | bwait | openSlot | closeSlot =>
    exact bankOp_next ..
  case det | detZ =>
    exact detOp_next ..
  case start | startM =>
    exact startOp_next ..
  case xmit | muxs | recv | xfwd =>
    exact flowOp_next ..
  case mxls | mxst | mxdrn | mxrty | mxwait =>
    exact mxOp_next ..
  case mxflip | mxzero | mxswap | mxckl | mxckf | mxrd | mxwr =>
    exact mxPlain_next ..
  case mxwrg | vwrg | cwrg =>
    exact groupWrite_next ..
  case vadd | vsub | vmul | vfma | vmin | vmax | vabs | vneg | vexp2 | vlog2 | vrcp | vrsq | vtanh | vcvt | vred
      | vscan | vafs | vsel | vclamp | vcmp | vgath | vscat =>
    exact vxCommand_next ..
  case vwr | vrd | vwait =>
    exact vxOp_next ..
  case cg2l | cl2g | cl2c | cc2l | cw2l | cl2w | cx2g | cg2x | rdflush =>
    exact copyOp_next ..
  case cwr | cwait | rdwait =>
    exact engineOp_next ..
  case flend =>
    exact execFlend_next s
  case rdadd =>
    exact execRdadd_next ..
  case rvFill | storeAcknowledge | lateFaultReport | flowRelease | lineWriteback | clusterWake | powerCapThrottle
      | powerOnReset | illins =>
    exact ⟨_, rfl⟩
  case launch | copy | fill | waitv | waitvReread | waitvTimeout | signal | pin | unpin =>
    exact State.onJob_next ..
  case graphDefine | graphLaunch | graphEdit | graphDestroy =>
    exact State.onGraph_next ..
  case tierPromote | tierKeep | tierAutomatic =>
    exact State.onTier_next ..
  case preemptSave | preemptResume | qosLevels | qosBound | keyCreate | keyErase | coveCreate | coveGrant | coveRevoke
      | coveRekey | coveDestroy | migrateBegin | migrateRound | migrateFinal | migrateCommit | migrateAbort =>
    exact State.onSub_next ..
  case sqstatErrClear | streamDestroy | linkRetrainRequest | trbaseWrite | adminRegisterWrite | sqtailWrite
      | streamCreate | debugStateRequest | doubleRelease | clusterPowerRequest | partitionWrite | attestationRequest
      | promoWrite =>
    exact State.ifReached_next _ _ (by (repeat' split) <;> exact ⟨_, rfl⟩)
  case gResponse =>
    exact execGResponse_next ..
  case sliceAccess | lateFaultTrap | tlbMissRequest | fetchRefill | eventLatchMessage | btoTimeout | cloadSample
      | helperMigrationArrival =>
    dsimp only [execSliceAccess, execLateFaultTrap, execTlbMissRequest, execFetchRefill, execEventLatchMessage,
      execBtoTimeout, execCloadSample, execHelperMigrationArrival]
    (repeat' split) <;> exact ⟨_, rfl⟩
  case detZZeroingDone | hovDrainDone | hovArrival | hovStatusReturn | bankReleaseDrainDone =>
    dsimp only [execDetZZeroingDone, execHovDrainDone, execHovArrival, execHovStatusReturn, execBankReleaseDrainDone]
    (repeat' split) <;> exact ⟨_, rfl⟩
  case barrierArrival | flowSlotOverrun | flowFaultReport | flendClosing | barrierRelease =>
    dsimp only [execBarrierArrival, execFlowSlotOverrun, execFlowFaultReport, execFlendClosing, execBarrierRelease]
    (repeat' split) <;> exact ⟨_, rfl⟩
  case taskPlacement | spawnPlacement | coresidentLaunchStart =>
    dsimp only [execTaskPlacement, execSpawnPlacement, execCoresidentLaunchStart]
    (repeat' split) <;> exact ⟨_, rfl⟩
  case matrixCommandGrant | matrixCommandComplete =>
    dsimp only [execMatrixCommandGrant, execMatrixCommandComplete]
    (repeat' split) <;> exact ⟨_, rfl⟩
  case vectorCommandGrant | vectorCommandComplete =>
    dsimp only [execVectorCommandGrant, execVectorCommandComplete]
    (repeat' split) <;> exact ⟨_, rfl⟩
  case reductionContribution | reductionFlush | copyTransferGrant | copyCommandComplete =>
    dsimp only [execReductionContribution, execReductionFlush, execCopyTransferGrant, execCopyCommandComplete]
    (repeat' split) <;> exact ⟨_, rfl⟩
  case hbmScrub | packetDelivery | bankScrub | selfTestComplete | containedError =>
    dsimp only [execHbmScrub, execPacketDelivery, execBankScrub, execSelfTestComplete, execContainedError]
    (repeat' split) <;> exact ⟨_, rfl⟩
  case packetNackResend | packetEscape | elevatorRetire | routeGenUpdate =>
    dsimp only [execPacketNackResend, execPacketEscape, execElevatorRetire, execRouteGenUpdate]
    (repeat' split) <;> exact ⟨_, rfl⟩
  case twinPacketCompare | twinHashTimeout =>
    dsimp only [execTwinPacketCompare, execTwinHashTimeout]
    (repeat' split) <;> exact ⟨_, rfl⟩
  case saveSequence | registerMissMicrotrap | doubleAbortTimer | bankMissMicrotrap | coreStopReached =>
    dsimp only [execSaveSequence, execRegisterMissMicrotrap, execDoubleAbortTimer, execBankMissMicrotrap,
      execCoreStopReached]
    (repeat' split) <;> exact ⟨_, rfl⟩
  case tier1WriteThrough | launchCompletion | streamRecordFetch | graphNodeStart | streamDestroyComplete =>
    dsimp only [execTier1WriteThrough, execLaunchCompletion, execStreamRecordFetch, execGraphNodeStart,
      execStreamDestroyComplete]
    (repeat' split) <;> exact ⟨_, rfl⟩
  case pageMove | qosWindowEnd =>
    dsimp only [execPageMove, execQosWindowEnd]
    (repeat' split) <;> exact ⟨_, rfl⟩
  case linkAckTimer | linkReplayTimeout | laneDown | linkRetrainDone | napEntry | thermalStop | thermalStopResume
      | hostGRead | hostGWrite | linkPacketReceive =>
    dsimp only [execLinkAckTimer, execLinkReplayTimeout, execLaneDown, execLinkRetrainDone, execNapEntry,
      execThermalStop, execThermalStopResume, execHostGRead, execHostGWrite, execLinkPacketReceive]
    (repeat' split) <;> exact ⟨_, rfl⟩
  case darkClusterBoot | recoveryImageWrite =>
    dsimp only [execDarkClusterBoot, execRecoveryImageWrite]
    (repeat' split) <;> exact ⟨_, rfl⟩

/-! ### Turns -/

theorem andThen_next (o : Out) (f : State → State) (h : ∃ t, o = .next t) : ∃ t, andThen o f = .next t := by
  obtain ⟨t, rfl⟩ := h
  exact ⟨_, rfl⟩

theorem State.issueWord_next (s : State) (w : W32) : ∃ t, s.issueWord w = .next t := by
  unfold State.issueWord
  split
  · exact exec_next ..
  · exact ⟨_, rfl⟩

theorem State.issueFlow_next (s : State) (k : Nat) (f : Flow) : ∃ t, s.issueFlow k f = .next t := by
  unfold State.issueFlow
  dsimp only
  split
  · exact exec_next (.flowSlotOverrun k) s
  split
  · exact ⟨_, rfl⟩
  split
  · exact exec_next .endT s
  split
  · exact s.issueWord_next _
  · exact ⟨_, rfl⟩

theorem State.issueAt_next (s : State) (k c : Nat) : ∃ t, s.issueAt k c = .next t := by
  unfold State.issueAt
  dsimp only
  split
  · exact exec_next (.lateFaultTrap k c) _
  split
  · exact State.issueFlow_next ..
  split
  · exact exec_next .endT _
  split
  · exact State.issueWord_next ..
  · exact ⟨_, rfl⟩
  · exact exec_next (.fetchRefill k c) _

theorem State.issueCore_next (s : State) (k : Nat) : ∃ t, s.issueCore k = .next t := by
  unfold State.issueCore
  split
  · exact andThen_next _ _ (s.issueAt_next ..)
  · exact ⟨_, rfl⟩

theorem State.resume_next (s : State) (k c : Nat) (h : Hold) : ∃ t, s.resume k c h = .next t := by
  unfold State.resume
  split
  · split
    · exact exec_next ..
    · exact exec_next (.tlbMissRequest k c) s
  · split
    · exact exec_next (.bankMissMicrotrap k _) s
    · exact exec_next ..
  · split
    · exact exec_next (.registerMissMicrotrap k c) s
    · exact exec_next ..
  · split
    · exact exec_next (.bankMissMicrotrap k _) s
    · exact exec_next ..
  · exact exec_next ..

theorem State.retry_next (s : State) (k c : Nat) : ∃ t, s.retry k c = .next t := by
  unfold State.retry
  dsimp only
  split
  · exact ⟨_, rfl⟩
  split
  · exact exec_next (.registerMissMicrotrap k c) _
  split
  · exact exec_next (.lateFaultTrap k c) _
  split
  · exact State.resume_next ..
  split
  · exact ⟨_, rfl⟩
  · exact exec_next (.fetchRefill k c) _

/-- An outcome is a next state, or the stop of a turn whose core is not `on` the module. -/
def StopsOnlyOff (on : Bool) (o : Out) : Prop := (∃ t, o = .next t) ∨ (o = .fault .noSuchCore ∧ on = false)

theorem StopsOnlyOff.of_next {on : Bool} {o : Out} (h : ∃ t, o = .next t) : StopsOnlyOff on o := .inl h

theorem StopsOnlyOff.andThen {on : Bool} {o : Out} (f : State → State) (h : StopsOnlyOff on o) :
    StopsOnlyOff on (Machine.andThen o f) := by
  obtain h | ⟨rfl, h⟩ := h
  · exact .inl (andThen_next o f h)
  · exact .inr ⟨rfl, h⟩

/-- A turn of core `k` (01 R24). -/
theorem StopsOnlyOff.of_validCore (k : Nat) {o : Out} (h : ∃ t, o = .next t) :
    StopsOnlyOff (validCore k) (if validCore k then o else .fault .noSuchCore) := by
  split
  · exact .inl h
  · rename_i hk
    exact .inr ⟨rfl, by simpa using hk⟩

theorem State.takeTurn_stops (s : State) (t : Turn) : StopsOnlyOff t.onModule (s.takeTurn t) := by
  induction t generalizing s with
  | issue k n => exact .of_validCore k (andThen_next _ _ (s.issueCore_next k))
  | retry k c n => exact .of_validCore k (andThen_next _ _ (s.retry_next k c))
  | event i n =>
    unfold State.takeTurn
    split
    · exact .of_next (andThen_next _ _ (exec_next i s))
    · exact .of_next ⟨_, rfl⟩
  | far t ih => exact (ih { s with travel := true }).andThen _
  | enter | link | flaw | route | suspect | adminRead | fuse | phaseFails => exact .of_next ⟨_, rfl⟩

theorem State.bootTurn_next (s : State) : ∃ t, s.bootTurn = .next t := by
  unfold State.bootTurn
  split
  · split
    · exact andThen_next _ _ (exec_next ..)
    · exact ⟨_, rfl⟩
  all_goals exact ⟨_, rfl⟩

theorem State.freeTurn_stops (s : State) : StopsOnlyOff (validCore s.cur.1) s.freeTurn := by
  unfold State.freeTurn
  dsimp only
  split
  · rename_i hk
    exact .inr ⟨rfl, by simpa using hk⟩
  refine .of_next ?_
  split
  · exact andThen_next _ _ (s.issueCore_next _)
  split
  · exact andThen_next _ _ (s.issueCore_next _)
  split
  · exact andThen_next _ _ (s.retry_next ..)
  · exact ⟨_, rfl⟩

/-- The one stop of a step is that of a turn which names a core that the module does not have. -/
theorem step_stops (s : State) : StopsOnlyOff s.onModule (step s) := by
  unfold step State.turn
  split
  · exact .of_next s.bootTurn_next
  split
  · rename_i t r hs
    obtain h | ⟨h, hoff⟩ := State.takeTurn_stops { s with script := r } t
    · exact .inl h
    · exact .inr ⟨h, by simp [State.onModule, hs, hoff]⟩
  · obtain h | ⟨h, hoff⟩ := s.freeTurn_stops
    · exact .inl h
    · exact .inr ⟨h, by simp [State.onModule, hoff]⟩

/-- Settles O7: instructions and events answer next states, and the one stop of a step is that of a turn off the module. -/
theorem nothingStopsTheMachine : Obligations.NothingStopsTheMachine := by
  refine ⟨⟨fun s hon => ?_, fun s => ?_⟩, exec_next⟩
  · obtain h | ⟨-, hoff⟩ := step_stops s
    · exact h
    · rw [hon] at hoff
      cases hoff
  · exact (step_stops s).imp_right And.left

end Sys2Proof.Machine
end

section
/-! Registers and the out-of-range record: the context after a memory operand, what a scalar instruction writes there (O31),
and the record of R21 (O32). -/

namespace Sys2Proof.Machine

/-! ### Bits of ST and fields of a pointer -/

theorem getBit_putBit_ne {n : Nat} (w : BitVec n) {i j : Nat} (b : Bool) (h : j ≠ i) : getBit (putBit w i b) j = getBit w j := by
  have htwo : (BitVec.twoPow n i).getLsbD j = false := by simp [BitVec.getLsbD_twoPow, h.symm]
  cases b
  · cases hw : w.getLsbD j
    · simp [getBit, putBit, hw]
    · simp only [getBit, putBit, Bool.false_eq_true, if_false, BitVec.getLsbD_and, BitVec.getLsbD_not, htwo, hw]
      simp [BitVec.lt_of_getLsbD hw]
  · simp [getBit, putBit, htwo]

theorem bits_withAddr (v : Word) (a : Addr) : bits (withAddr v a) 48 16 = bits v 48 16 :=
  BitVec.extractLsb'_append_eq_left

theorem addrOf_withAddr (v : Word) (a : Addr) : addrOf (withAddr v a) = a :=
  BitVec.setWidth_append_eq_right

/-! ### The out-of-range record (01 R21) -/

theorem Ctx.noteRange_first (y : Ctx) (ea : Addr) (h : outOfRange ea = true) (hf : y.oorf = false) :
    y.noteRange ea = { y with oorf := true, oora := ea } := by
  simp [Ctx.noteRange, h, hf]

theorem Ctx.noteRange_again (y : Ctx) (ea : Addr) (h : y.oorf = true) : y.noteRange ea = y := by
  simp [Ctx.noteRange, h]

theorem Ctx.noteRange_inside (y : Ctx) (ea : Addr) (h : outOfRange ea = false) : y.noteRange ea = y := by
  simp [Ctx.noteRange, h]

/-- The frame of the record: nothing else of the context changes. -/
theorem Ctx.noteRange_frame (y : Ctx) (ea : Addr) : { y.noteRange ea with oorf := y.oorf, oora := y.oora } = y := by
  unfold Ctx.noteRange
  split <;> rfl

/-- After an access out of range OORF is set, and OORA is the address of the first one. -/
theorem Ctx.noteRange_out (y : Ctx) (ea : Addr) (h : outOfRange ea = true) :
    (y.noteRange ea).oorf = true ∧ (y.noteRange ea).oora = if y.oorf then y.oora else ea := by
  cases hf : y.oorf
  · simp [y.noteRange_first ea h hf]
  · simp [y.noteRange_again ea hf, hf]

/-- An LDL out of range loads 0 and is noted (01 R28). -/
theorem exec_ldl_out (s : State) (z : Size) (sx : Bool) (m : MemOp 15) (hi : s.issues (admL true))
    (ha : aligned (eaOf m s.me) z.bytes = true) (ho : outOfRange (eaOf m s.me) = true) :
    exec (.ldl z sx m) s =
      .next (s.setMe (((ptrAfter m s.me z.bytes).noteRange (eaOf m s.me)).setA (extend sx z 0)).advance) := by
  show execLdl z sx m s = _
  unfold execLdl
  rw [run_issues _ _ _ _ _ hi]
  simp [State.aligned, ha, s.lRead_out _ _ _ _ ho, State.retire, finish]

/-- Settles O32: the record is that of the first access out of range. -/
theorem outOfRangeRecord : Obligations.OutOfRangeRecord := by
  refine ⟨fun y ea h hf => ?_, Ctx.noteRange_again, Ctx.noteRange_inside, fun s z sx m hi ha ho => ?_, fun s hi => ?_,
    fun s k c => ⟨rfl, rfl⟩⟩
  · simp [y.noteRange_first ea h hf]
  · obtain ⟨hf, hoa⟩ := (ptrAfter m s.me z.bytes).noteRange_out _ ho
    refine ⟨_, exec_ldl_out s z sx m hi ha ho, ?_, ?_, ?_⟩
    · cases sx <;> cases z <;> simp [extend]
    · rwa [State.setMe_me]
    · rwa [State.setMe_me]
  · have hx : exec .oorclr s = .next (s.setMe ({ s.me with oorf := false, oora := 0 } : Ctx).advance) := by
      show execOorclr s = _
      exact run_issues _ _ _ _ _ hi
    exact ⟨_, hx, by simp, by simp⟩

/-! ### The context after a memory operand -/

theorem State.afterL_ptr_ne (s : State) (z : Size) (m : MemOp 12) (p : PReg) (h : p ≠ m.p) :
    (s.afterL z m).ptr p = s.me.ptr p :=
  calc (s.afterL z m).ptr p
      = (ptrAfter m s.me z.bytes).ptr p := (congrArg (Ctx.ptr · p) ((ptrAfter m s.me z.bytes).noteRange_frame (eaOf m s.me)) :)
    _ = s.me.ptr p := Ctx.setPtr_ptr_ne _ _ h

theorem State.afterL_ptr_self (s : State) (z : Size) (m : MemOp 12) :
    (s.afterL z m).ptr m.p = withAddr (s.me.ptr m.p) (npOf m s.me z.bytes) :=
  calc (s.afterL z m).ptr m.p
      = (ptrAfter m s.me z.bytes).ptr m.p := (congrArg (Ctx.ptr · m.p) ((ptrAfter m s.me z.bytes).noteRange_frame (eaOf m s.me)) :)
    _ = withAddr (s.me.ptr m.p) (npOf m s.me z.bytes) := Ctx.setPtr_ptr_self ..

/-- The frame of a memory operand: its pointer and the out-of-range record apart, the context is as before. -/
theorem State.afterL_frame (s : State) (z : Size) (m : MemOp 12) :
    { s.afterL z m with p := s.me.p, oorf := s.me.oorf, oora := s.me.oora } = s.me :=
  congrArg (fun y : Ctx => { y with p := s.me.p }) (Ctx.noteRange_frame (ptrAfter m s.me z.bytes) _)

/-! ### What a scalar instruction writes -/

/-- `y1` is `y` but for A and the flags Z, N, C, V and Q of ST (bits 0 to 4). -/
structure Ctx.SameButResult (y y1 : Ctx) : Prop where
  rest : { y1 with a := y.a, st := y.st } = y
  flags : ∀ j, 5 ≤ j → y1.flag j = y.flag j

namespace Ctx.SameButResult

variable {y y1 : Ctx}

theorem refl (y : Ctx) : y.SameButResult y := ⟨rfl, fun _ _ => rfl⟩

theorem setA (h : y.SameButResult y1) (v : Word) : y.SameButResult (y1.setA v) := ⟨h.rest, h.flags⟩

theorem setFlag (h : y.SameButResult y1) {i : Nat} (hi : i < 5) (b : Bool) : y.SameButResult (y1.setFlag i b) :=
  ⟨h.rest, fun j hj => (getBit_putBit_ne _ b (by omega)).trans (h.flags j hj)⟩

theorem setFlag? (h : y.SameButResult y1) {i : Nat} (hi : i < 5) (b : Option Bool) : y.SameButResult (y1.setFlag? i b) := by
  cases b with
  | none => exact h
  | some b => exact h.setFlag hi b

theorem setCmp (h : y.SameButResult y1) (r : Res) : y.SameButResult (y1.setCmp r) := by
  have hzn : y.SameButResult (y1.setZN r.val) := (h.setFlag (i := stZ) (by decide) _).setFlag (i := stN) (by decide) _
  have hcv := (hzn.setFlag? (i := stC) (by decide) r.c).setFlag? (i := stV) (by decide) r.v
  unfold Ctx.setCmp Ctx.setCVQ
  dsimp only
  split
  · exact hcv.setFlag (i := stQ) (by decide) true
  · exact hcv

theorem setRes (h : y.SameButResult y1) (r : Res) : y.SameButResult (y1.setRes r) := (h.setCmp r).setA r.val

/-! With a result after a memory operand, the context of before the instruction is kept but for the operand's pointer. -/

variable {s : State} {z : Size} {m : MemOp 12} (h : (s.afterL z m).SameButResult y1)
include h

theorem afterL_rest :
    { y1 with a := s.me.a, st := s.me.st, p := s.me.p, oorf := s.me.oorf, oora := s.me.oora } = s.me :=
  calc { y1 with a := s.me.a, st := s.me.st, p := s.me.p, oorf := s.me.oorf, oora := s.me.oora }
      = { s.afterL z m with a := s.me.a, st := s.me.st, p := s.me.p, oorf := s.me.oorf, oora := s.me.oora } :=
        (congrArg (fun y : Ctx => { y with
          a := s.me.a, st := s.me.st, p := s.me.p, oorf := s.me.oorf, oora := s.me.oora }) h.rest :)
    _ = s.me := (congrArg (fun y : Ctx => { y with a := s.me.a, st := s.me.st }) (s.afterL_frame z m) :)

theorem afterL_ptr (p : PReg) : y1.ptr p = (s.afterL z m).ptr p := (congrArg (Ctx.ptr · p) h.rest :)

theorem afterL_flags (j : Nat) (hj : 5 ≤ j) : y1.flag j = s.me.flag j :=
  (h.flags j hj).trans (congrArg (Ctx.flag · j) (s.afterL_frame z m) :)

end Ctx.SameButResult

/-- `o` is the next state in which the executing context is `y` with a result, gone on to the next instruction. -/
def State.GoesOnWith (s : State) (y : Ctx) (o : Out) : Prop := ∃ y1, y.SameButResult y1 ∧ o = .next (s.setMe y1.advance)

/-- An instruction admitted outside flow phases alone is admitted by the weaker condition too. -/
theorem State.bars_admL (s : State) (flow : Bool) (h : s.bars (admL false) = none) : s.bars (admL flow) = none := by
  cases flow
  · exact h
  · cases hf : s.me.flag stFLW
    · simpa [State.bars, admL, hf] using h
    · simp [State.bars, admL, hf] at h

section
variable {s : State} {z : Size} {m : MemOp 12} {v : Word} (h : s.lOperand false z m v)
include h

/-- An instruction whose operand reads as `v` does what its function says of `v`. -/
theorem operand_reads (i : Instr) (flow : Bool) (f : Word → Addr → Ctx → Act) :
    operand i (admL flow) z m s f = finish i (f v (eaOf m s.me) (s.afterL z m)) := by
  obtain ⟨⟨hbars, hhold⟩, haligned, hread⟩ := h
  unfold operand
  rw [run_issues _ _ _ _ _ ⟨s.bars_admL flow hbars, hhold⟩]
  simp [haligned, hread, State.afterL]

theorem aluMem_goesOn (i : Instr) (flow sx : Bool) (f : Word → Word → Word → Res) :
    s.GoesOnWith (s.afterL z m) (aluMem i flow sx z m s f) :=
  ⟨_, (Ctx.SameButResult.refl _).setRes _, operand_reads h i flow _⟩

theorem aluMemCmp_goesOn (i : Instr) (sx : Bool) (f : Word → Word → Res) :
    s.GoesOnWith (s.afterL z m) (aluMemCmp i sx z m s f) :=
  ⟨_, (Ctx.SameButResult.refl _).setCmp _, operand_reads h i true _⟩

/-- A division whose operand is not 0. -/
theorem aluMemDiv_goesOn (hv : v ≠ 0) (i : Instr) (sx : Bool) (f : Word → Word → Res) :
    s.GoesOnWith (s.afterL z m) (aluMemDiv i sx z m s f) := by
  refine ⟨_, (Ctx.SameButResult.refl _).setRes (f (s.afterL z m).a (extend sx z v)), ?_⟩
  unfold aluMemDiv
  rw [operand_reads h, if_neg (by simpa using hv)]
  rfl

theorem fpu_goesOn (i : Instr) (f : Rm → FVal → Word → Word) : s.GoesOnWith (s.afterL z m) (fpu i z m s f) :=
  ⟨_, (Ctx.SameButResult.refl _).setA _, operand_reads h i false _⟩

end

theorem execFcmp_goesOn {s : State} {m : MemOp 12} {v : Word} (h : s.lOperand false .w m v) :
    s.GoesOnWith (s.afterL .w m) (execFcmp m s) :=
  ⟨_, ((((Ctx.SameButResult.refl _).setFlag (i := stZ) (by decide) _).setFlag (i := stN) (by decide) _).setFlag (i := stC)
    (by decide) _).setFlag (i := stV) (by decide) _, operand_reads h (.fcmp m) false _⟩

theorem execFcvti_goesOn {s : State} {m : MemOp 12} {v : Word} (h : s.lOperand false .w m v) :
    s.GoesOnWith (s.afterL .w m) (execFcvti m s) := by
  refine ⟨_, ?_, operand_reads h (.fcvti m) false _⟩
  refine Ctx.SameButResult.setA ?_ _
  split
  · exact (Ctx.SameButResult.refl _).setFlag (i := stQ) (by decide) true
  · exact .refl _

/-- The ALU instructions with a memory operand. -/
theorem exec_alu_goesOn {s : State} {z : Size} {m : MemOp 12} {v : Word} (h : s.lOperand false z m v) (hv : v ≠ 0) :
    ∀ i ∈ [Instr.add z m, .adc z m, .sub z m, .sbc z m, .rsb z m, .adds z m, .addsu z m, .subs z m, .subsu z m, .and z m,
      .or z m, .xor z m, .andn z m, .shl z m, .shr z m, .sar z m, .rol z m, .ror z m, .min z m, .max z m, .minu z m,
      .maxu z m, .cmp z m, .tst z m, .mul z m, .mulh z m, .mulhu z m, .div z m, .divu z m, .rem z m, .remu z m],
      s.GoesOnWith (s.afterL z m) (exec i s) := by
  have alu := aluMem_goesOn h
  have cmp := aluMemCmp_goesOn h
  have div := aluMemDiv_goesOn h hv
  simp only [List.forall_mem_cons, List.not_mem_nil, false_imp_iff, implies_true, and_true]
  dsimp only [exec]
  exact ⟨alu .., alu .., alu .., alu .., alu .., alu .., alu .., alu .., alu .., alu .., alu .., alu .., alu .., alu ..,
    alu .., alu .., alu .., alu .., alu .., alu .., alu .., alu .., cmp .., cmp .., alu .., alu .., alu .., div .., div ..,
    div .., div ..⟩

/-- The float instructions with an FP32 or a word operand. -/
theorem exec_fpuW_goesOn {s : State} {m : MemOp 12} {v : Word} (h : s.lOperand false .w m v) :
    ∀ i ∈ [Instr.fadd m, .fsub m, .frsub m, .fmul m, .fdiv m, .fmin m, .fmax m, .fcmp m, .fsqrt m, .frndbf m, .frndhf m,
      .fcvti m, .fcvtf m, .fcvtuf m], s.GoesOnWith (s.afterL .w m) (exec i s) := by
  have fpu := fpu_goesOn h
  simp only [List.forall_mem_cons, List.not_mem_nil, false_imp_iff, implies_true, and_true]
  dsimp only [exec]
  exact ⟨fpu .., fpu .., fpu .., fpu .., fpu .., fpu .., fpu .., execFcmp_goesOn h, fpu .., fpu .., fpu ..,
    execFcvti_goesOn h, fpu .., fpu ..⟩

/-- The float instructions with a half-word operand. -/
theorem exec_fpuH_goesOn {s : State} {m : MemOp 12} {v : Word} (h : s.lOperand false .h m v) :
    ∀ i ∈ [Instr.fcvtbf m, .fcvthf m], s.GoesOnWith (s.afterL .h m) (exec i s) := by
  simp only [List.forall_mem_cons, List.not_mem_nil, false_imp_iff, implies_true, and_true]
  dsimp only [exec]
  exact ⟨fpu_goesOn h .., fpu_goesOn h ..⟩

/-- Settles O31: a replaced context changes nothing else, and a scalar instruction replaces its context by one that differs
from the one after its operand in its result alone. -/
theorem whatTheScalarInstructionsKeep : Obligations.WhatTheScalarInstructionsKeep := by
  refine ⟨fun s y => ⟨s.setMe_leaves y, s.setMe_me y, fun _ => rfl, fun _ _ => rfl, fun k n => s.setMe_slot k n y⟩, ?_⟩
  intro s t z m v i hi h hv ht
  have hgoes : s.GoesOnWith (s.afterL z m) (exec i s) := by
    obtain hi | ⟨rfl, hi⟩ | ⟨rfl, hi⟩ := hi
    · exact exec_alu_goesOn h hv i hi
    · exact exec_fpuW_goesOn h i hi
    · exact exec_fpuH_goesOn h i hi
  obtain ⟨y1, hsame, hexec⟩ := hgoes
  obtain rfl : t = s.setMe y1.advance := by simpa using ht.symm.trans hexec
  have hkeep := hsame.afterL_rest
  have hself := (hsame.afterL_ptr m.p).trans (s.afterL_ptr_self z m)
  rw [State.setMe_me]
  exact ⟨s.setMe_leaves _, fun p hp => (hsame.afterL_ptr p).trans (s.afterL_ptr_ne z m p hp),
    (congrArg (bits · 48 16) hself).trans (bits_withAddr ..), (congrArg addrOf hself).trans (addrOf_withAddr ..),
    (congrArg (Ctx.pc · + 4) hkeep :), (congrArg Ctx.lc0 hkeep :), (congrArg Ctx.lc1 hkeep :), (congrArg Ctx.rv hkeep :),
    (congrArg Ctx.tpc hkeep :), (congrArg Ctx.tcause hkeep :), (congrArg Ctx.taddr hkeep :), (congrArg Ctx.tval hkeep :),
    (congrArg Ctx.log hkeep :), (congrArg Ctx.latches hkeep :), hsame.afterL_flags, fun _ => rfl⟩

end Sys2Proof.Machine
end

section
/-! Helpers of the control context (O40): START, HWAIT, HKILL and END (10 R188 to R191). -/

namespace Sys2Proof.Machine

/-- The last of two writes of a key stands. -/
@[simp] theorem Sparse.put_put {α : Type} (m : Sparse α) (k : Nat) (x y : α) : (m.put k x).put k y = m.put k y := by
  induction m with
  | nil => simp [Sparse.put]
  | cons e t ih =>
    obtain ⟨j, z⟩ := e
    by_cases hj : k = j
    · simp [Sparse.put, hj]
    · by_cases hk : k < j
      · simp [Sparse.put, hj, hk]
      · simp [Sparse.put, hj, hk, ih]

/-- A core written after one of its contexts. -/
theorem State.setCtx_setCore (s : State) (k c : Nat) (y : Ctx) (x : Core) : (s.setCtx k c y).setCore k x = s.setCore k x := by
  simp [State.setCtx, State.setCore]

/-! ### Flags and reasons -/

theorem getBit_putBit_self {n : Nat} (w : BitVec n) {i : Nat} (b : Bool) (h : i < n) : getBit (putBit w i b) i = b := by
  cases b <;> simp [getBit, putBit, h]

/-- Z and N of a status (10 R190, R191). -/
theorem Ctx.status_flags (y : Ctx) (v : Word) : (y.status v).flag stZ = decide (v = 0) ∧ (y.status v).flag stN = false := by
  constructor
  · calc (y.status v).flag stZ
        = (y.setFlag stZ (v == 0)).flag stZ := getBit_putBit_ne _ _ (by decide)
      _ = decide (v = 0) := getBit_putBit_self _ _ (by decide)
  · exact getBit_putBit_self _ _ (by decide)

@[simp] theorem Ctx.status_a (y : Ctx) (v : Word) : (y.status v).a = v := rfl
@[simp] theorem Ctx.status_pc (y : Ctx) (v : Word) : (y.status v).pc = y.pc := rfl

@[simp] theorem State.setCtx_reasons (s : State) (k c i : Nat) (y : Ctx) :
    ((s.setCtx k c y).core i).reasons = (s.core i).reasons := (congrArg Core.reasons (s.setCtx_core k c i y) :)

@[simp] theorem State.setMe_reasons (s : State) (i : Nat) (y : Ctx) :
    ((s.setMe y).core i).reasons = (s.core i).reasons := s.setCtx_reasons ..

/-! ### The end of a helper, with its reason -/

/-- A context replaced by what is left of its helper, and the reason of the end noted (10 R189, R191). -/
def State.endsAs (s : State) (k c : Nat) (y : Ctx) (r : BitVec 2) : State :=
  let s1 := s.setCtx k c y
  s1.setCore k { s1.core k with reasons := (s1.core k).reasons.put c r }

@[simp] theorem State.endsAs_mem (s : State) (k c : Nat) (y : Ctx) (r : BitVec 2) : (s.endsAs k c y r).mem = s.mem := rfl
@[simp] theorem State.endsAs_cur (s : State) (k c : Nat) (y : Ctx) (r : BitVec 2) : (s.endsAs k c y r).cur = s.cur := rfl

@[simp] theorem State.endsAs_reason (s : State) (k c : Nat) (y : Ctx) (r : BitVec 2) :
    ((s.endsAs k c y r).core k).reasons.get 2 c = r := by
  simp [State.endsAs]

/-- A reason noted changes no context. -/
theorem State.endsAs_ctx (s : State) (k c i j : Nat) (y : Ctx) (r : BitVec 2) :
    (s.endsAs k c y r).ctx i j = (s.setCtx k c y).ctx i j := by
  unfold State.endsAs State.ctx
  by_cases hi : i = k
  · subst hi
    rw [State.setCore_core_self]
    rfl
  · rw [State.setCore_core_ne _ _ hi]

@[simp] theorem State.endsAs_ctx_self (s : State) (k c : Nat) (y : Ctx) (r : BitVec 2) : (s.endsAs k c y r).ctx k c = y :=
  (s.endsAs_ctx ..).trans (s.setCtx_ctx_self k c y)

theorem State.endsAs_ctx_ne (s : State) {k c i j : Nat} (y : Ctx) (r : BitVec 2) (h : (i, j) ≠ (k, c)) :
    (s.endsAs k c y r).ctx i j = s.ctx i j :=
  (s.endsAs_ctx ..).trans (s.setCtx_ctx_ne y h)

/-! ### Logs without a store under way -/

theorem LogEntry.not_held_of_not_busy {e : LogEntry} (h : e.busy = false) : e.state ≠ .held := by
  intro he
  simp [LogEntry.busy, he] at h

theorem Ctx.not_held_of_not_anyPosted {y : Ctx} (h : y.anyPosted = false) (e : Fin 8) : (y.log.get e).state ≠ .held := by
  have hmem : y.log.get e ∈ y.log.toList := Vector.mem_toList_iff.mpr (Vector.getElem_mem e.isLt)
  exact LogEntry.not_held_of_not_busy (by simpa using List.any_eq_false.mp h _ hmem)

/-- Where no entry of a log holds a release, none is sent. -/
theorem State.sendHeld_of_none (s : State) (k c : Nat) (h : ∀ e, ((s.ctx k c).log.get e).state ≠ .held) :
    s.sendHeld k c = s := by
  unfold State.sendHeld
  induction List.finRange 8 with
  | nil => rfl
  | cons e l ih => rwa [List.foldl_cons, if_neg fun hh => h e hh.1]

theorem Ctx.discardFailed_log (y : Ctx) (e : Fin 8) : (y.discardFailed.log.get e).state ≠ .failed := by
  have hget : y.discardFailed.log.get e = if (y.log.get e).state = .failed then {} else y.log.get e :=
    Vector.getElem_ofFn e.isLt
  rw [hget]
  split
  · decide
  · assumption

/-! ### The instructions -/

/-- A word offset counts four bytes (02 R35). -/
theorem Ctx.target_eq {n : Nat} (y : Ctx) (o : BitVec n) : y.target o = y.pc + 4 * o.signExtend 48 := by
  have hfour (w : Addr) : w <<< 2 = 4 * w := by
    rw [BitVec.shiftLeft_eq_mul_twoPow, BitVec.mul_comm]
    rfl
  exact congrArg (y.pc + ·) (hfour _)

section
variable {s : State} {h : BitVec 4} (hhold : s.me.hold = none)
include hhold

/-- START of a helper that is not live (10 R188). -/
theorem startOp_starts (i : Instr) (mig : Bool) (o : BitVec 16) (hl : (s.ctx s.k h.toNat).live = false)
    (hg : (s.ctx s.k h.toNat).guest = none) (hb : s.bars { helper := false, twin := !mig } = none) :
    startOp i mig h o s =
      .next ((s.setCtx s.k h.toNat (s.me.helper (s.me.target o) mig)).setMe s.me.advance) := by
  unfold startOp
  rw [run_issues _ _ _ _ _ ⟨hb, hhold⟩]
  simp [hl, hg, State.retire, finish]

/-- START and START.M. -/
theorem exec_start_starts (mig : Bool) (o : BitVec 16) (hl : (s.ctx s.k h.toNat).live = false)
    (hg : (s.ctx s.k h.toNat).guest = none) (hb : s.bars { helper := false, twin := !mig } = none) :
    exec (if mig then .startM h o else .start h o) s =
      .next ((s.setCtx s.k h.toNat (s.me.helper (s.me.target o) mig)).setMe s.me.advance) := by
  cases mig
  · exact startOp_starts hhold (.start h o) false o hl hg hb
  · exact startOp_starts hhold (.startM h o) true o hl hg hb

/-- HWAIT of a helper that is not live (10 R190). -/
theorem execHwait_stopped (hl : (s.ctx s.k h.toNat).live = false) (hb : s.bars { helper := false } = none) :
    exec (.hwait h) s =
      .next (s.setMe (s.me.status (((s.core s.k).reasons.get 2 h.toNat).setWidth 64)).advance) := by
  show execHwait h s = _
  unfold execHwait
  rw [run_issues _ _ _ _ _ ⟨hb, hhold⟩]
  simp [hl, State.retire, finish]

/-- HKILL of a helper that is not live (10 R191). -/
theorem execHkill_stopped (hl : (s.ctx s.k h.toNat).live = false) (hb : s.bars { helper := false } = none) :
    exec (.hkill h) s = .next (s.setMe (s.me.status 0).advance) := by
  show execHkill h s = _
  unfold execHkill
  rw [run_issues _ _ _ _ _ ⟨hb, hhold⟩]
  simp [hhold, hl, State.retire, finish]

end

/-- HKILL stops a helper that is at its own core and has no release to send (10 R191). -/
theorem State.stopHelper_here (s : State) (k j : Nat) (ha : (s.ctx k j).away = none) (hp : (s.ctx k j).anyPosted = false) :
    s.stopHelper k j = s.endsAs k j (s.ctx k j).stopped 1 := by
  have hrecall : s.recallHelper k j = s := by simp [State.recallHelper, ha]
  have hnone (e : Fin 8) : (((s.endsAs k j (s.ctx k j).stopped 1).ctx k j).log.get e).state ≠ .held := by
    rw [State.endsAs_ctx_self]
    exact Ctx.not_held_of_not_anyPosted hp e
  calc s.stopHelper k j
      = (s.endsAs k j (s.ctx k j).stopped 1).sendHeld k j := by
        unfold State.stopHelper State.endsAs
        rw [hrecall, State.setCtx_setCore]
    _ = s.endsAs k j (s.ctx k j).stopped 1 := State.sendHeld_of_none _ k j hnone

/-- HKILL of another context's live helper that stands at its core with no store under way (10 R191). -/
theorem execHkill_live {s : State} {h : BitVec 4} (hother : (s.k, h.toNat) ≠ s.cur) (hhold : s.me.hold = none)
    (hb : s.bars { helper := false } = none) (hl : (s.ctx s.k h.toNat).live = true)
    (hg : (s.ctx s.k h.toNat).guest = none) (ha : (s.ctx s.k h.toNat).away = none)
    (hm : (s.ctx s.k h.toNat).midway = false) (hp : (s.ctx s.k h.toNat).anyPosted = false) :
    let x := s.ctx s.k h.toNat
    exec (.hkill h) s = .next (((s.endsAs s.k h.toNat x.stopped 1).setCtx s.k h.toNat x.stopped.discardFailed).setMe
      (s.me.status (BitVec.ofNat 64 x.failedCount)).advance) := by
  intro x
  let s1 := s.endsAs s.k h.toNat x.stopped 1
  have hmid : s.helperMidway s.k h.toNat = false := by simp [State.helperMidway, State.helperAt, ha, hm]
  have hx : s1.ctx s1.k h.toNat = x.stopped := s.endsAs_ctx_self ..
  have hlog : x.stopped.anyPosted = false := hp
  have hme : s1.me = s.me := s.endsAs_ctx_ne _ _ hother.symm
  show execHkill h s = _
  unfold execHkill
  rw [run_issues _ _ _ _ _ ⟨hb, hhold⟩]
  simp only [hhold, hl, hg, hmid, s.stopHelper_here _ _ ha hp]
  show finish _ (if (s1.ctx s1.k h.toNat).anyPosted then _ else State.retire (s1.setCtx s1.k h.toNat
    (s1.ctx s1.k h.toNat).discardFailed) (s1.me.status (BitVec.ofNat 64 (s1.ctx s1.k h.toNat).failedCount))) = _
  rw [hx, hme, hlog]
  rfl

/-- A helper that is no guest ends in its own context (10 R189). -/
theorem State.endHelper_here (s : State) (hg : s.me.guest = none) : s.endHelper = s.endsAs s.k s.c s.me.stopped 0 := by
  unfold State.endHelper
  rw [hg]
  rfl

/-- END of a helper that is no guest, handles no trap and has no store under way (10 R189). -/
theorem execEndT_helper {s : State} (hhold : s.me.hold = none) (hb : s.bars {} = none) (hc : s.c ≠ 0)
    (hg : s.me.guest = none) (ht : s.me.flag stTRP = false) (hp : s.me.anyPosted = false) :
    exec .endT s = .next (s.endsAs s.k s.c s.me.stopped 0) := by
  show execEndT s = _
  unfold execEndT
  rw [run_issues _ _ _ _ _ ⟨hb, hhold⟩]
  simp only [hc, ht, hp, s.endHelper_here hg, if_false, Bool.false_eq_true]
  rfl

/-- Settles O40: each instruction is one replacement of contexts, read off here field by field. -/
theorem helpersStartWaitAndEnd : Obligations.HelpersStartWaitAndEnd := by
  intro s h o hhold
  refine ⟨fun hc h1 h10 => ?_, fun hb hc hg ht hp => ?_⟩
  · have hother : (s.k, h.toNat) ≠ s.cur := fun e => by
      have : h.toNat = s.c := congrArg Prod.snd e
      omega
    refine ⟨fun hl hg mig hb => ?_, fun hl hb => ⟨?_, ?_⟩, fun hl hg ha hm hp hb => ?_⟩
    · let s1 := s.setCtx s.k h.toNat (s.me.helper (s.me.target o) mig)
      have hy := (s1.setMe_ctx_ne s.me.advance hother).trans (s.setCtx_ctx_self ..)
      refine ⟨_, exec_start_starts hhold mig o hl hg hb, State.setMe_me .., ?_⟩
      rw [hy]
      exact ⟨rfl, s.me.target_eq o, rfl, rfl, rfl, rfl, rfl, rfl, rfl, rfl⟩
    · refine ⟨_, execHwait_stopped hhold hl hb, s.setMe_leaves _, ?_⟩
      obtain ⟨hz, hn⟩ := s.me.status_flags (((s.core s.k).reasons.get 2 h.toNat).setWidth 64)
      rw [State.setMe_me]
      exact ⟨rfl, hz, hn, rfl⟩
    · refine ⟨_, execHkill_stopped hhold hl hb, s.setMe_leaves _, ?_⟩
      rw [State.setMe_me]
      exact ⟨rfl, (s.me.status_flags 0).1, rfl⟩
    · let x := s.ctx s.k h.toNat
      let s1 := (s.endsAs s.k h.toNat x.stopped 1).setCtx s.k h.toNat x.stopped.discardFailed
      have hy := (s1.setMe_ctx_ne (s.me.status (BitVec.ofNat 64 x.failedCount)).advance hother).trans
        (State.setCtx_ctx_self ..)
      refine ⟨_, execHkill_live hother hhold hb hl hg ha hm hp, ?_⟩
      rw [State.setMe_me, hy, State.setMe_reasons, State.setCtx_reasons, State.endsAs_reason]
      exact ⟨rfl, rfl, rfl, Ctx.discardFailed_log _, rfl, rfl⟩
  · refine ⟨_, execEndT_helper hhold hb hc hg ht hp, ?_⟩
    have hme : (s.endsAs s.k s.c s.me.stopped 0).me = s.me.stopped := s.endsAs_ctx_self ..
    rw [hme, State.endsAs_reason]
    exact ⟨rfl, rfl, rfl, rfl, rfl⟩

end Sys2Proof.Machine
end

section
/-! The state after reset (O6): every unit reads as its default, and the constants of CAPC and CAPID. -/

namespace Sys2Proof.Machine

/-! ### Contexts and slots -/

/-- A context of a core site; that of a service core has SUP set (01 R19). -/
theorem State.reset_ctx {k : Nat} (c : Nat) (h : k < sites) : State.reset.ctx k c = {} := if_pos h

theorem Ctx.default_ptr (n : PReg) : ({} : Ctx).ptr n = 0 := Vector.getElem_replicate n.isLt
theorem Ctx.default_log (e : Fin 8) : ({} : Ctx).log.get e = {} := Vector.getElem_replicate e.isLt

/-- An EMPTY slot (01 R22). -/
theorem State.reset_slot_image (k n : Nat) : (State.reset.slot k n).image = 0x3FF := by
  show ({} : Slot).image = 0x3FF
  decide

/-! ### CAPC (18 R282) -/

theorem capc_arith (n : Nat) (h : n < 2 ^ 16) :
    (n + 512 * 2 ^ 16 + 2048 * 2 ^ 32 + 32 * 2 ^ 48) % 2 ^ 64 / 2 ^ 16 % 2 ^ 48 = 0x0020_0800_0200 := by
  omega

/-- Above the counts of cores and the bit of the service core, which are below 2^16, CAPC holds constants. -/
theorem State.capc_constants (s : State) (cl : Nat) : bits (s.capc cl) 16 48 = 0x0020_0800_0200 := by
  have hcount (p : Nat → Bool) : ((clusterCores cl).filter p).length ≤ 64 :=
    (List.length_filter_le ..).trans (by simp [clusterCores])
  have hinsv := hcount fun k => !(s.core k).outOfService
  have hquar := hcount fun k => (s.core k).quarantined && !(s.core k).outOfService
  have hsvc : (if (s.core (serviceOf cl)).outOfService then 0 else 2 ^ 14) ≤ 2 ^ 14 := by split <;> decide
  apply BitVec.eq_of_toNat_eq
  rw [BitVec.extractLsb'_toNat, State.capc, BitVec.toNat_ofNat, Nat.shiftRight_eq_div_pow, capc_arith _ (by omega)]
  rfl

/-- Settles O6: nothing is listed in the reset state, so every unit reads as its default. -/
theorem resetLeavesTheStatedValues : Obligations.ResetLeavesTheStatedValues := by
  refine ⟨rfl, fun k c hk => ?_, State.reset_slot_image, fun _ => ⟨rfl, rfl, rfl⟩, rfl, rfl, rfl, rfl, rfl, by decide, rfl, rfl,
    rfl, by decide, rfl, by decide, fun _ => ⟨rfl, rfl, fun _ => rfl⟩, fun _ _ => ⟨rfl, rfl, rfl, rfl, rfl, rfl, rfl⟩,
    fun _ => rfl, fun _ _ => rfl, rfl, State.reset.capc_constants, by decide⟩
  have hlog (e : BitVec 3) : State.reset.csrGet k c (.log e) = 0 := by
    show ((State.reset.ctx k c).log.get e.toFin).image = 0
    rw [State.reset_ctx c hk, Ctx.default_log]
    decide
  rw [State.reset_ctx c hk]
  exact ⟨rfl, Ctx.default_ptr, rfl, rfl, rfl, hlog⟩

end Sys2Proof.Machine
end

section
/-! The decoder and the encoder agree (O1, O2, O3): fields of a packed word, codes of the fields, and per format that the
decoder answers only instructions whose word it was given, and reads each instruction from its word. -/

namespace Sys2Proof

/-! ### Fields of a concatenation -/

theorem bits_append_low {v w : Nat} (x : BitVec v) (y : BitVec w) {lo k : Nat} (h : lo + k ≤ w) :
    bits (x ++ y) lo k = bits y lo k := BitVec.extractLsb'_append_eq_of_add_le h

theorem bits_append_high {v w : Nat} (x : BitVec v) (y : BitVec w) {lo k : Nat} (h : w ≤ lo) :
    bits (x ++ y) lo k = bits x (lo - w) k := BitVec.extractLsb'_append_eq_of_le h

theorem bits_append_bits {n lo k j hi : Nat} (w : BitVec n) (h : hi = lo + j) :
    bits w hi k ++ bits w lo j = bits w lo (k + j) := BitVec.extractLsb'_append_extractLsb'_eq_extractLsb' h

theorem bits_self {n : Nat} (w : BitVec n) : bits w 0 n = w := BitVec.extractLsb'_eq_self

theorem bits_zero {n : Nat} (lo k : Nat) : bits (0 : BitVec n) lo k = 0 := by simp

/-- A word whose high bits are zero, from its low bits. -/
theorem zero_append_bits {m n : Nat} {x : BitVec (m + n)} (h : (bits x n m == 0) = true) : 0#m ++ bits x 0 n = x := by
  rw [show 0#m = bits x n m from (eq_of_beq h).symm, bits_append_bits x (Nat.zero_add n).symm, bits_self]

/-- The same with the low bits cut in two. -/
theorem zero_append_bits_append_bits {m p q : Nat} {x : BitVec (m + p + q)} (h : (bits x (p + q) m == 0) = true) :
    0#m ++ bits x q p ++ bits x 0 q = x := by
  rw [show 0#m = bits x (p + q) m from (eq_of_beq h).symm, bits_append_bits x (Nat.add_comm p q),
    bits_append_bits x (Nat.zero_add q).symm, bits_self]

theorem bits_bits {n j lo k : Nat} (w : BitVec n) (h : lo + k ≤ j) : bits (bits w 0 j) lo k = bits w lo k := by
  ext l hl
  simp
  omega

theorem eq_ofNat_of_toNat {n k : Nat} {f : BitVec n} (h : f.toNat = k) : f = BitVec.ofNat n k := by simp [← h]

theorem bit1_beq_one (b : Bool) : (bit1 b == 1) = b := by cases b <;> rfl
theorem bit1_of_beq_one : ∀ x : BitVec 1, bit1 (x == 1) = x := by decide

/-! ### Words of a major opcode, format by format -/

section
variable {w : W32} {j : Nat} (h : (bits w 26 6).toNat = j)
include h

theorem packI_of_major : packI (BitVec.ofNat 6 j) (bits w 20 6) (bits w 0 20) = w := by
  rw [← eq_ofNat_of_toNat h, packI]
  simp (disch := decide) only [bits_append_bits, bits_self]

theorem packL_of_major :
    packL (BitVec.ofNat 6 j) (bits w 23 3) (bits w 20 3) (bits w 18 2) (bits w 17 1) (bits w 15 2) (bits w 0 15) = w := by
  rw [← eq_ofNat_of_toNat h, packL]
  simp (disch := decide) only [bits_append_bits, bits_self]

theorem packA_of_major :
    packA (BitVec.ofNat 6 j) (bits w 23 3) (bits w 20 3) (bits w 18 2) (bits w 12 6) (bits w 0 12) = w := by
  rw [← eq_ofNat_of_toNat h, packA]
  simp (disch := decide) only [bits_append_bits, bits_self]

theorem packB_of_major : packB (BitVec.ofNat 6 j) (bits w 22 4) (bits w 0 22) = w := by
  rw [← eq_ofNat_of_toNat h, packB]
  simp (disch := decide) only [bits_append_bits, bits_self]

theorem packP_of_major : packP (BitVec.ofNat 6 j) (bits w 23 3) (bits w 20 3) (bits w 16 4) (bits w 0 16) = w := by
  rw [← eq_ofNat_of_toNat h, packP]
  simp (disch := decide) only [bits_append_bits, bits_self]

theorem packE_of_major : packE (BitVec.ofNat 6 j) (bits w 23 3) (bits w 20 3) (bits w 14 6) (bits w 0 14) = w := by
  rw [← eq_ofNat_of_toNat h, packE]
  simp (disch := decide) only [bits_append_bits, bits_self]

theorem packK_of_major : packK (BitVec.ofNat 6 j) (bits w 20 6) (bits w 16 4) (bits w 0 16) = w := by
  rw [← eq_ofNat_of_toNat h, packK]
  simp (disch := decide) only [bits_append_bits, bits_self]

end

theorem packK_eq_packI (j f : BitVec 6) (s : BitVec 4) (i : BitVec 16) : packK j f s i = packI j f (s ++ i) := by
  unfold packK packI
  ext n hn
  simp
  grind

/-! ### Codes of the fields -/

@[simp] theorem Size.ofCode_code (z : Size) : Size.ofCode z.code = z := by cases z <;> rfl
@[simp] theorem Size.code_ofCode : ∀ c, (Size.ofCode c).code = c := by decide
@[simp] theorem Mode.ofCode_code (m : Mode) : Mode.ofCode m.code = some m := by cases m <;> rfl
theorem Mode.code_of_ofCode : ∀ c, ∀ m ∈ Mode.ofCode c, m.code = c := by decide
@[simp] theorem Order.ofCode_code (o : Order) : Order.ofCode o.code = o := by cases o <;> rfl
@[simp] theorem Order.code_ofCode : ∀ c, (Order.ofCode c).code = c := by decide
@[simp] theorem Scope.ofCode_code (s : Scope) : Scope.ofCode s.code = some s := by cases s <;> rfl
theorem Scope.code_of_ofCode : ∀ c, ∀ s ∈ Scope.ofCode c, s.code = c := by decide
@[simp] theorem Cond.ofCode_code (c : Cond) : Cond.ofCode c.code = c := by cases c <;> rfl
@[simp] theorem Cond.code_ofCode : ∀ c, (Cond.ofCode c).code = c := by decide
@[simp] theorem Link.ofCode_code (l : Link) : Link.ofCode l.code = some l := by cases l <;> rfl
theorem Link.code_of_ofCode : ∀ c, ∀ l ∈ Link.ofCode c, l.code = c := by decide
@[simp] theorem ICScope.ofCode_code (s : ICScope) : ICScope.ofCode s.code = s := by cases s <;> rfl
@[simp] theorem ICScope.code_ofCode : ∀ c, (ICScope.ofCode c).code = c := by decide
@[simp] theorem TlbScope.ofCode_code (s : TlbScope) : TlbScope.ofCode s.code = some s := by cases s <;> rfl
theorem TlbScope.code_of_ofCode : ∀ c, ∀ s ∈ TlbScope.ofCode c, s.code = c := by decide
@[simp] theorem VCond.ofCode_code (c : VCond) : VCond.ofCode c.code = c := by cases c <;> rfl
@[simp] theorem VCond.code_ofCode : ∀ c, (VCond.ofCode c).code = c := by decide
@[simp] theorem ROp.ofCode_code (r : ROp) : ROp.ofCode r.code = some r := by cases r <;> rfl
theorem ROp.code_of_ofCode : ∀ c, ∀ r ∈ ROp.ofCode c, r.code = c := by decide

/-- The CSR numbers of Table 11-3 and back; the attach table has twelve entries. -/
theorem Csr.ofCode_code (c : Csr) (h : c.wf = true) : Csr.ofCode c.code = some c := by
  cases c with
  | log k => revert k; decide
  | vcnt k => revert k; decide
  | att n => revert n; decide
  | _ => rfl

theorem Csr.ofCode_eq_none {x : BitVec 12} (h : 0x100 ≤ x.toNat) : Csr.ofCode x = none := by
  obtain ⟨k, hk⟩ := Nat.exists_eq_add_of_le' h
  unfold Csr.ofCode
  rw [hk]
  rfl

theorem Csr.code_of_ofCode_low : ∀ x y : BitVec 4, ∀ c ∈ Csr.ofCode (0#4 ++ x ++ y),
    c.wf = true ∧ c.code = 0#4 ++ x ++ y := by
  decide

theorem Csr.code_of_ofCode {x : BitVec 12} {c : Csr} (h : Csr.ofCode x = some c) : c.wf = true ∧ c.code = x := by
  rcases Nat.lt_or_ge x.toNat 0x100 with hx | hx
  · have h0 : 0#4 = bits x 8 4 := BitVec.eq_of_toNat_eq <| by
      rw [BitVec.extractLsb'_toNat, Nat.shiftRight_eq_div_pow, Nat.div_eq_of_lt hx]
      rfl
    have hx : 0#4 ++ bits x 4 4 ++ bits x 0 4 = x := by
      simp (disch := decide) only [h0, bits_append_bits, bits_self]
    rw [← hx] at h ⊢
    exact Csr.code_of_ofCode_low _ _ c h
  · rw [Csr.ofCode_eq_none hx] at h
    cases h

/-! ### Memory operands (02 R42) -/

theorem memOp_of_wf {n : Nat} {m : MemOp n} (h : m.wf = true) : memOp m.p m.mode.code m.d = .ok m := by
  simp only [memOp, Mode.ofCode_code]
  exact if_pos h

theorem memOp_ok {n : Nat} {p m : BitVec 3} {d : BitVec n} {mo : MemOp n} (h : memOp p m d = .ok mo) :
    mo.wf = true ∧ p = mo.p ∧ m = mo.mode.code ∧ d = mo.d := by
  unfold memOp at h
  split at h
  · cases h
  next mode hm =>
    split at h
    next hd => cases h; exact ⟨hd, rfl, (Mode.code_of_ofCode m mode hm).symm, rfl⟩
    · cases h

/-! ### Faithful decoders -/

/-- Whatever instruction the decoder's answer `d` names is well formed and has the word `w`. -/
def Faithful (d : Except Reject Instr) (w : W32) : Prop := ∀ i, d = .ok i → i.wf = true ∧ encode i = some w

namespace Faithful

variable {d : Except Reject Instr} {w v : W32} {i : Instr} {r : Reject}

theorem error : Faithful (.error r) w := fun _ h => nomatch h

theorem ok (hw : i.wf = true) (he : encode i = some w) : Faithful (.ok i) w := by
  rintro _ ⟨⟩
  exact ⟨hw, he⟩

/-- The encoder packs the fields `x`, which are the fields `y` of the word. -/
theorem packed {α : Type} {k : α → W32} {x y : α} (hw : i.wf = true) (he : encode i = some (k x)) (h : x = y) :
    Faithful (.ok i) (k y) := ok hw (h ▸ he)

theorem need {c : Bool} (h : c = true → Faithful d w) : Faithful (need c r d) w := by
  cases c with
  | true => exact h rfl
  | false => exact error

theorem word (e : v = w) (h : Faithful d v) : Faithful d w := e ▸ h

/-- An instruction whose field `x` is reserved as a whole. -/
theorem zero {n : Nat} {x : BitVec n} {k : BitVec n → W32} (hw : i.wf = true) (he : encode i = some (k 0)) :
    Faithful (Sys2Proof.need (x == 0) r (.ok i)) (k x) :=
  need fun h => packed hw he (eq_of_beq h).symm

theorem field {m n : Nat} {x : BitVec (m + n)} {k : BitVec (m + n) → W32} (hw : i.wf = true)
    (he : encode i = some (k (0#m ++ bits x 0 n))) : Faithful (Sys2Proof.need (bits x n m == 0) r (.ok i)) (k x) :=
  need fun h => packed hw he (zero_append_bits h)

theorem csr {f : BitVec 6} {x : BitVec 20} {k : Csr → Instr} {c : Csr} (hw : (k c).wf = c.wf)
    (he : encode (k c) = encS f ((0 : BitVec 8) ++ c.code : BitVec 20)) (h : (bits x 12 8 == 0) = true)
    (hc : Csr.ofCode (bits x 0 12) = some c) : Faithful (.ok (k c)) (packI 0 f x) := by
  obtain ⟨hcw, hcode⟩ := Csr.code_of_ofCode hc
  refine packed (hw.trans hcw) he ?_
  simp (disch := decide) only [hcode, ← eq_of_beq h, bits_append_bits, bits_self]

/-- A decoder that refuses the function codes from `n` on is faithful if it is so for those below. -/
theorem of_func {n b : Nat} {d : BitVec b → Except Reject Instr} {k : BitVec b → W32}
    (hhigh : ∀ f : BitVec b, n ≤ f.toNat → d f = .error r)
    (hlow : ∀ c < n, Faithful (d (BitVec.ofNat b c)) (k (BitVec.ofNat b c))) (f : BitVec b) : Faithful (d f) (k f) := by
  obtain h | h := Nat.lt_or_ge f.toNat n
  · have hf := hlow _ h
    rwa [← eq_ofNat_of_toNat (f := f) rfl] at hf
  · rw [hhigh f h]
    exact error

end Faithful

/-! ### Major 0x00 -/

theorem decodeSys_func {f : BitVec 6} {x : BitVec 20} (h : 0x17 ≤ f.toNat) : decodeSys f x = .error .func := by
  obtain ⟨k, hk⟩ := Nat.exists_eq_add_of_le' h
  unfold decodeSys
  rw [hk]
  rfl

theorem decodeCsr_faithful {f : BitVec 6} {x : BitVec 20} {k : Csr → Instr} (hw : ∀ c, (k c).wf = c.wf)
    (he : ∀ c, encode (k c) = encS f ((0 : BitVec 8) ++ c.code : BitVec 20)) :
    Faithful (need (bits x 12 8 == 0) .reserved
      (match Csr.ofCode (bits x 0 12) with
       | some c => .ok (k c)
       | none => .error .value)) (packI 0 f x) := by
  refine .need fun h => ?_
  split
  next c hc => exact .csr (hw c) (he c) h hc
  · exact .error

theorem decodeTlbinv_faithful {x : BitVec 20} :
    Faithful (need (bits x 9 11 == 0) .reserved
      (match TlbScope.ofCode (bits x 0 2) with
       | some s => .ok (.tlbinv (bits x 8 1 == 1) (bits x 2 6) s)
       | none => .error .value)) (packI 0 0x0C x) := by
  refine .need fun h => ?_
  split
  next s hs =>
    refine .packed rfl rfl ?_
    simp (disch := decide) only [bit1_of_beq_one, TlbScope.code_of_ofCode _ s hs, ← eq_of_beq h, bits_append_bits, bits_self]
  · exact .error

/-- The functions of Table 11-1 in order, from 0x00 on. -/
theorem decodeSys_faithful (f : BitVec 6) (x : BitVec 20) : Faithful (decodeSys f x) (packI 0 f x) := by
  refine .of_func (d := fun f => decodeSys f x) (k := fun f => packI 0 f x) (fun _ => decodeSys_func) (fun n h => ?_) f
  interval_cases n
  · exact .error
  · exact .zero rfl rfl
  · exact .ok rfl rfl
  · exact .zero rfl rfl
  iterate 4 exact decodeCsr_faithful (fun _ => rfl) fun _ => rfl
  · exact .need fun h => .need fun hm => .packed hm rfl (zero_append_bits (m := 16) (n := 4) h)
  · exact .need fun h => .packed rfl rfl
      (by rw [bit1_of_beq_one]; exact zero_append_bits_append_bits (m := 13) (p := 1) (q := 6) h)
  · exact .need fun h => .packed rfl rfl (by rw [ICScope.code_ofCode]; exact zero_append_bits (m := 18) (n := 2) h)
  · exact .need fun h => .packed rfl rfl
      (by rw [bit1_of_beq_one]; exact zero_append_bits_append_bits (m := 13) (p := 1) (q := 6) h)
  · exact decodeTlbinv_faithful
  iterate 3 exact .field (m := 14) (n := 6) rfl rfl
  · exact .need fun h => .packed rfl rfl
      (by rw [bit1_of_beq_one]; exact zero_append_bits_append_bits (m := 13) (p := 6) (q := 1) h)
  · exact .ok rfl rfl
  iterate 2 exact .zero rfl rfl
  · exact .field (m := 17) (n := 3) rfl rfl
  iterate 2 exact .zero rfl rfl

/-! ### Format L -/

section
variable {p m : BitVec 3} {z : BitVec 2} {sx : Bool} {j : BitVec 6} {x : BitVec 15}

theorem decodeLoad_faithful {k : Size → Bool → MemOp 15 → Instr} (hw : ∀ z sx m, (k z sx m).wf = (sxWf z sx && m.wf))
    (he : ∀ z sx m, encode (k z sx m) = encL j z sx m) :
    Faithful (decodeLoad k p m z sx x) (packL j p m z (bit1 sx) 0 x) := by
  unfold decodeLoad
  split
  · exact .error
  next mo hmo =>
    obtain ⟨hmw, rfl, rfl, rfl⟩ := memOp_ok hmo
    refine .need fun h => .ok ?_ ?_
    · rw [hw, h, hmw]; rfl
    · rw [he, encL, Size.code_ofCode]

theorem decodeStore_faithful {k : Size → MemOp 15 → Instr} (hw : ∀ z m, (k z m).wf = m.wf)
    (he : ∀ z m, encode (k z m) = encL j z false m) :
    Faithful (decodeStore k p m z sx x) (packL j p m z (bit1 sx) 0 x) := by
  unfold decodeStore
  split
  · exact .error
  next mo hmo =>
    obtain ⟨hmw, rfl, rfl, rfl⟩ := memOp_ok hmo
    refine .need fun h => .ok ?_ ?_
    · rw [hw, hmw]
    · rw [he, encL, Size.code_ofCode, (Bool.not_eq_true' sx).mp h]

/-- An ordered access: its displacement carries the scope in its two highest bits. -/
theorem Faithful.ordered {i : Instr} {o : BitVec 2} {s : Scope} {mo : MemOp 13} {c : Bool} (hw : i.wf = (c && mo.wf))
    (hc : c = true) (he : encode i = encLO j (Size.ofCode z) sx (Order.ofCode o) s mo) (hs : s.code = bits x 13 2)
    (hmo : memOp p m (bits x 0 13) = .ok mo) : Faithful (.ok i) (packL j p m z (bit1 sx) o x) := by
  obtain ⟨hmw, rfl, rfl, hd⟩ := memOp_ok hmo
  refine .packed (by rw [hw, hc, hmw]; rfl) (he.trans ?_) (?_ : s.code ++ mo.d = x)
  · rw [encLO, Size.code_ofCode, Order.code_ofCode]
  · simp (disch := decide) only [hs, ← hd, bits_append_bits, bits_self]

end

theorem Order.ofCode_ne_none : ∀ o : BitVec 2, ¬ (o == 0) = true → (Order.ofCode o != .none) = true := by decide

theorem decodeL_faithful (j : Nat) (p m : BitVec 3) (z : BitVec 2) (sx : Bool) (o : BitVec 2) (x : BitVec 15) :
    Faithful (decodeL j p m z sx o x) (packL (BitVec.ofNat 6 j) p m z (bit1 sx) o x) := by
  simp only [decodeL]
  split
  case h_1 | h_2 =>
    refine .need fun h => ?_
    rw [eq_of_beq h]
    exact decodeLoad_faithful (fun _ _ _ => rfl) (fun _ _ _ => rfl)
  case h_5 | h_6 =>
    refine .need fun h => ?_
    rw [eq_of_beq h]
    exact decodeStore_faithful (fun _ _ => rfl) (fun _ _ => rfl)
  case h_3 =>
    split
    next h =>
      rw [eq_of_beq h]
      exact decodeLoad_faithful (fun _ _ _ => rfl) (fun _ _ _ => rfl)
    · refine .need fun ho => .need fun hs => ?_
      split
      · exact .error
      next s hc =>
        split
        · exact .error
        next mo hmo => exact .ordered rfl (by rw [hs, ho]; rfl) rfl (Scope.code_of_ofCode _ s hc) hmo
  case h_4 =>
    split
    next h =>
      rw [eq_of_beq h]
      exact decodeLoad_faithful (fun _ _ _ => rfl) (fun _ _ _ => rfl)
    next h =>
      refine .need fun hs => ?_
      obtain ⟨hsx, hp⟩ := Bool.and_eq_true_iff.mp hs
      split
      · exact .error
      · split
        · exact .error
        next mo hmo => exact .ordered rfl (by rw [hsx, Order.ofCode_ne_none o h]; rfl) rfl (eq_of_beq hp).symm hmo
  case h_7 =>
    split
    next h =>
      rw [eq_of_beq h]
      exact decodeStore_faithful (fun _ _ => rfl) (fun _ _ => rfl)
    · refine .need fun ho => .need fun hs => ?_
      rw [(Bool.not_eq_true' sx).mp hs]
      split
      · exact .error
      next s hc =>
        split
        · exact .error
        next mo hmo => exact .ordered rfl ho rfl (Scope.code_of_ofCode _ s hc) hmo
  case h_8 =>
    split
    next h =>
      rw [eq_of_beq h]
      exact decodeStore_faithful (fun _ _ => rfl) (fun _ _ => rfl)
    next h =>
      refine .need fun hs => ?_
      obtain ⟨hsx, hp⟩ := Bool.and_eq_true_iff.mp hs
      rw [(Bool.not_eq_true' sx).mp hsx]
      split
      · exact .error
      · split
        · exact .error
        next mo hmo => exact .ordered rfl (Order.ofCode_ne_none o h) rfl (eq_of_beq hp).symm hmo
  case h_9 => exact .error

/-! ### Format A

A table with the codes of its entries: what holds of each entry with its code holds of the entry found at a code. -/

theorem forall_zipIdx_nil {α : Type} {P : α × Nat → Prop} (n : Nat) :
    (∀ e ∈ ([] : List α).zipIdx n, P e) ↔ True := by
  simp

theorem forall_zipIdx_cons {α : Type} {P : α × Nat → Prop} (n : Nat) (a : α) (t : List α) :
    (∀ e ∈ (a :: t).zipIdx n, P e) ↔ P (a, n) ∧ ∀ e ∈ t.zipIdx (n + 1), P e := by
  rw [List.zipIdx_cons, List.forall_mem_cons]

theorem mem_zipIdx {α : Type} {t : List α} {n : Nat} {k : α} (h : t[n]? = some k) : (k, n) ∈ t.zipIdx :=
  List.mk_mem_zipIdx_iff_getElem?.mpr h

theorem aluTable_codes : ∀ e ∈ aluTable.zipIdx, ∀ z m,
    (e.1 z m).wf = m.wf ∧ encode (e.1 z m) = encA 0x0C (BitVec.ofNat 6 e.2) z m := by
  simp only [aluTable, forall_zipIdx_cons, forall_zipIdx_nil, and_true]
  and_intros <;> exact fun _ _ => ⟨rfl, rfl⟩

theorem fpuTable_codes : ∀ e ∈ fpuTable.zipIdx, ∀ m,
    (e.1.2 m).wf = m.wf ∧ encode (e.1.2 m) = encA 0x0E (BitVec.ofNat 6 e.2) e.1.1 m := by
  simp only [fpuTable, forall_zipIdx_cons, forall_zipIdx_nil, and_true]
  and_intros <;> exact fun _ => ⟨rfl, rfl⟩

theorem feTable_codes : ∀ e ∈ feTable.zipIdx, ∀ z m,
    (e.1 z m).wf = m.wf ∧ encode (e.1 z m) = encA 0x09 (BitVec.ofNat 6 e.2) z m := by
  simp only [feTable, forall_zipIdx_cons, forall_zipIdx_nil, and_true]
  and_intros <;> exact fun _ _ => ⟨rfl, rfl⟩

theorem feBitTable_codes : ∀ e ∈ feBitTable.zipIdx, ∀ m,
    (e.1 m).wf = m.wf ∧ encode (e.1 m) = encA 0x09 (BitVec.ofNat 6 (e.2 + 6)) .b m := by
  simp only [feBitTable, forall_zipIdx_cons, forall_zipIdx_nil, and_true]
  and_intros <;> exact fun _ => ⟨rfl, rfl⟩

theorem amogTable_codes : ∀ e ∈ amogTable.zipIdx, ∀ x o s m,
    (e.1 x o s m).wf = (scopeWf o s && m.wf) ∧ encode (e.1 x o s m) = encAG (BitVec.ofNat 6 e.2) x o s m := by
  simp only [amogTable, forall_zipIdx_cons, forall_zipIdx_nil, and_true]
  and_intros <;> exact fun _ _ _ _ => ⟨rfl, rfl⟩

theorem amocTable_codes : ∀ e ∈ amocTable.zipIdx, ∀ x m,
    (e.1 x m).wf = m.wf ∧ encode (e.1 x m) = encAC (BitVec.ofNat 6 e.2) x m := by
  simp only [amocTable, forall_zipIdx_cons, forall_zipIdx_nil, and_true]
  and_intros <;> exact fun _ _ => ⟨rfl, rfl⟩

/-- The two sizes of an atomic, by their codes (02 R41). -/
theorem Size.code_of_atomic : ∀ z : BitVec 2, (Size.ofCode z == .w || Size.ofCode z == .d) = true →
    (if (Size.ofCode z == .d) = true then 3 else 2 : BitVec 2) = z := by decide

theorem decodeA_faithful (j : Nat) (p m : BitVec 3) (z : BitVec 2) (f : BitVec 6) (x : BitVec 12) :
    Faithful (decodeA j p m z f x) (packA (BitVec.ofNat 6 j) p m z f x) := by
  simp only [decodeA]
  generalize hn : f.toNat = n
  obtain rfl := eq_ofNat_of_toNat hn
  clear hn
  split
  case h_1 =>
    split
    next k hk =>
      split
      · exact .error
      next mo hmo =>
        obtain ⟨hmw, rfl, rfl, rfl⟩ := memOp_ok hmo
        obtain ⟨hw, he⟩ := feTable_codes _ (mem_zipIdx hk) (Size.ofCode z) mo
        exact .ok (hw.trans hmw) (by rw [he, encA, Size.code_ofCode]; rfl)
    next hfe =>
      split
      next k hk =>
        refine .need fun hz => ?_
        split
        · exact .error
        next mo hmo =>
          obtain ⟨hmw, rfl, rfl, rfl⟩ := memOp_ok hmo
          obtain ⟨hw, he⟩ := feBitTable_codes _ (mem_zipIdx hk) mo
          have hn : 6 ≤ n := List.getElem?_eq_none_iff.mp hfe
          rw [Nat.sub_add_cancel hn] at he
          exact .ok (hw.trans hmw) (by rw [he, encA, ← eq_of_beq hz, Size.code_ofCode]; rfl)
      · exact .error
  case h_2 =>
    split
    · exact .error
    · exact .error
    next k s hk hs =>
      refine .need fun hz => .need fun hsw => ?_
      split
      · exact .error
      next mo hmo =>
        obtain ⟨hmw, rfl, rfl, hd⟩ := memOp_ok hmo
        obtain ⟨hw, he⟩ := amogTable_codes _ (mem_zipIdx hk) (Size.ofCode z == .d) (Order.ofCode (bits x 10 2)) s mo
        refine .packed (hw.trans (by rw [hsw, hmw]; rfl)) (he.trans (by rw [encAG, Size.code_of_atomic z hz]; rfl)) ?_
        simp (disch := decide) only [Order.code_ofCode, Scope.code_of_ofCode _ s hs, ← hd, bits_append_bits, bits_self]
  case h_3 =>
    split
    · exact .error
    next k hk =>
      refine .need fun hz => .need fun h0 => ?_
      split
      · exact .error
      next mo hmo =>
        obtain ⟨hmw, rfl, rfl, hd⟩ := memOp_ok hmo
        obtain ⟨hw, he⟩ := amocTable_codes _ (mem_zipIdx hk) (Size.ofCode z == .d) mo
        refine .packed (hw.trans hmw) (he.trans (by rw [encAC, Size.code_of_atomic z hz]; rfl)) ?_
        simp (disch := decide) only [← eq_of_beq h0, ← hd, bits_append_bits, bits_self]
  case h_4 =>
    split
    · exact .error
    next k hk =>
      split
      · exact .error
      next mo hmo =>
        obtain ⟨hmw, rfl, rfl, rfl⟩ := memOp_ok hmo
        obtain ⟨hw, he⟩ := aluTable_codes _ (mem_zipIdx hk) (Size.ofCode z) mo
        exact .ok (hw.trans hmw) (by rw [he, encA, Size.code_ofCode]; rfl)
  case h_5 =>
    split
    · exact .error
    next sz k hk =>
      refine .need fun hz => ?_
      split
      · exact .error
      next mo hmo =>
        obtain ⟨hmw, rfl, rfl, rfl⟩ := memOp_ok hmo
        obtain ⟨hw, he⟩ := fpuTable_codes _ (mem_zipIdx hk) mo
        exact .ok (hw.trans hmw) (by rw [he, encA, ← eq_of_beq hz, Size.code_ofCode]; rfl)
  case h_6 => exact .error

/-! ### Major opcodes

The major opcodes of formats with several. -/

abbrev MajorL (j : Nat) : Prop := 1 ≤ j ∧ j ≤ 8
abbrev MajorA (j : Nat) : Prop := j = 0x09 ∨ j = 0x0A ∨ j = 0x0B ∨ j = 0x0C ∨ j = 0x0E
abbrev MajorI (j : Nat) : Prop := j = 0x0D ∨ j = 0x0F ∨ j = 0x14 ∨ j = 0x15 ∨ j = 0x17 ∨ j = 0x18
abbrev MajorP (j : Nat) : Prop := j = 0x10 ∨ j = 0x13
abbrev MajorE (j : Nat) : Prop := j = 0x1A ∨ j = 0x1C ∨ j = 0x1D

/-! ### Format I -/

theorem aluiTable_codes : ∀ e ∈ aluiTable.zipIdx, ∀ k ∈ e.1, ∀ x,
    (k x).wf = true ∧ encode (k x) = encI 0x0D (BitVec.ofNat 6 e.2) x := by
  simp only [aluiTable, forall_zipIdx_cons, forall_zipIdx_nil, and_true]
  and_intros <;> rintro _ ⟨⟩ <;> exact fun _ => ⟨rfl, rfl⟩

theorem aluiTable_shift {n : Nat} (h : aluiTable[n]? = some none) : 7 ≤ n := by
  by_contra hn
  have hn : n < 7 := by omega
  interval_cases n <;> cases h

theorem aluiShiftTable_codes : ∀ e ∈ aluiShiftTable.zipIdx, ∀ y : BitVec 6,
    (e.1 y).wf = true ∧ encode (e.1 y) = encI 0x0D (BitVec.ofNat 6 (e.2 + 7)) ((0 : BitVec 14) ++ y : BitVec 20) := by
  simp only [aluiShiftTable, forall_zipIdx_cons, forall_zipIdx_nil, and_true]
  and_intros <;> exact fun _ => ⟨rfl, rfl⟩

theorem unaTable_codes : ∀ e ∈ unaTable.zipIdx, e.1.wf = true ∧ encode e.1 = encI 0x0F (BitVec.ofNat 6 e.2) 0 := by
  simp only [unaTable, forall_zipIdx_cons, forall_zipIdx_nil, and_true]
  and_intros <;> rfl

theorem encT_eq (f : BitVec 6) (h : BitVec 4) (i : BitVec 16) : encT f h i = some (packI 0x17 f (h ++ i)) :=
  congrArg some (packK_eq_packI ..)

theorem decodeThread_func {f : BitVec 6} {x : BitVec 20} (h : 8 ≤ f.toNat) : decodeI 0x17 f x = .error .func := by
  obtain ⟨k, hk⟩ := Nat.exists_eq_add_of_le' h
  unfold decodeI
  rw [hk]
  rfl

/-- The thread functions in the order of their table (02 Table 2-11). -/
theorem decodeThread_faithful (f : BitVec 6) (x : BitVec 20) : Faithful (decodeI 0x17 f x) (packI 0x17 f x) := by
  refine .of_func (d := fun f => decodeI 0x17 f x) (k := fun f => packI 0x17 f x) (fun _ => decodeThread_func)
    (fun n h => ?_) f
  interval_cases n
  iterate 2 exact .need fun hh => .packed hh (encT_eq ..) (by simp (disch := decide) only [bits_append_bits, bits_self])
  · exact .zero rfl (encT_eq ..)
  iterate 2
    exact .need fun hh => .need fun h0 => .packed hh (encT_eq ..)
      (by simp (disch := decide) only [← eq_of_beq h0, bits_append_bits, bits_self])
  iterate 3 exact .zero rfl (encT_eq ..)

theorem decodeGroup_func {f : BitVec 6} {x : BitVec 20} (h : 3 ≤ f.toNat) : decodeI 0x18 f x = .error .func := by
  obtain ⟨k, hk⟩ := Nat.exists_eq_add_of_le' h
  unfold decodeI
  rw [hk]
  rfl

theorem decodeGroup_faithful (f : BitVec 6) (x : BitVec 20) : Faithful (decodeI 0x18 f x) (packI 0x18 f x) := by
  refine .of_func (d := fun f => decodeI 0x18 f x) (k := fun f => packI 0x18 f x) (fun _ => decodeGroup_func)
    (fun n h => ?_) f
  interval_cases n
  iterate 3 exact .field (m := 12) (n := 8) rfl rfl

theorem decodeI_faithful (j : Nat) (f : BitVec 6) (x : BitVec 20) : Faithful (decodeI j f x) (packI (BitVec.ofNat 6 j) f x) := by
  simp only [decodeI]
  split
  case h_1 =>
    generalize hn : f.toNat = n
    obtain rfl := eq_ofNat_of_toNat hn
    clear hn
    split
    next k hk =>
      obtain ⟨hw, he⟩ := aluiTable_codes _ (mem_zipIdx hk) k rfl x
      exact .ok hw he
    next hk =>
      split
      next k hs =>
        refine .need fun h => ?_
        obtain ⟨hw, he⟩ := aluiShiftTable_codes _ (mem_zipIdx hs) (bits x 0 6)
        rw [Nat.sub_add_cancel (aluiTable_shift hk)] at he
        refine .packed hw he ?_
        simp (disch := decide) only [← eq_of_beq h, bits_append_bits, bits_self]
      · exact .error
    · exact .error
  case h_2 =>
    split
    next k hk =>
      obtain ⟨hw, he⟩ := unaTable_codes _ (mem_zipIdx hk)
      rw [← eq_ofNat_of_toNat rfl] at he
      exact .zero hw he
    · exact .error
  case h_3 | h_4 =>
    refine .need fun hf => ?_
    rw [eq_of_beq hf]
    exact .ok rfl rfl
  case h_5 => exact decodeThread_faithful f x
  case h_6 => exact decodeGroup_faithful f x
  case h_7 => exact .error

/-! ### Format P -/

theorem loopReg_code : ∀ n : BitVec 3, n.toNat ≤ 1 → (if (n == 1) = true then 1 else 0 : BitVec 3) = n := by decide

theorem decodeP_func {j : Nat} (hj : MajorP j) {n m : BitVec 3} {f : BitVec 4} {x : BitVec 16} (h : 7 ≤ f.toNat) :
    decodeP j n m f x = .error .func := by
  obtain ⟨k, hk⟩ := Nat.exists_eq_add_of_le' h
  unfold decodeP
  rw [hk]
  obtain rfl | rfl := hj <;> rfl

namespace Faithful

variable {i : Instr} {r : Reject} {j : BitVec 6} {f : BitVec 4} {n m : BitVec 3} {x : BitVec 16}

/-- A pointer instruction without its second register. -/
theorem single (hw : i.wf = true) (he : encode i = encP j n 0 f x) :
    Faithful (Sys2Proof.need (m == 0) r (.ok i)) (packP j n m f x) :=
  .need fun h => .ok hw (by rw [he, encP, eq_of_beq h])

/-- One without its second register and its immediate. -/
theorem singleZero (hw : i.wf = true) (he : encode i = encP j n 0 f 0) :
    Faithful (Sys2Proof.need (m == 0 && x == 0) r (.ok i)) (packP j n m f x) := by
  refine .need fun h => ?_
  obtain ⟨rfl, rfl⟩ : m = 0 ∧ x = 0 := by simpa using h
  exact .ok hw he

theorem loopReg {k : Bool → BitVec 16 → Instr} (hw : (k (n == 1) x).wf = true)
    (he : encode (k (n == 1) x) = encP j (if (n == 1) = true then 1 else 0) 0 f x) :
    Faithful (Sys2Proof.need (decide (n.toNat ≤ 1)) .value (Sys2Proof.need (m == 0) .reserved (.ok (k (n == 1) x))))
      (packP j n m f x) :=
  .need fun h1 => .single hw (by rw [he, loopReg_code n (of_decide_eq_true h1)])

end Faithful

section
variable {k : Nat} (h : k < 7) (n m : BitVec 3) (x : BitVec 16)
include h

theorem decodePointer_faithful :
    Faithful (decodeP 0x10 n m (BitVec.ofNat 4 k) x) (packP 0x10 n m (BitVec.ofNat 4 k) x) := by
  interval_cases k
  · exact .zero rfl rfl
  · exact .ok rfl rfl
  · exact .zero rfl rfl
  · exact .single rfl rfl
  iterate 2 exact .singleZero rfl rfl
  · exact .zero rfl rfl

theorem decodeJump_faithful :
    Faithful (decodeP 0x13 n m (BitVec.ofNat 4 k) x) (packP 0x13 n m (BitVec.ofNat 4 k) x) := by
  interval_cases k
  · exact .single rfl rfl
  · refine .need fun h => ?_
    obtain ⟨⟨rfl, rfl⟩, rfl⟩ : (n = 0 ∧ m = 0) ∧ x = 0 := by simpa using h
    exact .ok rfl rfl
  iterate 2 exact .loopReg rfl rfl
  iterate 3 exact .error

end

theorem decodeP_faithful {j : Nat} (hj : MajorP j) (n m : BitVec 3) (f : BitVec 4) (x : BitVec 16) :
    Faithful (decodeP j n m f x) (packP (BitVec.ofNat 6 j) n m f x) := by
  refine .of_func (d := fun f => decodeP j n m f x) (k := fun f => packP (BitVec.ofNat 6 j) n m f x)
    (fun _ => decodeP_func hj) (fun k h => ?_) f
  obtain rfl | rfl := hj
  · exact decodePointer_faithful h n m x
  · exact decodeJump_faithful h n m x

/-! ### Format K -/

theorem decodeK_func {f : BitVec 6} {s : BitVec 4} {x : BitVec 16} (h : 10 ≤ f.toNat) : decodeK f s x = .error .func := by
  obtain ⟨k, hk⟩ := Nat.exists_eq_add_of_le' h
  unfold decodeK
  rw [hk]
  rfl

/-- The functions of Table 6-1 in order. -/
theorem decodeK_faithful (f : BitVec 6) (s : BitVec 4) (x : BitVec 16) : Faithful (decodeK f s x) (packK 0x16 f s x) := by
  refine .of_func (d := fun f => decodeK f s x) (k := fun f => packK 0x16 f s x) (fun _ => decodeK_func) (fun n h => ?_) f
  interval_cases n
  iterate 4 exact .need fun hs => .zero hs rfl
  · exact .need fun hs => .ok hs rfl
  iterate 5 exact .need fun hs => .zero hs rfl

/-! ### Format F -/

theorem packF_eq_packB (f : BitVec 4) (d p : BitVec 3) (s : BitVec 16) : packF f d p s = packB 0x19 f (d ++ p ++ s) := by
  unfold packF packB
  ext n hn
  simp
  grind

theorem packFlow_eq_packB (f : BitVec 4) (g : BitVec 8) (n : BitVec 14) :
    ((0x19 : BitVec 6) ++ f ++ g ++ n : BitVec 32) = packB 0x19 f (g ++ n) := by
  unfold packB
  ext n hn
  simp
  grind

theorem encF_eq (f : BitVec 4) (d p : BitVec 3) (s : BitVec 16) : encF f d p s = some (packB 0x19 f (d ++ p ++ s)) :=
  congrArg some (packF_eq_packB ..)

theorem decodeF_faithful (f : BitVec 4) (x : BitVec 22) :
    Faithful (decodeF f (bits x 19 3) (bits x 16 3) (bits x 0 16) x) (packB 0x19 f x) := by
  simp only [decodeF]
  generalize hn : f.toNat = n
  obtain rfl := eq_ofNat_of_toNat hn
  clear hn
  split
  case h_1 =>
    refine .need fun h => .packed h (congrArg some (packFlow_eq_packB ..)) ?_
    simp (disch := decide) only [bits_append_bits, bits_self]
  case h_2 =>
    split
    next l hl =>
      refine .packed rfl (encF_eq ..) ?_
      simp (disch := decide) only [Link.code_of_ofCode _ l hl, bits_append_bits, bits_self]
    · exact .error
  case h_3 | h_5 =>
    split
    next l hl =>
      refine .need fun h => .packed rfl (encF_eq ..) ?_
      simp (disch := decide) only [Link.code_of_ofCode _ l hl, ← eq_of_beq h, bits_append_bits, bits_self]
    · exact .error
  case h_4 =>
    refine .need fun h => .packed rfl (encF_eq ..) ?_
    simp (disch := decide) only [← eq_of_beq h, bits_append_bits, bits_self]
  case h_6 => exact .zero rfl (encF_eq ..)
  case h_7 => exact .error

/-! ### Format E -/

theorem vxPlain_eq_none {n : Nat} (h : 0x16 ≤ n) : vxPlain n = none := by
  obtain ⟨k, rfl⟩ := Nat.exists_eq_add_of_le' h
  rfl

theorem vxPlain_codes {n : Nat} {k : PReg → PReg → Instr} (h : vxPlain n = some k) (a b : PReg) :
    (k a b).wf = true ∧ encode (k a b) = encE 0x1B a b (BitVec.ofNat 6 n) 0 := by
  obtain hn | hn := Nat.lt_or_ge n 0x16
  · interval_cases n <;> cases h <;> exact ⟨rfl, rfl⟩
  · rw [vxPlain_eq_none hn] at h
    cases h

theorem vxScalar_eq_none {n : Nat} (h : 0x12 ≤ n) : vxScalar n = none := by
  obtain ⟨k, rfl⟩ := Nat.exists_eq_add_of_le' h
  rfl

theorem vxScalar_codes {n : Nat} {k : PReg → PReg → Bool → Instr} (h : vxScalar n = some k) (a b : PReg) (sc : Bool) :
    (k a b sc).wf = true ∧ encode (k a b sc) = encE 0x1B a b (BitVec.ofNat 6 n) ((0 : BitVec 13) ++ bit1 sc : BitVec 14) := by
  obtain hn | hn := Nat.lt_or_ge n 0x12
  · interval_cases n <;> cases h <;> exact ⟨rfl, rfl⟩
  · rw [vxScalar_eq_none hn] at h
    cases h

theorem not_beq_one : ∀ v : BitVec 1, (!(v == 1)) = (v == 0) := by decide

/-! The arms that the three engines share: no operands, a register read, a register write, a write of a group. -/

section
variable {i : Instr} {j f : BitVec 6} {a b : BitVec 3} {x : BitVec 14}

theorem Faithful.bare (hw : i.wf = true) (he : encode i = encE j 0 0 f 0) (h : (a == 0 && b == 0 && x == 0) = true) :
    Faithful (.ok i) (packE j a b f x) := by
  obtain ⟨⟨rfl, rfl⟩, rfl⟩ : (a = 0 ∧ b = 0) ∧ x = 0 := by simpa using h
  exact .ok hw he

theorem Faithful.regRead (hw : i.wf = true) (he : encode i = encE j 0 0 f ((0 : BitVec 10) ++ bits x 0 4 : BitVec 14))
    (h : (a == 0 && b == 0 && bits x 4 10 == 0) = true) : Faithful (.ok i) (packE j a b f x) := by
  obtain ⟨⟨rfl, rfl⟩, h0⟩ : (a = 0 ∧ b = 0) ∧ bits x 4 10 = 0 := by simpa using h
  refine .packed hw he ?_
  simp (disch := decide) only [← h0, bits_append_bits, bits_self]

theorem Faithful.regWrite (hw : i.wf = true) (he : encode i = encE j a 0 f ((0 : BitVec 10) ++ bits x 0 4 : BitVec 14))
    (h : (b == 0 && bits x 4 10 == 0) = true) : Faithful (.ok i) (packE j a b f x) := by
  obtain ⟨rfl, h0⟩ : b = 0 ∧ bits x 4 10 = 0 := by simpa using h
  refine .packed hw he ?_
  simp (disch := decide) only [← h0, bits_append_bits, bits_self]

theorem Faithful.groupWrite (hw : i.wf = true) (he : encode i = encE j a 0 f (optKN (bits x 0 4) (bits x 4 5)))
    (h : (b == 0 && bits x 9 5 == 0) = true) : Faithful (.ok i) (packE j a b f x) := by
  obtain ⟨rfl, h0⟩ : b = 0 ∧ bits x 9 5 = 0 := by simpa using h
  refine .packed hw he ?_
  simp (disch := decide) only [optKN, ← h0, bits_append_bits, bits_self]

end

theorem decodeV_faithful (a b : BitVec 3) (f : BitVec 6) (x : BitVec 14) : Faithful (decodeV a b f x) (packE 0x1B a b f x) := by
  simp only [decodeV]
  generalize hn : f.toNat = n
  obtain rfl := eq_ofNat_of_toNat hn
  clear hn
  split
  next k hk =>
    obtain ⟨hw, he⟩ := vxPlain_codes hk a b
    exact .zero hw he
  next k _ hk =>
    obtain ⟨hw, he⟩ := vxScalar_codes hk a b (bits x 0 1 == 1)
    refine .need fun h => .packed hw he ?_
    simp (disch := decide) only [bit1_of_beq_one, ← eq_of_beq h, bits_append_bits, bits_self]
  · split
    case h_1 =>
      refine .need fun h => ?_
      obtain ⟨h5, h0⟩ := Bool.and_eq_true_iff.mp h
      split
      · exact .error
      next r hr =>
        refine .need fun ha => .packed (?_ : (!(bits x 4 1 == 1) || a == 0) = true) rfl ?_
        · rw [not_beq_one, ha]
        · simp (disch := decide) only [bit1_of_beq_one, ROp.code_of_ofCode _ r hr, ← eq_of_beq h5, ← eq_of_beq h0,
            bits_append_bits, bits_self]
    case h_2 =>
      refine .need fun h => .packed rfl rfl ?_
      obtain ⟨h6, h0⟩ := Bool.and_eq_true_iff.mp h
      simp (disch := decide) only [bit1_of_beq_one, ← eq_of_beq h6, ← eq_of_beq h0, bits_append_bits, bits_self]
    case h_3 =>
      refine .need fun h => .packed rfl rfl ?_
      simp (disch := decide) only [bit1_of_beq_one, VCond.code_ofCode, ← eq_of_beq h, bits_append_bits, bits_self]
    case h_4 => exact .need fun h => .need fun hk => .regWrite hk rfl h
    case h_5 => exact .need fun h => .need fun hk => .groupWrite hk rfl h
    case h_6 => exact .need fun h => .need fun hk => .regRead hk rfl h
    case h_7 => exact .need fun h => .bare rfl rfl h
    case h_8 => exact .error

/-! The engines of format E, function by function in the order of their tables; no function code is above 0x0C. -/

theorem decodeE_func {j : Nat} (hj : MajorE j) {a b : BitVec 3} {f : BitVec 6} {x : BitVec 14} (h : 0x0D ≤ f.toNat) :
    decodeE j a b f x = .error .func := by
  obtain ⟨k, hk⟩ := Nat.exists_eq_add_of_le' h
  unfold decodeE
  rw [hk]
  obtain rfl | rfl | rfl := hj <;> rfl

section
variable {n : Nat} (h : n < 0x0D) (a b : BitVec 3) (x : BitVec 14)
include h

theorem decodeMx_faithful : Faithful (decodeE 0x1A a b (BitVec.ofNat 6 n) x) (packE 0x1A a b (BitVec.ofNat 6 n) x) := by
  interval_cases n
  · exact .zero rfl rfl
  · exact .need fun h => .bare rfl rfl h
  · exact .zero rfl rfl
  · exact .need fun h => .bare rfl rfl h
  · exact .need fun h => .bare rfl rfl h
  · exact .zero rfl rfl
  · exact .need fun h => .bare rfl rfl h
  · exact .need fun h => .bare rfl rfl h
  · exact .need fun h => .bare rfl rfl h
  · exact .need fun h => .bare rfl rfl h
  · exact .need fun h => .regRead rfl rfl h
  · exact .need fun h => .regWrite rfl rfl h
  · exact .need fun h => .need fun hk => .groupWrite hk rfl h

theorem decodeCopy_faithful : Faithful (decodeE 0x1C a b (BitVec.ofNat 6 n) x) (packE 0x1C a b (BitVec.ofNat 6 n) x) := by
  interval_cases n
  iterate 8 exact .zero rfl rfl
  · exact .need fun h => .need fun hk => .regWrite hk rfl h
  · exact .need fun h => .need fun hk => .groupWrite hk rfl h
  · exact .need fun h => .bare rfl rfl h
  iterate 2 exact .error

theorem decodeReduce_faithful : Faithful (decodeE 0x1D a b (BitVec.ofNat 6 n) x) (packE 0x1D a b (BitVec.ofNat 6 n) x) := by
  interval_cases n
  · exact .zero rfl rfl
  · refine .need fun h => ?_
    obtain ⟨rfl, rfl⟩ : b = 0 ∧ x = 0 := by simpa using h
    exact .ok rfl rfl
  · exact .need fun h => .bare rfl rfl h
  iterate 10 exact .error

end

theorem decodeE_faithful {j : Nat} (hj : MajorE j) (a b : BitVec 3) (f : BitVec 6) (x : BitVec 14) :
    Faithful (decodeE j a b f x) (packE (BitVec.ofNat 6 j) a b f x) := by
  refine .of_func (d := fun f => decodeE j a b f x) (k := fun f => packE (BitVec.ofNat 6 j) a b f x)
    (fun _ => decodeE_func hj) (fun n h => ?_) f
  obtain rfl | rfl | rfl := hj
  · exact decodeMx_faithful h a b x
  · exact decodeCopy_faithful h a b x
  · exact decodeReduce_faithful h a b x

/-! ### Which decoder reads a word, by its major opcode (02 R39) -/

section
variable {w : W32} {j : Nat}

theorem decode_majorSys (h : (bits w 26 6).toNat = 0) : decode w = decodeSys (bits w 20 6) (bits w 0 20) := by
  unfold decode
  rw [h]
  rfl

theorem decode_majorL (hj : MajorL j) (h : (bits w 26 6).toNat = j) :
    decode w = decodeL j (bits w 23 3) (bits w 20 3) (bits w 18 2) (bits w 17 1 == 1) (bits w 15 2) (bits w 0 15) := by
  unfold decode
  rw [h]
  obtain ⟨hlo, hhi⟩ := hj
  interval_cases j <;> rfl

theorem decode_majorA (hj : MajorA j) (h : (bits w 26 6).toNat = j) :
    decode w = decodeA j (bits w 23 3) (bits w 20 3) (bits w 18 2) (bits w 12 6) (bits w 0 12) := by
  unfold decode
  rw [h]
  obtain rfl | rfl | rfl | rfl | rfl := hj <;> rfl

theorem decode_majorI (hj : MajorI j) (h : (bits w 26 6).toNat = j) :
    decode w = decodeI j (bits w 20 6) (bits w 0 20) := by
  unfold decode
  rw [h]
  obtain rfl | rfl | rfl | rfl | rfl | rfl := hj <;> rfl

theorem decode_majorP (hj : MajorP j) (h : (bits w 26 6).toNat = j) :
    decode w = decodeP j (bits w 23 3) (bits w 20 3) (bits w 16 4) (bits w 0 16) := by
  unfold decode
  rw [h]
  obtain rfl | rfl := hj <;> rfl

theorem decode_majorE (hj : MajorE j) (h : (bits w 26 6).toNat = j) :
    decode w = decodeE j (bits w 23 3) (bits w 20 3) (bits w 14 6) (bits w 0 14) := by
  unfold decode
  rw [h]
  obtain rfl | rfl | rfl := hj <;> rfl

theorem decode_majorB (h : (bits w 26 6).toNat = 0x11) : decode w = .ok (.b (Cond.ofCode (bits w 22 4)) (bits w 0 22)) := by
  unfold decode
  rw [h]
  rfl

theorem decode_majorCall (h : (bits w 26 6).toNat = 0x12) :
    decode w = need (bits w 22 4 == 0) .reserved (.ok (.call (bits w 0 22))) := by
  unfold decode
  rw [h]
  rfl

theorem decode_majorK (h : (bits w 26 6).toNat = 0x16) : decode w = decodeK (bits w 20 6) (bits w 16 4) (bits w 0 16) := by
  unfold decode
  rw [h]
  rfl

theorem decode_majorF (h : (bits w 26 6).toNat = 0x19) :
    decode w = decodeF (bits w 22 4) (bits w 19 3) (bits w 16 3) (bits w 0 16) (bits w 0 22) := by
  unfold decode
  rw [h]
  rfl

theorem decode_majorV (h : (bits w 26 6).toNat = 0x1B) :
    decode w = decodeV (bits w 23 3) (bits w 20 3) (bits w 14 6) (bits w 0 14) := by
  unfold decode
  rw [h]
  rfl

theorem decode_unassigned (h : 0x1E ≤ (bits w 26 6).toNat) : decode w = .error .major := by
  obtain ⟨k, hk⟩ := Nat.exists_eq_add_of_le' h
  unfold decode
  rw [hk]
  rfl

end

/-! ### The decoder -/

theorem major_cases_of_lt : ∀ j < 0x1E, j = 0 ∨ MajorL j ∨ MajorA j ∨ MajorI j ∨ MajorP j ∨ j = 0x11 ∨ j = 0x12 ∨
    j = 0x16 ∨ j = 0x19 ∨ MajorE j ∨ j = 0x1B := by
  decide

theorem decode_faithful (w : W32) : Faithful (decode w) w := by
  generalize h : (bits w 26 6).toNat = j
  obtain hj | hj := Nat.lt_or_ge j 0x1E
  case inr =>
    rw [decode_unassigned (h ▸ hj)]
    exact .error
  obtain rfl | hj | hj | hj | hj | rfl | rfl | rfl | rfl | hj | rfl := major_cases_of_lt j hj
  · rw [decode_majorSys h]
    exact .word (packI_of_major h) (decodeSys_faithful _ _)
  · rw [decode_majorL hj h]
    exact .word (by rw [bit1_of_beq_one]; exact packL_of_major h) (decodeL_faithful _ _ _ _ _ _ _)
  · rw [decode_majorA hj h]
    exact .word (packA_of_major h) (decodeA_faithful _ _ _ _ _ _)
  · rw [decode_majorI hj h]
    exact .word (packI_of_major h) (decodeI_faithful _ _ _)
  · rw [decode_majorP hj h]
    exact .word (packP_of_major h) (decodeP_faithful hj _ _ _ _)
  · rw [decode_majorB h]
    exact .word (packB_of_major h) (.ok rfl (congrArg (fun c => some (packB 0x11 c _)) (Cond.code_ofCode _)))
  · rw [decode_majorCall h]
    exact .need fun h0 => .word (packB_of_major h) (.ok rfl (by rw [eq_of_beq h0]; rfl))
  · rw [decode_majorK h]
    exact .word (packK_of_major h) (decodeK_faithful _ _ _)
  · rw [decode_majorF h]
    have hf := decodeF_faithful (bits w 22 4) (bits w 0 22)
    simp (disch := decide) only [bits_bits] at hf
    exact .word (packB_of_major h) hf
  · rw [decode_majorE hj h]
    exact .word (packE_of_major h) (decodeE_faithful hj _ _ _ _)
  · rw [decode_majorV h]
    exact .word (packE_of_major h) (decodeV_faithful _ _ _ _)

/-- Settles O3: every arm of the decoder answers an instruction whose word it was given. -/
theorem decodedWordsHaveOneEncoding : Obligations.DecodedWordsHaveOneEncoding := fun i w h => decode_faithful w i h

/-! ### Each instruction from its word -/

theorem need_true (r : Reject) (d : Except Reject Instr) : need true r d = d := rfl

/-! Which decoder reads a packed word. -/

theorem decode_packI_sys (f : BitVec 6) (x : BitVec 20) : decode (packI 0 f x) = decodeSys f x := by
  rw [decode_majorSys]
  all_goals simp (disch := decide) only [packI, bits_append_low, bits_append_high, Nat.reduceSub, bits_self, BitVec.reduceToNat]

theorem decode_packL {j : Nat} (hj : MajorL j) (p m : BitVec 3) (z : BitVec 2) (sx : BitVec 1)
    (o : BitVec 2) (x : BitVec 15) : decode (packL (BitVec.ofNat 6 j) p m z sx o x) = decodeL j p m z (sx == 1) o x := by
  rw [decode_majorL hj]
  all_goals simp (disch := decide) only [packL, bits_append_low, bits_append_high, Nat.reduceSub, bits_self]
  obtain ⟨hlo, hhi⟩ := hj
  interval_cases j <;> rfl

theorem decode_packA {j : Nat} (hj : MajorA j) (p m : BitVec 3) (z : BitVec 2) (f : BitVec 6)
    (x : BitVec 12) : decode (packA (BitVec.ofNat 6 j) p m z f x) = decodeA j p m z f x := by
  rw [decode_majorA hj]
  all_goals simp (disch := decide) only [packA, bits_append_low, bits_append_high, Nat.reduceSub, bits_self]
  obtain rfl | rfl | rfl | rfl | rfl := hj <;> rfl

theorem decode_packI {j : Nat} (hj : MajorI j) (f : BitVec 6) (x : BitVec 20) :
    decode (packI (BitVec.ofNat 6 j) f x) = decodeI j f x := by
  rw [decode_majorI hj]
  all_goals simp (disch := decide) only [packI, bits_append_low, bits_append_high, Nat.reduceSub, bits_self]
  obtain rfl | rfl | rfl | rfl | rfl | rfl := hj <;> rfl

theorem decode_packP {j : Nat} (hj : MajorP j) (n m : BitVec 3) (f : BitVec 4) (x : BitVec 16) :
    decode (packP (BitVec.ofNat 6 j) n m f x) = decodeP j n m f x := by
  rw [decode_majorP hj]
  all_goals simp (disch := decide) only [packP, bits_append_low, bits_append_high, Nat.reduceSub, bits_self]
  obtain rfl | rfl := hj <;> rfl

theorem decode_packE {j : Nat} (hj : MajorE j) (a b : BitVec 3) (f : BitVec 6) (x : BitVec 14) :
    decode (packE (BitVec.ofNat 6 j) a b f x) = decodeE j a b f x := by
  rw [decode_majorE hj]
  all_goals simp (disch := decide) only [packE, bits_append_low, bits_append_high, Nat.reduceSub, bits_self]
  obtain rfl | rfl | rfl := hj <;> rfl

theorem decode_packV (a b : BitVec 3) (f : BitVec 6) (x : BitVec 14) : decode (packE 0x1B a b f x) = decodeV a b f x := by
  rw [decode_majorV]
  all_goals simp (disch := decide) only [packE, bits_append_low, bits_append_high, Nat.reduceSub, bits_self, BitVec.reduceToNat]

theorem decode_packK (f : BitVec 6) (s : BitVec 4) (x : BitVec 16) : decode (packK 0x16 f s x) = decodeK f s x := by
  rw [decode_majorK]
  all_goals simp (disch := decide) only [packK, bits_append_low, bits_append_high, Nat.reduceSub, bits_self, BitVec.reduceToNat]

theorem decode_packF (f : BitVec 4) (x : BitVec 22) :
    decode (packB 0x19 f x) = decodeF f (bits x 19 3) (bits x 16 3) (bits x 0 16) x := by
  rw [decode_majorF]
  all_goals simp (disch := decide) only [packB, bits_append_low, bits_append_high, Nat.reduceSub, bits_self, BitVec.reduceToNat]

theorem decode_packBranch (c : BitVec 4) (o : BitVec 22) : decode (packB 0x11 c o) = .ok (.b (Cond.ofCode c) o) := by
  rw [decode_majorB]
  all_goals simp (disch := decide) only [packB, bits_append_low, bits_append_high, Nat.reduceSub, bits_self, BitVec.reduceToNat]

theorem decode_packCall (c : BitVec 4) (o : BitVec 22) :
    decode (packB 0x12 c o) = need (c == 0) .reserved (.ok (.call o)) := by
  rw [decode_majorCall]
  all_goals simp (disch := decide) only [packB, bits_append_low, bits_append_high, Nat.reduceSub, bits_self, BitVec.reduceToNat]

theorem decode_encS {f : BitVec 6} {x : BitVec 20} {w : W32} (he : encS f x = some w) : decode w = decodeSys f x := by
  cases he
  exact decode_packI_sys f x

theorem decode_encI {j : Nat} (hj : MajorI j) {f : BitVec 6} {x : BitVec 20} {w : W32}
    (he : encI (BitVec.ofNat 6 j) f x = some w) : decode w = decodeI j f x := by
  cases he
  exact decode_packI hj f x

theorem decode_encA {j : Nat} (hj : MajorA j) {z : Size} {f : BitVec 6} {m : MemOp 12} {w : W32}
    (he : encA (BitVec.ofNat 6 j) f z m = some w) : decode w = decodeA j m.p m.mode.code z.code f m.d := by
  cases he
  exact decode_packA hj ..

theorem decode_encP {j : Nat} (hj : MajorP j) {n m : BitVec 3} {f : BitVec 4} {x : BitVec 16} {w : W32}
    (he : encP (BitVec.ofNat 6 j) n m f x = some w) : decode w = decodeP j n m f x := by
  cases he
  exact decode_packP hj ..

theorem decode_encE {j : Nat} (hj : MajorE j) {a b : BitVec 3} {f : BitVec 6} {x : BitVec 14} {w : W32}
    (he : encE (BitVec.ofNat 6 j) a b f x = some w) : decode w = decodeE j a b f x := by
  cases he
  exact decode_packE hj ..

theorem decode_encV {a b : BitVec 3} {f : BitVec 6} {x : BitVec 14} {w : W32}
    (he : encE 0x1B a b f x = some w) : decode w = decodeV a b f x := by
  cases he
  exact decode_packV ..

theorem decode_alu {f : BitVec 6} {z : Size} {m : MemOp 12} {w : W32} {k : Size → MemOp 12 → Instr}
    (he : encA 0x0C f z m = some w) (hk : aluTable[f.toNat]? = some k) (hm : m.wf = true) : decode w = .ok (k z m) := by
  rw [decode_encA (j := 0x0C) (by decide) he]
  simp only [decodeA, hk, memOp_of_wf hm, Size.ofCode_code]

theorem decode_fpu {f : BitVec 6} {z : Size} {m : MemOp 12} {w : W32} {k : MemOp 12 → Instr}
    (he : encA 0x0E f z m = some w) (hk : fpuTable[f.toNat]? = some (z, k)) (hm : m.wf = true) : decode w = .ok (k m) := by
  rw [decode_encA (j := 0x0E) (by decide) he]
  simp only [decodeA, hk, memOp_of_wf hm, Size.ofCode_code, BEq.rfl, need_true]

theorem decode_fe {f : BitVec 6} {z : Size} {m : MemOp 12} {w : W32} {k : Size → MemOp 12 → Instr}
    (he : encA 0x09 f z m = some w) (hk : feTable[f.toNat]? = some k) (hm : m.wf = true) : decode w = .ok (k z m) := by
  rw [decode_encA (j := 0x09) (by decide) he]
  simp only [decodeA, hk, memOp_of_wf hm, Size.ofCode_code]

theorem decode_feBit {f : BitVec 6} {m : MemOp 12} {w : W32} {k : MemOp 12 → Instr} (he : encA 0x09 f .b m = some w)
    (hf : feTable[f.toNat]? = none) (hk : feBitTable[f.toNat - 6]? = some k) (hm : m.wf = true) : decode w = .ok (k m) := by
  rw [decode_encA (j := 0x09) (by decide) he]
  simp only [decodeA, hf, hk, memOp_of_wf hm, Size.ofCode_code, BEq.rfl, need_true]

/-- The size that the code of an atomic's width stands for (02 R41). -/
theorem Size.ofCode_atomic (d64 : Bool) : Size.ofCode (if d64 = true then 3 else 2) = if d64 = true then .d else .w := by
  cases d64 <;> rfl

theorem decode_amog {f : BitVec 6} {d64 : Bool} {o : Order} {s : Scope} {m : MemOp 8} {w : W32}
    {k : Bool → Order → Scope → MemOp 8 → Instr} (he : encAG f d64 o s m = some w) (hk : amogTable[f.toNat]? = some k)
    (h : (scopeWf o s && m.wf) = true) : decode w = .ok (k d64 o s m) := by
  obtain ⟨hs, hm⟩ := Bool.and_eq_true_iff.mp h
  cases he
  refine (decode_packA (j := 0x0A) (by decide) ..).trans ?_
  simp (disch := decide) only [decodeA, bits_append_low, bits_append_high, Nat.reduceSub, bits_self, hk, Scope.ofCode_code,
    Order.ofCode_code, hs, memOp_of_wf hm, Size.ofCode_atomic, need_true]
  cases d64 <;> rfl

theorem decode_amoc {f : BitVec 6} {d64 : Bool} {m : MemOp 8} {w : W32} {k : Bool → MemOp 8 → Instr}
    (he : encAC f d64 m = some w) (hk : amocTable[f.toNat]? = some k) (hm : m.wf = true) : decode w = .ok (k d64 m) := by
  cases he
  refine (decode_packA (j := 0x0B) (by decide) ..).trans ?_
  simp (disch := decide) only [decodeA, bits_append_low, bits_append_high, Nat.reduceSub, bits_self, bits_zero, hk,
    memOp_of_wf hm, Size.ofCode_atomic, BEq.rfl, need_true]
  cases d64 <;> rfl

theorem decode_encL {j : Nat} (hj : MajorL j) {z : Size} {sx : Bool} {m : MemOp 15} {w : W32}
    (he : encL (BitVec.ofNat 6 j) z sx m = some w) : decode w = decodeL j m.p m.mode.code z.code sx 0 m.d := by
  cases he
  rw [decode_packL hj, bit1_beq_one]

theorem decode_encLO {j : Nat} (hj : MajorL j) {z : Size} {sx : Bool} {o : Order} {s : Scope} {m : MemOp 13}
    {w : W32} (he : encLO (BitVec.ofNat 6 j) z sx o s m = some w) :
    decode w = decodeL j m.p m.mode.code z.code sx o.code (s.code ++ m.d) := by
  cases he
  rw [decode_packL hj, bit1_beq_one]

theorem decodeLoad_of_wf (k : Size → Bool → MemOp 15 → Instr) {z : Size} {sx : Bool} {m : MemOp 15}
    (h : (sxWf z sx && m.wf) = true) : decodeLoad k m.p m.mode.code z.code sx m.d = .ok (k z sx m) := by
  obtain ⟨hs, hm⟩ := Bool.and_eq_true_iff.mp h
  simp only [decodeLoad, memOp_of_wf hm, Size.ofCode_code, hs, need_true]

theorem decodeStore_of_wf (k : Size → MemOp 15 → Instr) {z : Size} {m : MemOp 15} (hm : m.wf = true) :
    decodeStore k m.p m.mode.code z.code false m.d = .ok (k z m) := by
  simp only [decodeStore, memOp_of_wf hm, Size.ofCode_code, Bool.not_false, need_true]

theorem Order.code_beq_zero (o : Order) : (o.code == 0) = !(o != .none) := by cases o <;> rfl

theorem Order.ne_none_of_loadWf {o : Order} (h : o.loadWf = true) : (o != .none) = true := by
  cases o with
  | none => cases h
  | _ => rfl

theorem Order.ne_none_of_storeWf {o : Order} (h : o.storeWf = true) : (o != .none) = true := by
  cases o with
  | none => cases h
  | _ => rfl

/-! Ordered accesses: an order other than none, the scope in the two highest bits of the displacement. -/

theorem decode_ldgOrdered {z : Size} {sx : Bool} {o : Order} {s : Scope} {m : MemOp 13} {w : W32}
    (hw : (Instr.ldgOrdered z sx o s m).wf = true) (he : encode (.ldgOrdered z sx o s m) = some w) :
    decode w = .ok (.ldgOrdered z sx o s m) := by
  have hw : (sxWf z sx && o.loadWf && m.wf) = true := hw
  obtain ⟨⟨hs, ho⟩, hm⟩ := by simpa only [Bool.and_eq_true] using hw
  rw [decode_encLO (j := 3) (by decide) he]
  simp (disch := decide) only [decodeL, Order.code_beq_zero, Order.ne_none_of_loadWf ho, Bool.not_true, Bool.false_eq_true,
    if_false, Order.ofCode_code, ho, Size.ofCode_code, hs, bits_append_low, bits_append_high, Nat.reduceSub, bits_self,
    Scope.ofCode_code, memOp_of_wf hm, need_true]

theorem decode_ldwOrdered {z : Size} {sx : Bool} {o : Order} {m : MemOp 13} {w : W32}
    (hw : (Instr.ldwOrdered z sx o m).wf = true) (he : encode (.ldwOrdered z sx o m) = some w) :
    decode w = .ok (.ldwOrdered z sx o m) := by
  have hw : (sxWf z sx && (o != .none) && m.wf) = true := hw
  obtain ⟨⟨hs, ho⟩, hm⟩ := by simpa only [Bool.and_eq_true] using hw
  rw [decode_encLO (j := 4) (by decide) he]
  simp (disch := decide) only [decodeL, Order.code_beq_zero, ho, Bool.not_true, Bool.false_eq_true, if_false,
    Order.ofCode_code, Size.ofCode_code, hs, bits_append_low, bits_append_high, Nat.reduceSub, bits_self, Scope.ofCode_code,
    memOp_of_wf hm, Bool.true_and]
  rfl

theorem decode_stgOrdered {z : Size} {o : Order} {s : Scope} {m : MemOp 13} {w : W32}
    (hw : (Instr.stgOrdered z o s m).wf = true) (he : encode (.stgOrdered z o s m) = some w) :
    decode w = .ok (.stgOrdered z o s m) := by
  obtain ⟨ho, hm⟩ := Bool.and_eq_true_iff.mp (show (o.storeWf && m.wf) = true from hw)
  rw [decode_encLO (j := 7) (by decide) he]
  simp (disch := decide) only [decodeL, Order.code_beq_zero, Order.ne_none_of_storeWf ho, Bool.not_true, Bool.false_eq_true,
    if_false, Order.ofCode_code, ho, Size.ofCode_code, bits_append_low, bits_append_high, Nat.reduceSub, bits_self,
    Scope.ofCode_code, memOp_of_wf hm, need_true, Bool.not_false]

theorem decode_stwOrdered {z : Size} {o : Order} {m : MemOp 13} {w : W32}
    (hw : (Instr.stwOrdered z o m).wf = true) (he : encode (.stwOrdered z o m) = some w) :
    decode w = .ok (.stwOrdered z o m) := by
  obtain ⟨ho, hm⟩ := Bool.and_eq_true_iff.mp (show (o != .none && m.wf) = true from hw)
  rw [decode_encLO (j := 8) (by decide) he]
  simp (disch := decide) only [decodeL, Order.code_beq_zero, ho, Bool.not_true, Bool.false_eq_true, if_false,
    Order.ofCode_code, Size.ofCode_code, bits_append_low, bits_append_high, Nat.reduceSub, bits_self, Scope.ofCode_code,
    memOp_of_wf hm, Bool.true_and, Bool.not_false]
  rfl

theorem decode_aluiShift {f : BitVec 6} {y : BitVec 6} {w : W32} {k : BitVec 6 → Instr}
    (he : encI 0x0D f ((0 : BitVec 14) ++ y : BitVec 20) = some w) (hf : aluiTable[f.toNat]? = some none)
    (hk : aluiShiftTable[f.toNat - 7]? = some k) : decode w = .ok (k y) := by
  rw [decode_encI (j := 0x0D) (by decide) he]
  simp (disch := decide) only [decodeI, hf, hk, bits_append_low, bits_append_high, Nat.reduceSub, bits_self, bits_zero,
    BEq.rfl, need_true]

theorem decode_encT {f : BitVec 6} {h : BitVec 4} {x : BitVec 16} {w : W32} (he : encT f h x = some w) :
    decode w = decodeI 0x17 f (h ++ x) := by
  rw [encT_eq] at he
  exact decode_encI (j := 0x17) (by decide) he

theorem decode_encF {f : BitVec 4} {d p : BitVec 3} {x : BitVec 16} {w : W32} (he : encF f d p x = some w) :
    decode w = decodeF f d p x (d ++ p ++ x) := by
  rw [encF_eq] at he
  cases he
  rw [decode_packF]
  simp (disch := decide) only [bits_append_low, bits_append_high, Nat.reduceSub, bits_self]

theorem decode_encK {f : BitVec 6} {n : BitVec 4} {x : BitVec 16} {w : W32} (he : encK f n x = some w) :
    decode w = decodeK f n x := by
  cases he
  exact decode_packK ..

/-! Fields below zero bits, or side by side, as the arms of the decoders read them. -/

section
variable {m p q n : Nat} {r r' : Reject}

theorem need_of {c : Bool} {d : Except Reject Instr} (h : c = true) : need c r d = d := if_pos h

theorem bits_zero_append (y : BitVec n) : (bits (0#m ++ y) n m == 0) = true ∧ bits (0#m ++ y) 0 n = y := by
  rw [bits_append_high _ _ le_rfl, bits_append_low _ _ (Nat.zero_add n).le, Nat.sub_self, bits_self, bits_self]
  exact ⟨BEq.rfl, rfl⟩

theorem bits_zero_append_append (y : BitVec p) (z : BitVec q) : (bits (0#m ++ y ++ z) (p + q) m == 0) = true ∧
    bits (0#m ++ y ++ z) q p = y ∧ bits (0#m ++ y ++ z) 0 q = z := by
  obtain ⟨h0, hy⟩ := bits_zero_append (m := m) y
  have h1 : bits (0#m ++ y ++ z) (p + q) m = bits (0#m ++ y) p m := by
    rw [bits_append_high _ _ (Nat.le_add_left q p), Nat.add_sub_cancel]
  have h2 : bits (0#m ++ y ++ z) q p = bits (0#m ++ y) 0 p := by rw [bits_append_high _ _ le_rfl, Nat.sub_self]
  rw [h1, h2, bits_append_low _ _ (Nat.zero_add q).le, bits_self]
  exact ⟨h0, hy, rfl⟩

theorem need_field (y : BitVec n) (k : BitVec n → Instr) :
    need (bits (0#m ++ y) n m == 0) r (.ok (k (bits (0#m ++ y) 0 n))) = .ok (k y) := by
  obtain ⟨h0, hy⟩ := bits_zero_append (m := m) y
  rw [hy, need_of h0]

theorem need_fieldIf (c : BitVec n → Bool) {y : BitVec n} (k : BitVec n → Instr) (h : c y = true) :
    need (bits (0#m ++ y) n m == 0) r (need (c (bits (0#m ++ y) 0 n)) r' (.ok (k (bits (0#m ++ y) 0 n)))) = .ok (k y) := by
  obtain ⟨h0, hy⟩ := bits_zero_append (m := m) y
  rw [hy, need_of h0, need_of h]

theorem need_fields (y : BitVec p) (z : BitVec q) (k : BitVec p → BitVec q → Instr) :
    need (bits (0#m ++ y ++ z) (p + q) m == 0) r (.ok (k (bits (0#m ++ y ++ z) q p) (bits (0#m ++ y ++ z) 0 q))) =
      .ok (k y z) := by
  obtain ⟨h0, hy, hz⟩ := bits_zero_append_append (m := m) y z
  rw [hy, hz, need_of h0]

theorem need_fieldsIf (c : BitVec p → BitVec q → Bool) {y : BitVec p} {z : BitVec q} (k : BitVec p → BitVec q → Instr)
    (h : c y z = true) :
    need (bits (0#m ++ y ++ z) (p + q) m == 0) r
      (need (c (bits (0#m ++ y ++ z) q p) (bits (0#m ++ y ++ z) 0 q)) r'
        (.ok (k (bits (0#m ++ y ++ z) q p) (bits (0#m ++ y ++ z) 0 q)))) = .ok (k y z) := by
  obtain ⟨h0, hy, hz⟩ := bits_zero_append_append (m := m) y z
  rw [hy, hz, need_of h0, need_of h]

theorem need_csr {c : Csr} (k : Csr → Instr) (h : c.wf = true) :
    need (bits (0#8 ++ c.code) 12 8 == 0) r
      (match Csr.ofCode (bits (0#8 ++ c.code) 0 12) with
       | some c => .ok (k c)
       | none => .error .value) = .ok (k c) := by
  obtain ⟨h0, hc⟩ := bits_zero_append (m := 8) c.code
  rw [need_of h0, hc, Csr.ofCode_code c h]

theorem need_tlbinv (a : Bool) (c : BitVec 6) (s : TlbScope) :
    need (bits (0#11 ++ bit1 a ++ c ++ s.code) 9 11 == 0) r
      (match TlbScope.ofCode (bits (0#11 ++ bit1 a ++ c ++ s.code) 0 2) with
       | some s' => .ok (.tlbinv (bits (0#11 ++ bit1 a ++ c ++ s.code) 8 1 == 1) (bits (0#11 ++ bit1 a ++ c ++ s.code) 2 6) s')
       | none => .error .value) = .ok (.tlbinv a c s) := by
  simp (disch := decide) only [bits_append_low, bits_append_high, Nat.reduceSub, bits_self, bit1_beq_one,
    TlbScope.ofCode_code]
  rfl

theorem need_vred {a : BitVec 3} (b : BitVec 3) (o : ROp) {rv : Bool} (h : (!rv || a == 0) = true) :
    need (bits (0#9 ++ bit1 rv ++ o.code ++ 0#1) 5 9 == 0 && bits (0#9 ++ bit1 rv ++ o.code ++ 0#1) 0 1 == 0) r
      (match ROp.ofCode (bits (0#9 ++ bit1 rv ++ o.code ++ 0#1) 1 3) with
       | none => .error .value
       | some o' => need (bits (0#9 ++ bit1 rv ++ o.code ++ 0#1) 4 1 == 0 || a == 0) r'
          (.ok (.vred a b o' (bits (0#9 ++ bit1 rv ++ o.code ++ 0#1) 4 1 == 1)))) = .ok (.vred a b o rv) := by
  simp (disch := decide) only [bits_append_low, bits_append_high, Nat.reduceSub, bits_self, ROp.ofCode_code, ← not_beq_one,
    bit1_beq_one, need_of h]
  rfl

theorem need_helper {y : BitVec 4} (z : BitVec 16) (k : BitVec 4 → BitVec 16 → Instr) (h : helperWf y = true) :
    need (helperWf (bits (y ++ z) 16 4)) r (.ok (k (bits (y ++ z) 16 4) (bits (y ++ z) 0 16))) = .ok (k y z) := by
  simp (disch := decide) only [bits_append_low, bits_append_high, Nat.reduceSub, bits_self, need_of h]

theorem need_helperAlone {y : BitVec 4} (k : BitVec 4 → Instr) (h : helperWf y = true) :
    need (helperWf (bits (y ++ 0#16) 16 4)) r (need (bits (y ++ 0#16) 0 16 == 0) r' (.ok (k (bits (y ++ 0#16) 16 4)))) =
      .ok (k y) := by
  simp (disch := decide) only [bits_append_low, bits_append_high, Nat.reduceSub, bits_self, need_of h]
  rfl

end

/-- A register number that the copy and the vector engine have. -/
abbrev lowReg (y : BitVec 4) : Bool := decide (y.toNat ≤ 7)

/-- A number of registers that the matrix engine writes at once. -/
abbrev mxGroup (n : BitVec 5) (_ : BitVec 4) : Bool := decide (1 ≤ n.toNat) && decide (n.toNat ≤ 16)

theorem decode_of_word {v w : W32} {i : Instr} (he : some v = some w) (hd : decode v = .ok i) : decode w = .ok i := by
  rwa [← Option.some.inj he]

/-- Instruction by instruction: the encoder picks the decoder by the major opcode, and the decoder the fields of its arm. -/
theorem decode_encode {i : Instr} {w : W32} (hw : i.wf = true) (he : encode i = some w) : decode w = .ok i := by
  cases i with
  | nop | eret | rdtime | rdcyc | oorclr | movrv | ret | endT | yield | self | spawn | flend | mxflip | mxzero | mxswap
  | mxckl | mxckf | mxrty | mxwait | vwait | cwait | rdwait
  | not | neg | abs | negs | abss | clz | ctz | popc | bswap | sextb | sexth | sextw | zextb | zexth | zextw =>
    exact decode_of_word he rfl
  | trap n | dbrk n => exact decode_encS he
  | csrr => exact (decode_encS he).trans (need_csr .csrr hw)
  | csrw => exact (decode_encS he).trans (need_csr .csrw hw)
  | csrs => exact (decode_encS he).trans (need_csr .csrs hw)
  | csrc => exact (decode_encS he).trans (need_csr .csrc hw)
  | waite => exact (decode_encS he).trans (need_fieldIf (· != 0) .waite hw)
  | halt b c => exact (decode_encS he).trans ((need_fields (bit1 b) c (.halt <| · == 1)).trans (by rw [bit1_beq_one]))
  | icinv s =>
    exact (decode_encS he).trans ((need_field s.code fun y => .icinv (ICScope.ofCode y)).trans (by rw [ICScope.ofCode_code]))
  | tlbw b c => exact (decode_encS he).trans ((need_fields (bit1 b) c (.tlbw <| · == 1)).trans (by rw [bit1_beq_one]))
  | tlbinv a c s => exact (decode_encS he).trans (need_tlbinv a c s)
  | revoke c => exact (decode_encS he).trans (need_field c .revoke)
  | ctxsv c => exact (decode_encS he).trans (need_field c .ctxsv)
  | ctxld c => exact (decode_encS he).trans (need_field c .ctxld)
  | gstop c b =>
    exact (decode_encS he).trans ((need_fields c (bit1 b) fun y z => .gstop y (z == 1)).trans (by rw [bit1_beq_one]))
  | reissue k => exact (decode_encS he).trans (need_field k .reissue)
  | add z m | adc z m | sub z m | sbc z m | rsb z m | adds z m | addsu z m | subs z m | subsu z m | mul z m | mulh z m
  | mulhu z m | div z m | divu z m | rem z m | remu z m | and z m | or z m | xor z m | andn z m | shl z m | shr z m
  | sar z m | rol z m | ror z m | min z m | max z m | minu z m | maxu z m | cmp z m | tst z m =>
    exact decode_alu he rfl hw
  | fadd m | fsub m | frsub m | fmul m | fdiv m | fmin m | fmax m | fcmp m | fsqrt m | fcvtbf m | fcvthf m | frndbf m
  | frndhf m | fcvti m | fcvtf m | fcvtuf m => exact decode_fpu he rfl hw
  | pmov | paddi | padda | pstr | pget | pset | psub => exact decode_encP (j := 0x10) (by decide) he
  | jmp  => exact decode_encP (j := 0x13) (by decide) he
  | loop k o | dbnz k o =>
    rw [decode_encP (j := 0x13) (by decide) he]
    cases k <;> rfl
  | addi | addsi | rsbi | muli | andi | ori | xori | cmpi | tsti => exact decode_encI (j := 0x0D) (by decide) he
  | li => exact decode_encI (j := 0x14) (by decide) he
  | lih => exact decode_encI (j := 0x15) (by decide) he
  | mxls | mxst | mxdrn => exact decode_encE (j := 0x1A) (by decide) he
  | cg2l | cl2g | cl2c | cc2l | cw2l | cl2w | cx2g | cg2x => exact decode_encE (j := 0x1C) (by decide) he
  | rdadd | rdflush => exact decode_encE (j := 0x1D) (by decide) he
  | vabs | vneg | vexp2 | vlog2 | vrcp | vrsq | vtanh | vcvt | vscan | vclamp | vgath | vscat => exact decode_encV he
  | vadd a b sc | vsub a b sc | vmul a b sc | vfma a b sc | vmin a b sc | vmax a b sc | vsel a b sc =>
    rw [decode_encV he]
    cases sc <;> rfl
  | ldl => exact (decode_encL (j := 1) (by decide) he).trans (decodeLoad_of_wf .ldl hw)
  | ldc => exact (decode_encL (j := 2) (by decide) he).trans (decodeLoad_of_wf .ldc hw)
  | ldg => exact (decode_encL (j := 3) (by decide) he).trans (decodeLoad_of_wf .ldg hw)
  | ldw => exact (decode_encL (j := 4) (by decide) he).trans (decodeLoad_of_wf .ldw hw)
  | stl => exact (decode_encL (j := 5) (by decide) he).trans (decodeStore_of_wf .stl hw)
  | stc => exact (decode_encL (j := 6) (by decide) he).trans (decodeStore_of_wf .stc hw)
  | stg => exact (decode_encL (j := 7) (by decide) he).trans (decodeStore_of_wf .stg hw)
  | stw => exact (decode_encL (j := 8) (by decide) he).trans (decodeStore_of_wf .stw hw)
  | ldgOrdered => exact decode_ldgOrdered hw he
  | ldwOrdered => exact decode_ldwOrdered hw he
  | stgOrdered => exact decode_stgOrdered hw he
  | stwOrdered => exact decode_stwOrdered hw he
  | ldlf | ldlfC | ldcf | ldcfC | stlf | stcf => exact decode_fe he rfl hw
  | feset | feclr | fetst => exact decode_feBit he rfl rfl hw
  | amogAdd | amogAnd | amogOr | amogXor | amogMin | amogMax | amogMinu | amogMaxu | amogSwap | amogCas =>
    exact decode_amog he rfl hw
  | amocAdd | amocAnd | amocOr | amocSwap | amocCas => exact decode_amoc he rfl hw
  | shli | shri | sari | rori => exact decode_aluiShift he rfl rfl
  | b c o =>
    cases he
    rw [decode_packBranch, Cond.ofCode_code]
  | call o =>
    cases he
    rw [decode_packCall, BEq.rfl, need_true]
  | balloc | att | det | detZ | arm | bwait | openSlot | closeSlot | bqry | hov => exact (decode_encK he).trans (need_of hw)
  | start _ o => exact (decode_encT he).trans (need_helper o .start hw)
  | startM _ o => exact (decode_encT he).trans (need_helper o .startM hw)
  | hwait => exact (decode_encT he).trans (need_helperAlone .hwait hw)
  | hkill => exact (decode_encT he).trans (need_helperAlone .hkill hw)
  | join g => exact (decode_encI (j := 0x18) (by decide) he).trans (need_field g .join)
  | leave g => exact (decode_encI (j := 0x18) (by decide) he).trans (need_field g .leave)
  | bar g => exact (decode_encI (j := 0x18) (by decide) he).trans (need_field g .bar)
  | flow g n =>
    obtain rfl := Option.some.inj ((congrArg some (packFlow_eq_packB 0 g n)).symm.trans he)
    rw [decode_packF]
    simp (disch := decide) only [decodeF, BitVec.reduceToNat, bits_append_low, bits_append_high, Nat.reduceSub, bits_self,
      show (n != 0) = true from hw, need_true]
  | xmit | muxs | recv | xfwd =>
    rw [decode_encF he]
    simp only [decodeF, BitVec.reduceToNat, Link.ofCode_code, BEq.rfl, need_true]
  | mxrd k => exact (decode_encE (j := 0x1A) (by decide) he).trans (need_field k .mxrd)
  | mxwr k a => exact (decode_encE (j := 0x1A) (by decide) he).trans (need_field k (.mxwr · a))
  | mxwrg _ _ a => exact (decode_encE (j := 0x1A) (by decide) he).trans (need_fieldsIf mxGroup (fun n k => .mxwrg k n a) hw)
  | cwr _ a => exact (decode_encE (j := 0x1C) (by decide) he).trans (need_fieldIf lowReg (.cwr · a) hw)
  | cwrg _ _ a =>
    exact (decode_encE (j := 0x1C) (by decide) he).trans (need_fieldsIf (fun n k => wrg8Wf k n) (fun n k => .cwrg k n a) hw)
  | vwr _ a => exact (decode_encV he).trans (need_fieldIf lowReg (.vwr · a) hw)
  | vrd => exact (decode_encV he).trans (need_fieldIf lowReg .vrd hw)
  | vwrg _ _ a => exact (decode_encV he).trans (need_fieldsIf (fun n k => wrg8Wf k n) (fun n k => .vwrg k n a) hw)
  | vafs a b u =>
    rw [decode_encV he]
    cases u <;> rfl
  | vcmp a b c sc =>
    rw [decode_encV he]
    cases c <;> cases sc <;> rfl
  | vred a b r rv => exact (decode_encV he).trans (need_vred b r hw)
  | _ => exact absurd he (Option.some_ne_none w).symm

/-! ### Words of the encoding tables (02 R38 to R47) -/

/-- Settles O1: the eleven words are read by evaluation. -/
theorem decodeOfWordsFromTheTables : Obligations.DecodeOfWordsFromTheTables := ⟨by decide, fun _ => decode_unassigned⟩

/-- Settles O2: every instruction is read from the word of its format. -/
theorem decodeOfEncodeIsTheInstruction : Obligations.DecodeOfEncodeIsTheInstruction := fun _ _ => decode_encode

end Sys2Proof
end

section
/-! Where an instruction may execute (O11), what a step of a core runs (O4), fetch barriers and translation buffers (O18). -/

namespace Sys2Proof.Machine

/-! ### Faults of an instruction that may not execute where it stands (02 R48) -/

/-- Settles O11: each clause excludes the checks of `State.bars` before its own. -/
theorem whereAnInstructionMayExecute : Obligations.WhereAnInstructionMayExecute := by
  intro s m
  unfold State.bars
  refine ⟨fun hp hs => ?_, fun hp hf hw => ?_, fun hp hw hm hg => ?_, fun hp hw hg hh hl => ?_, fun hp hw hg hl ho => ?_⟩
  · simp [hp, hs]
  · simp [hp, hf, hw]
  · simp [hp, hw, hm, hg]
  · simp [hp, hw, hg, hh, hl]
  · simp [hp, hw, hg, hl, ho]

/-! ### The issue turn of a core (18 R268) -/

/-- With no late fault due and no phase open, an issue turn runs the instruction that the word at the PC decodes to. -/
theorem State.issueAt_runs {s : State} {k c : Nat} {w : W32} {i : Instr} (hf : s.coreFlows k = false)
    (hl : (s.ctx k c).lateEntry = none) (hp : (s.ctx k c).pc ≠ sentinel) (hw : s.fetchWord k c (s.ctx k c).pc = .ok w)
    (hd : decode w = .ok i) : s.issueAt k c = exec i { s with cur := (k, c) } := by
  have hf' : ({ s with cur := (k, c) } : State).coreFlows k = false := hf
  have hl' : (({ s with cur := (k, c) } : State).ctx k c).lateEntry = none := hl
  have hp' : (({ s with cur := (k, c) } : State).ctx k c).pc ≠ sentinel := hp
  have hw' : ({ s with cur := (k, c) } : State).fetchWord k c (({ s with cur := (k, c) } : State).ctx k c).pc = .ok w := hw
  simp only [State.issueAt, hf', hl', hp', hw', State.issueWord, hd]
  rfl

theorem State.instructionDue_of_fetched {s : State} {k c : Nat} {w : W32} (hl : (s.ctx k c).lateEntry = none)
    (hw : s.fetchWord k c (s.ctx k c).pc = .ok w) : s.instructionDue k c = true := by
  simp [State.instructionDue, hl, hw]

theorem State.issueCore_runs {s : State} {k c : Nat} {w : W32} {i : Instr} (hn : s.nextReady k = some c)
    (hf : s.coreFlows k = false) (hl : (s.ctx k c).lateEntry = none) (hp : (s.ctx k c).pc ≠ sentinel)
    (hw : s.fetchWord k c (s.ctx k c).pc = .ok w) (hd : decode w = .ok i) :
    s.issueCore k = andThen (exec i { s with cur := (k, c) }) fun t => t.issued k c (s.vdevOf k c) false := by
  simp only [State.issueCore, hn, State.issueAt_runs hf hl hp hw hd, State.instructionDue_of_fetched hl hw, hf, if_true]

theorem State.takeTurn_issue (s : State) (k n : Nat) : s.takeTurn (.issue k n) =
    if validCore k then andThen (s.issueCore k) fun u => u.tick n else .fault .noSuchCore := rfl

theorem step_issue {s : State} {k n : Nat} {r : List Turn} (hb : s.booted = true) (hs : s.script = .issue k n :: r)
    (hk : validCore k = true) : step s = andThen (({ s with script := r } : State).issueCore k) fun u => u.tick n := by
  simp only [step, State.turn, hb, hs, State.takeTurn_issue, hk, Bool.not_true, Bool.false_eq_true, if_false, if_true]

theorem andThen_andThen (o : Out) (f g : State → State) : andThen (andThen o f) g = andThen o fun t => g (f t) := by
  cases o <;> rfl

/-! The script is nothing that a core reads. -/

section
variable (s : State) (r : List Turn) (k c : Nat)

theorem State.coreFlows_script : ({ s with script := r } : State).coreFlows k = s.coreFlows k := rfl
theorem State.ctx_script : ({ s with script := r } : State).ctx k c = s.ctx k c := rfl
theorem State.vdevOf_script : ({ s with script := r } : State).vdevOf k c = s.vdevOf k c := rfl
theorem State.fetchWord_script (a : Addr) : ({ s with script := r } : State).fetchWord k c a = s.fetchWord k c a := rfl

end

/-- Settles O4: the fetched word decodes to `i`, so the issue turn is `exec i`, then the accounting and the clock. -/
theorem stepRunsTheDecodedInstruction : Obligations.StepRunsTheDecodedInstruction := by
  intro s k n c r w i hb hs hk hn hf hl hp hw hd
  rw [← State.coreFlows_script s r] at hf
  rw [← State.fetchWord_script s r] at hw
  rw [← State.ctx_script s r] at hl hp hw
  rw [step_issue hb hs hk, State.issueCore_runs hn hf hl hp hw hd, andThen_andThen, State.vdevOf_script]

/-! ### Entries changed throughout a map -/

/-- The entries whose key meets `p`, changed: a key reads as the changed entry where it meets `p`, also where it is not
listed, if the change keeps the default. -/
theorem Sparse.get_map_if {α : Type} (m : Sparse α) (p : Nat → Bool) (f : α → α) {d : α} (hd : f d = d) (k : Nat) :
    Sparse.get (m.map fun e => if p e.1 = true then (e.1,
      f e.2) else e) d k = if p k = true then f (m.get d k) else m.get d k := by
  induction m with
  | nil => simp [hd]
  | cons e t ih =>
    obtain ⟨j, x⟩ := e
    unfold Sparse.get at ih ⊢
    rw [List.map_cons, Sparse.find_cons]
    by_cases hj : j = k
    · subst hj
      cases p j <;> simp [Sparse.find_cons]
    · cases p j <;> simp [Sparse.find_cons, hj, ih]

/-! ### Fetch barriers (11 R217) -/

theorem State.dropCode_core (s : State) (k : Nat) (whole : Bool) (j : Nat) : (s.dropCode k whole).core j =
    if s.clusterInScope k whole (clusOf j) = true then { s.core j with icache := [] } else s.core j :=
  Sparse.get_map_if s.cores (fun j => s.clusterInScope k whole (clusOf j)) (fun x => { x with icache := [] }) rfl j

theorem State.dropCode_cluster (s : State) (k : Nat) (whole : Bool) (cl : Nat) : (s.dropCode k whole).cluster cl =
    if s.clusterInScope k whole cl = true then { s.cluster cl with codeCache := [] } else s.cluster cl :=
  Sparse.get_map_if s.clusters (s.clusterInScope k whole) (fun x => { x with codeCache := [] }) rfl cl

theorem State.clusterInScope_self (s : State) (k : Nat) (whole : Bool) : s.clusterInScope k whole (clusOf k) = true := by
  cases whole <;> simp [State.clusterInScope]

/-- What a fetch barrier of core `k` does: the I-cache of `k`, and the I-caches of its cluster if `all`, and the code cache of
its cluster are empty; contexts and resident regions are as before. -/
structure State.FetchBarrier (s t : State) (k : Nat) (all : Prop) : Prop where
  cur : t.cur = s.cur
  ctx : ∀ j c, t.ctx j c = s.ctx j c
  icache : (t.core k).icache = []
  codeCache : (t.cluster (clusOf k)).codeCache = []
  cluster : all → ∀ j, clusOf j = clusOf k → (t.core j).icache = []
  resident : ∀ cl, (t.cluster cl).resident = (s.cluster cl).resident

theorem State.dropCode_barrier (s : State) (k : Nat) (whole : Bool) (all : Prop) : s.FetchBarrier (s.dropCode k whole) k all where
  cur := rfl
  ctx j c := by rw [State.ctx, State.dropCode_core]; split <;> rfl
  icache := by rw [State.dropCode_core, if_pos (s.clusterInScope_self k whole)]
  codeCache := by rw [State.dropCode_cluster, if_pos (s.clusterInScope_self k whole)]
  cluster _ j hj := by rw [State.dropCode_core, hj, if_pos (s.clusterInScope_self k whole)]
  resident cl := by rw [State.dropCode_cluster]; split <;> rfl

theorem State.setCore_ctx (s : State) {k : Nat} {x : Core} (h : x.ctxs = (s.core k).ctxs) (j c : Nat) :
    (s.setCore k x).ctx j c = s.ctx j c := by
  unfold State.ctx Core.ctx
  by_cases hj : j = k
  · subst hj
    rw [State.setCore_core_self, h]
  · rw [State.setCore_core_ne _ _ hj]

theorem State.dropFetch_barrier (s : State) (k : Nat) {all : Prop} (h : ¬ all) : s.FetchBarrier (s.dropFetch k) k all where
  cur := rfl
  ctx j c := by
    rw [State.dropFetch, State.setCluster_ctx]
    exact State.setCore_ctx s (x := { s.core k with icache := [] }) rfl j c
  icache := by rw [State.dropFetch, State.setCluster_core, State.setCore_core_self]
  codeCache := by rw [State.dropFetch, State.setCluster_cluster_self]
  cluster ha := absurd ha h
  resident cl := by
    by_cases hcl : cl = clusOf k
    · subst hcl
      rw [State.dropFetch, State.setCluster_cluster_self, State.setCore_cluster]
    · rw [State.dropFetch, State.setCluster_cluster_ne _ _ hcl, State.setCore_cluster]

theorem exec_icinv (sc : ICScope) (s : State) : exec (.icinv sc) s = execIcinv sc s := rfl
theorem exec_tlbw (cl : Bool) (c : BitVec 6) (s : State) : exec (.tlbw cl c) s = execTlbw cl c s := rfl
theorem exec_tlbinv (a : Bool) (c : BitVec 6) (sc : TlbScope) (s : State) : exec (.tlbinv a c sc) s = execTlbinv a c sc s := rfl

/-- The state in which an `ICINV` retires. -/
theorem execIcinv_retires (s : State) (h : s.issues {}) (sc : ICScope) :
    ∃ s1, exec (.icinv sc) s = .next (s1.setMe s1.me.advance) ∧ s.FetchBarrier s1 s.k (sc = .cluster ∨ sc = .part) := by
  rw [exec_icinv, execIcinv, run_issues _ _ _ _ _ h]
  cases sc with
  | ctx => exact ⟨_, rfl, s.dropFetch_barrier s.k (by decide)⟩
  | core => exact ⟨_, rfl, s.dropFetch_barrier s.k (by decide)⟩
  | cluster => exact ⟨_, rfl, s.dropCode_barrier s.k false _⟩
  | part => exact ⟨_, rfl, s.dropCode_barrier s.k true _⟩

theorem State.setMe_icache (s : State) (y : Ctx) (j : Nat) : ((s.setMe y).core j).icache = (s.core j).icache :=
  (congrArg Core.icache (s.setCtx_core s.k s.c j y) :)

theorem State.setMe_tlb (s : State) (y : Ctx) (j : Nat) : ((s.setMe y).core j).tlb = (s.core j).tlb :=
  (congrArg Core.tlb (s.setCtx_core s.k s.c j y) :)

/-! ### Translation buffers (11 R218, R219) -/

theorem mem_tlbInsert (n : Nat) (l : List TlbEntry) (e : TlbEntry) : e ∈ tlbInsert (n + 1) l e := by simp [tlbInsert]

theorem State.tlbRemove_core (s : State) (t : Nat) (sc : TlbScope) (all : Bool) (p5 : Word) (j : Nat) :
    (s.tlbRemove t sc all p5).core j = if s.tlbScope t sc j = true then
      { s.core j with tlb := (s.core j).tlb.filter fun e => !e.removedBy all p5 } else s.core j :=
  Sparse.get_map_if s.cores (s.tlbScope t sc) (fun x => { x with tlb := x.tlb.filter fun e => !e.removedBy all p5 }) rfl j

theorem State.tlbRemove_ctx (s : State) (t : Nat) (sc : TlbScope) (all : Bool) (p5 : Word) (j c : Nat) :
    (s.tlbRemove t sc all p5).ctx j c = s.ctx j c := by
  rw [State.ctx, State.tlbRemove_core]
  split <;> rfl

section
variable {s : State} {c : BitVec 6} (h : s.issues admS) (hin : s.inService (s.target c) = true)
include h hin

theorem execTlbw_core (hok : tlbwBad (s.me.ptr 5) s.me.a = false) (hv : getBit s.me.a 51 = true) :
    ∃ t, exec (.tlbw false c) s = .next t ∧ t.me.pc = s.me.pc + 4 ∧
      tlbwEntry (s.me.ptr 5) s.me.a ∈ (t.core (s.target c)).tlb := by
  rw [exec_tlbw, execTlbw, run_issues _ _ _ _ _ h]
  simp only [hin, hok, hv, Bool.not_false, Bool.not_true, Bool.and_false, Bool.false_eq_true, if_false, finish_retire]
  refine ⟨_, rfl, ?_, ?_⟩
  · rw [State.setMe_me, Ctx.advance_pc_self]
    refine congrArg (Ctx.pc · + 4) (s.setCore_ctx ?_ s.k s.c)
    rfl
  · rw [State.setMe_tlb, State.setCore_core_self]
    exact mem_tlbInsert ..

omit hin in
theorem execTlbw_cluster (hok : tlbwBad (s.me.ptr 5) s.me.a = false) (hv : getBit s.me.a 51 = true) :
    ∃ t, exec (.tlbw true c) s = .next t ∧ t.me.pc = s.me.pc + 4 ∧
      tlbwEntry (s.me.ptr 5) s.me.a ∈ (t.cluster (clusOf s.k)).tlb := by
  rw [exec_tlbw, execTlbw, run_issues _ _ _ _ _ h]
  simp only [hok, hv, Bool.not_true, Bool.false_and, Bool.false_eq_true, if_false, if_true, finish_retire]
  refine ⟨_, rfl, ?_, ?_⟩
  · rw [State.setMe_me, Ctx.advance_pc_self, State.setCluster_me]
  · rw [State.setMe_cluster, State.setCluster_cluster_self]
    exact mem_tlbInsert ..

theorem execTlbinv_core (all : Bool)
    (hb : (s.tlbRemove (s.target c) .core all (s.me.ptr 5)).tlbBusy (s.target c) .core all (s.me.ptr 5) = false) :
    ∃ t, exec (.tlbinv all c .core) s = .next t ∧ t.me.pc = s.me.pc + 4 ∧
      ∀ e ∈ (t.core (s.target c)).tlb, e.removedBy all (s.me.ptr 5) = false := by
  rw [exec_tlbinv, execTlbinv, run_issues _ _ _ _ _ h]
  simp only [hin, hb, Bool.true_eq_false, and_false, Bool.false_eq_true, if_false, finish_retire]
  refine ⟨_, rfl, ?_, ?_⟩
  · rw [State.setMe_me, Ctx.advance_pc_self]
    exact congrArg (Ctx.pc · + 4) (s.tlbRemove_ctx ..)
  · intro e he
    rw [State.setMe_tlb, State.tlbRemove_core,
      if_pos (show s.tlbScope (s.target c) .core (s.target c) = true from decide_eq_true rfl)] at he
    simpa using (List.mem_filter.mp he).2

end

/-- Settles O18: `ICINV` retires in a state after a fetch barrier; the entry of `TLBW` is in the buffer it names, and a filtered
buffer holds no entry of those removed. -/
theorem cachesAndTranslations : Obligations.CachesAndTranslations := by
  refine ⟨fun s h sc => ?_, fun s c h hin => ⟨fun hok hv => ⟨execTlbw_core h hin hok hv, execTlbw_cluster h hok hv⟩,
    execTlbinv_core h hin⟩⟩
  obtain ⟨s1, hrun, hb⟩ := execIcinv_retires s h sc
  have hme : s1.me = s.me := by
    unfold State.me State.k State.c
    rw [hb.cur, hb.ctx]
  refine ⟨_, hrun, by rw [State.setMe_me, hme], ?_, hb.codeCache, fun hsc k hk => ?_, hb.resident⟩
  · rw [State.setMe_icache, hb.icache]
  · rw [State.setMe_icache, hb.cluster hsc k hk]

end Sys2Proof.Machine
end

section
/-! The arithmetic of the ALU with a memory operand (O22): what an instruction leaves whose operand can be read, and the results
of Table 4-2 over the exact integers (04 R71, R72). -/

namespace Sys2Proof.Machine

/-! ### Instructions whose memory operand can be read -/

section
variable {s : State} {z : Size} {m : MemOp 12} {v : Word} {flow : Bool} (h : s.lOperand flow z m v)
include h

/-- An instruction whose operand reads as `v` does what its function says of `v`. -/
theorem operand_of_lOperand (i : Instr) (f : Word → Addr → Ctx → Act) :
    operand i (admL flow) z m s f = finish i (f v (eaOf m s.me) (s.afterL z m)) := by
  obtain ⟨hissues, haligned, hread⟩ := h
  unfold operand
  rw [run_issues _ _ _ _ _ hissues]
  simp [haligned, hread, State.afterL]

theorem aluMem_result {i : Instr} {sx : Bool} {f : Word → Word → Word → Res} {r : Res}
    (hr : f (s.afterL z m).a (extend sx z v) (s.afterL z m).st = r) :
    aluMem i flow sx z m s f = .next (s.setMe ((s.afterL z m).setRes r).advance) := by
  subst hr
  exact operand_of_lOperand h i _

end

theorem aluMemCmp_result {s : State} {z : Size} {m : MemOp 12} {v : Word} (h : s.lOperand true z m v) {i : Instr} {sx : Bool}
    {f : Word → Word → Res} {r : Res} (hr : f (s.afterL z m).a (extend sx z v) = r) :
    aluMemCmp i sx z m s f = .next (s.setMe ((s.afterL z m).setCmp r).advance) := by
  subst hr
  exact operand_of_lOperand h i _

/-! A memory operand changes its pointer and the out-of-range record alone. -/

theorem State.afterL_a (s : State) (z : Size) (m : MemOp 12) : (s.afterL z m).a = s.me.a :=
  (congrArg Ctx.a (s.afterL_frame z m) :)

theorem State.afterL_pc (s : State) (z : Size) (m : MemOp 12) : (s.afterL z m).pc = s.me.pc :=
  (congrArg Ctx.pc (s.afterL_frame z m) :)

theorem State.afterL_flag (s : State) (z : Size) (m : MemOp 12) (i : Nat) : (s.afterL z m).flag i = s.me.flag i :=
  (congrArg (Ctx.flag · i) (s.afterL_frame z m) :)

/-! ### Sums and differences (04 Table 4-2) -/

theorem outside64_eq_overflows (x : Int) : outside64 x = overflows x := by
  unfold outside64 overflows
  rw [← Bool.decide_or]
  refine decide_eq_decide.mpr (or_congr Iff.rfl ?_)
  omega

theorem addRes_eq (a x : Word) (cin : Bool) : addRes a x cin =
    { val := a + x + BitVec.ofNat 64 (bitNat cin), c := some (decide (2 ^ 64 ≤ a.toNat + x.toNat + bitNat cin)),
      v := some (overflows (a.toInt + x.toInt + bitNat cin)) } := by
  have hval : BitVec.ofNat 64 (a.toNat + x.toNat + bitNat cin) = a + x + BitVec.ofNat 64 (bitNat cin) := by
    simp [BitVec.ofNat_add]
  rw [addRes, hval, outside64_eq_overflows]

theorem addRes_false (a x : Word) : addRes a x false =
    { val := a + x, c := some (decide (2 ^ 64 ≤ a.toNat + x.toNat)), v := some (overflows (a.toInt + x.toInt)) } := by
  simp [addRes_eq, bitNat]

theorem subRes_eq (a x : Word) (bin : Bool) : subRes a x bin =
    { val := a - x - BitVec.ofNat 64 (bitNat bin), c := some (decide (x.toNat + bitNat bin ≤ a.toNat)),
      v := some (overflows (a.toInt - x.toInt - bitNat bin)) } := by
  rw [subRes, outside64_eq_overflows]

theorem subRes_false (a x : Word) : subRes a x false =
    { val := a - x, c := some (decide (x.toNat ≤ a.toNat)), v := some (overflows (a.toInt - x.toInt)) } := by
  simp [subRes_eq, bitNat]

/-- No borrow stands as a carry (04 Table 4-2, `SBC`). -/
theorem bitNat_not (b : Bool) : bitNat (!b) = 1 - bitNat b := by cases b <;> rfl

/-! ### Clamped results (04 R72) -/

theorem clampInt_eq {lo hi : Int} (hle : lo ≤ hi) (x : Int) : clampInt lo hi x = max lo (min hi x) := by
  unfold clampInt
  split
  · omega
  split <;> omega

theorem satRes_eq {lo hi : Int} (hle : lo ≤ hi) (x : Int) : satRes lo hi x =
    { val := BitVec.ofInt 64 (max lo (min hi x)), v := some (decide (x < lo ∨ hi < x)), sat := decide (x < lo ∨ hi < x) } := by
  rw [satRes, clampInt_eq hle, ← Bool.decide_or]

theorem neg_two_pow_le (n : Nat) : (-2 ^ n : Int) ≤ 2 ^ n - 1 := by
  have hpos : (0 : Int) < 2 ^ n := by positivity
  omega

theorem zero_le_two_pow_sub_one (n : Nat) : (0 : Int) ≤ 2 ^ n - 1 := by
  have hpos : (0 : Int) < 2 ^ n := by positivity
  omega

/-- Settles O22: the operand is read, and the result of each function is that of Table 4-2. -/
theorem aluOnMemoryArithmetic : Obligations.AluOnMemoryArithmetic := by
  intro s z m v h
  dsimp only [exec]
  refine ⟨aluMem_result h (addRes_false ..), aluMem_result h (addRes_eq ..), aluMem_result h (subRes_false ..),
    aluMem_result h ?sbc, aluMem_result h (subRes_false ..), aluMemCmp_result h (subRes_false ..),
    aluMem_result h (satRes_eq (neg_two_pow_le _) _), aluMem_result h (satRes_eq (neg_two_pow_le _) _),
    aluMem_result h (satRes_eq (zero_le_two_pow_sub_one _) _), aluMem_result h (satRes_eq (zero_le_two_pow_sub_one _) _)⟩
  case sbc => exact (subRes_eq ..).trans (by rw [bitNat_not])

end Sys2Proof.Machine
end

section
/-! The logic, shifts, rotates, minima and maxima of the ALU with a memory operand (O23), and its products and quotients (O24):
the results of Table 4-2 (04 R71, R73, R74), and the trap of a division by zero (11 R208). -/

namespace Sys2Proof.Machine

/-! ### Shift counts, minima and maxima (04 R73) -/

theorem shiftCount_eq (v : Word) : shiftCount v = v.toNat % 64 := by
  simp [shiftCount]

/-- Of two equal operands either is the lesser and the greater: the model's strictness and that of Table 4-2 agree. -/
theorem min_signed (a x : Word) : (if a.toInt ≤ x.toInt then a else x) = if a.slt x then a else x := by
  by_cases heq : a = x
  · simp [heq]
  · have hne : a.toInt ≠ x.toInt := fun e => heq (BitVec.eq_of_toInt_eq e)
    simp only [BitVec.slt_iff_toInt_lt, Int.lt_iff_le_and_ne, hne, ne_eq, not_false_eq_true, and_true]

theorem max_signed (a x : Word) : (if x.toInt ≤ a.toInt then a else x) = if a.slt x then x else a := by
  simp only [BitVec.slt_iff_toInt_lt, ← Int.not_lt, ite_not]

theorem min_unsigned (a v : Word) : (if a.toNat ≤ v.toNat then a else v) = if a < v then a else v := by
  by_cases heq : a = v
  · simp [heq]
  · have hne : a.toNat ≠ v.toNat := fun e => heq (BitVec.eq_of_toNat_eq e)
    simp only [BitVec.lt_def, Nat.lt_iff_le_and_ne, hne, ne_eq, not_false_eq_true, and_true]

theorem max_unsigned (a v : Word) : (if v.toNat ≤ a.toNat then a else v) = if a < v then v else a := by
  simp only [BitVec.lt_def, ← Nat.not_lt, ite_not]

/-- Settles O23: the operand is read, and the result of each function is that of Table 4-2, its count taken modulo 64. -/
theorem aluOnMemoryLogicAndShifts : Obligations.AluOnMemoryLogicAndShifts := by
  intro s z m v h
  dsimp only [exec]
  rw [← shiftCount_eq]
  exact ⟨aluMem_result h rfl, aluMem_result h rfl, aluMem_result h rfl, aluMem_result h rfl,
    aluMem_result h rfl, aluMem_result h rfl, aluMem_result h rfl, aluMem_result h rfl, aluMem_result h rfl,
    aluMem_result h (congrArg plainRes (min_signed ..)), aluMem_result h (congrArg plainRes (max_signed ..)),
    aluMem_result h (congrArg plainRes (min_unsigned ..)), aluMem_result h (congrArg plainRes (max_unsigned ..)),
    aluMemCmp_result h rfl⟩

/-! ### Products and quotients (04 Table 4-2) -/

theorem mulRes_eq (a x : Word) : mulRes a x = { val := a * x, v := some (overflows (a.toInt * x.toInt)) } := by
  rw [mulRes, outside64_eq_overflows]

theorem beq_intMin (a : Word) : (a == BitVec.intMin 64) = decide (a.toInt = -2 ^ 63) := by
  have hiff : a = BitVec.intMin 64 ↔ a.toInt = -2 ^ 63 := BitVec.toInt_inj.symm
  rw [beq_eq_decide, decide_eq_decide]
  exact hiff

theorem beq_allOnes (a : Word) : (a == BitVec.allOnes 64) = decide (a.toInt = -1) := by
  have hiff : a = BitVec.allOnes 64 ↔ a.toInt = -1 := BitVec.toInt_inj.symm
  rw [beq_eq_decide, decide_eq_decide]
  exact hiff

/-- The one quotient outside INT64 is that of the most negative value by -1. -/
theorem divOverflow_eq (a x : Word) : divOverflow a x = decide (a.toInt = -2 ^ 63 ∧ x.toInt = -1) := by
  rw [divOverflow, beq_intMin, beq_allOnes, Bool.decide_and]

theorem divRes_eq (a x : Word) : divRes a x = { val := a.sdiv x, v := some (decide (a.toInt = -2 ^ 63 ∧ x.toInt = -1)) } := by
  have hval : BitVec.ofInt 64 (a.toInt.tdiv x.toInt) = a.sdiv x := BitVec.eq_of_toInt_eq <| by
    rw [BitVec.toInt_ofInt, BitVec.toInt_sdiv]
  rw [divRes, hval, divOverflow_eq]

theorem remRes_eq (a x : Word) : remRes a x = { val := a.srem x, v := some (decide (a.toInt = -2 ^ 63 ∧ x.toInt = -1)) } := by
  rw [remRes, ← BitVec.toInt_srem, BitVec.ofInt_toInt, divOverflow_eq]

theorem divuRes_eq (a v : Word) : divuRes a v = { val := a / v, v := some false } := by
  have hval : BitVec.ofNat 64 (a.toNat / v.toNat) = a / v := by
    rw [← BitVec.toNat_udiv, BitVec.ofNat_toNat, BitVec.setWidth_eq]
  rw [divuRes, hval]

theorem remuRes_eq (a v : Word) : remuRes a v = { val := a % v, v := some false } := by
  have hval : BitVec.ofNat 64 (a.toNat % v.toNat) = a % v := by
    rw [← BitVec.toNat_umod, BitVec.ofNat_toNat, BitVec.setWidth_eq]
  rw [remuRes, hval]

section
variable {s : State} {z : Size} {m : MemOp 12} {v : Word} (h : s.lOperand false z m v)
include h

theorem aluMemDiv_result (hv : v ≠ 0) {i : Instr} {sx : Bool} {f : Word → Word → Res} {r : Res}
    (hr : f (s.afterL z m).a (extend sx z v) = r) :
    aluMemDiv i sx z m s f = .next (s.setMe ((s.afterL z m).setRes r).advance) := by
  subst hr
  unfold aluMemDiv
  rw [operand_of_lOperand h, if_neg (by simpa using hv)]
  rfl

/-- A division by an operand that reads as 0 traps with A in TVAL; the read alone has been noted (04 R74, 01 R21). -/
theorem aluMemDiv_divz (hv : v = 0) (i : Instr) (sx : Bool) (f : Word → Word → Res) :
    aluMemDiv i sx z m s f = .next ((s.setMe (s.me.noteRange (eaOf m s.me))).takeTrap s.k s.c
      { tpc := s.me.pc, cause := causeDivz, addr := (eaOf m s.me).setWidth 64, val := s.me.a }) := by
  unfold aluMemDiv
  rw [operand_of_lOperand h, if_pos (by simpa using hv), State.afterL_a]
  rfl

theorem exec_division_divz (hv : v = 0) : ∀ i ∈ [Instr.div z m, .divu z m, .rem z m, .remu z m],
    exec i s = .next ((s.setMe (s.me.noteRange (eaOf m s.me))).takeTrap s.k s.c
      { tpc := s.me.pc, cause := causeDivz, addr := (eaOf m s.me).setWidth 64, val := s.me.a }) := by
  simp only [List.forall_mem_cons, List.not_mem_nil, false_imp_iff, implies_true, and_true]
  dsimp only [exec]
  have divz := aluMemDiv_divz h hv
  exact ⟨divz .., divz .., divz .., divz ..⟩

end

/-! ### The entry into a handler (11 R208) -/

/-- A doubleword of the low 4 KiB of L space goes to the unpoisoned bank in slot 0. -/
theorem State.lWrite_slot0 {s : State} {k ea : Nat} (hea : ea < 0x1000) (ha : (s.slot k 0).state = .attached)
    (hp : (s.bank (clusOf k) (s.slot k 0).bank).poison = 0) (v : Word) :
    ∃ x : Bank, x.poison = 0 ∧
      s.lWrite k false (BitVec.ofNat 48 ea) 8 v = .ok (s.setBank (clusOf k) (s.slot k 0).bank x) := by
  have hout : outOfRange (BitVec.ofNat 48 ea) = false := by
    simp [outOfRange]
    omega
  have hslot : slotOfAddr (BitVec.ofNat 48 ea) = 0 := by
    simp [slotOfAddr, Nat.shiftRight_eq_div_pow]
    omega
  have hbank : s.lBank k false (BitVec.ofNat 48 ea) = .ok (s.slot k 0).bank := by
    rw [State.lBank_attached, hslot]
    rwa [hslot]
  have hclean (g : Nat) : (s.bank (clusOf k) (s.slot k 0).bank).isPoison g = false := by simp [Bank.isPoison, hp]
  unfold State.lWrite
  rw [if_neg (by simp [hout]), hbank]
  simp only [hclean, Bool.false_eq_true, if_false]
  exact ⟨_, show (Bank.setGranule ..).poison = 0 from hp, rfl⟩

/-- Frame writes within the low 4 KiB succeed and change banks alone. -/
theorem State.frameWrites_slot0 {k : Nat} (l : List (Nat × Word)) (hl : ∀ e ∈ l, e.1 < 0x1000) {s : State}
    (ha : (s.slot k 0).state = .attached) (hp : (s.bank (clusOf k) (s.slot k 0).bank).poison = 0) :
    ∃ cl, s.frameWrites k l = ({ s with clusters := cl }, none) := by
  induction l generalizing s with
  | nil => exact ⟨_, rfl⟩
  | cons e l ih =>
    obtain ⟨ea, v⟩ := e
    obtain ⟨hea, hrest⟩ := List.forall_mem_cons.mp hl
    obtain ⟨x, hx, hw⟩ := State.lWrite_slot0 hea ha hp v
    obtain ⟨cl, hcl⟩ := ih hrest (s := s.setBank (clusOf k) (s.slot k 0).bank x) ha (by simpa using hx)
    refine ⟨cl, ?_⟩
    unfold State.frameWrites
    rw [hw]
    exact hcl

/-- A context whose frame is ready enters its handler with the record of the trap; but for that, banks alone change. -/
theorem State.takeTrap_enters {s : State} {k c : Nat} (h : s.frameReady k c) (r : Rec) :
    ∃ cl, s.takeTrap k c r = ({ s.setCtx k c ((s.ctx k c).record r) with clusters := cl }).setCtx k c
      (((s.ctx k c).record r).enter (c * 0x170) (s.core k).tvec) := by
  obtain ⟨hc, hguest, htrp, hflw, ha, hp⟩ := h
  let y := (s.ctx k c).record r
  let s1 := s.setCtx k c y
  obtain ⟨cl, hcl⟩ := State.frameWrites_slot0 (s := s1) (k := k)
    [(c * 0x170, (s.ctx k c).a), (c * 0x170 + 8, (s.ctx k c).st), (c * 0x170 + 16, (s.ctx k c).ptr 6),
      (c * 0x170 + 24, (s.ctx k c).ptr 7)] (by simp; omega) (by simpa [s1] using ha) (by simpa [s1] using hp)
  have hctx : ({ s1 with clusters := cl } : State).ctx k c = y := s.setCtx_ctx_self k c y
  have htvec : (({ s1 with clusters := cl } : State).core k).tvec = (s.core k).tvec :=
    (congrArg Core.tvec (s.setCtx_core k c k y) :)
  have hfits : ¬ (c * 0x170 % 8 != 0 || decide (0x1000 < c * 0x170 + 32)) = true := by simp; omega
  refine ⟨cl, ?_⟩
  unfold State.takeTrap State.bringHome
  simp only [hguest, hflw, htrp, frameAddr, Bool.false_and, Bool.false_eq_true, if_false]
  rw [if_neg hfits, hcl]
  dsimp only
  rw [hctx, htvec]

/-- A context in which an instruction issues that is not admitted in a flow phase is in none (02 R48). -/
theorem State.not_flow_of_bars {s : State} {m : Adm} (hm : m.flow = false) (h : s.bars m = none) : s.me.flag stFLW = false := by
  cases hflw : s.me.flag stFLW with
  | false => rfl
  | true =>
    simp only [State.bars, hm, hflw, Bool.not_false, Bool.and_true, if_true] at h
    split at h <;> cases h

theorem State.not_flow_of_lOperand {s : State} {z : Size} {m : MemOp 12} {v : Word} (h : s.lOperand false z m v) :
    s.me.flag stFLW = false := by
  obtain ⟨⟨hbars, -⟩, -, -⟩ := h
  exact State.not_flow_of_bars rfl hbars

/-- The executing context with its frame ready, once an out-of-range address has been noted. -/
theorem State.frameReady_noteRange {s : State} (ea : Addr) (h : s.frameReady s.k s.c) :
    (s.setMe (s.me.noteRange ea)).frameReady s.k s.c := by
  obtain ⟨hc, hguest, htrp, hflw, ha, hp⟩ := h
  have hctx : (s.setMe (s.me.noteRange ea)).ctx s.k s.c = s.me.noteRange ea := s.setMe_me _
  have hframe := s.me.noteRange_frame ea
  refine ⟨hc, ?_, ?_, ?_, by rwa [State.setMe_slot], by rwa [State.setMe_slot, State.setMe_bank]⟩
  all_goals rw [hctx]
  · exact (congrArg Ctx.guest hframe :).trans hguest
  · exact (congrArg (Ctx.flag · stTRP) hframe :).trans htrp
  · exact (congrArg (Ctx.flag · stFLW) hframe :).trans hflw

/-- Settles O24: each quotient is that of Table 4-2, and a zero operand enters the handler with the record of DIVZ. -/
theorem aluOnMemoryProducts : Obligations.AluOnMemoryProducts := by
  refine ⟨fun s z m v h => ?_, fun s z m i hi h hc hguest htrp ha hp => ?_⟩
  · dsimp only [exec]
    exact ⟨aluMem_result h (mulRes_eq ..), aluMem_result h rfl, aluMem_result h rfl, fun hv =>
      ⟨aluMemDiv_result h hv (divRes_eq ..), aluMemDiv_result h hv (remRes_eq ..), aluMemDiv_result h hv (divuRes_eq ..),
        aluMemDiv_result h hv (remuRes_eq ..)⟩⟩
  · have hflw : s.me.flag stFLW = false := State.not_flow_of_lOperand h
    have hready := State.frameReady_noteRange (eaOf m s.me) ⟨hc, hguest, htrp, hflw, ha, hp⟩
    let r : Rec := { tpc := s.me.pc, cause := causeDivz, addr := (eaOf m s.me).setWidth 64, val := s.me.a }
    let s1 := s.setMe (s.me.noteRange (eaOf m s.me))
    obtain ⟨cl, htrap⟩ := State.takeTrap_enters hready r
    have hme : (s1.takeTrap s.k s.c r).me =
        ((s.me.noteRange (eaOf m s.me)).record r).enter (s.c * 0x170) (s1.core s.k).tvec := by
      rw [htrap]
      exact (State.setCtx_ctx_self ..).trans (congrArg (fun y : Ctx => (y.record r).enter _ _) (s.setMe_me _))
    have hkeeps := s.me.noteRange_frame (eaOf m s.me)
    refine ⟨_, exec_division_divz h rfl i hi, ?_⟩
    rw [hme]
    refine ⟨rfl, BitVec.or_zero, rfl, rfl, (congrArg Ctx.a hkeeps :), fun p hp => ?_⟩
    exact (Ctx.setPtr_ptr_ne ((s.me.noteRange (eaOf m s.me)).record r) _ hp).trans (congrArg (Ctx.ptr · p) hkeeps :)

end Sys2Proof.Machine
end

section
/-! The ALU on an immediate and on A alone (O25, O26): the results of Tables 4-3 and 4-4 (04 R75, R76). -/

namespace Sys2Proof.Machine

/-! ### Instructions on registers alone -/

/-- What is admitted outside flow phases alone issues under either admission. -/
theorem State.issues_admR {s : State} (h : s.issues {}) (flow : Bool) : s.issues (admR flow) := by
  obtain ⟨hbars, hhold⟩ := h
  have hflw := State.not_flow_of_bars rfl hbars
  refine ⟨hbars ▸ ?_, hhold⟩
  simp [State.bars, admR, hflw]

section
variable {s : State} (h : s.issues {})
include h

theorem regOp_retires {i : Instr} {flow : Bool} {f : Ctx → Ctx} :
    regOp i (admR flow) s f = .next (s.setMe (f s.me).advance) :=
  run_issues _ _ _ _ _ (State.issues_admR h flow)

theorem regOp_result {i : Instr} {flow : Bool} {f : Ctx → Res} {r : Res} (hr : f s.me = r) :
    regOp i (admR flow) s (fun y => y.setRes (f y)) = .next (s.setMe (s.me.setRes r).advance) := by
  subst hr
  exact regOp_retires h

theorem regOp_compares {i : Instr} {flow : Bool} {f : Ctx → Res} {r : Res} (hr : f s.me = r) :
    regOp i (admR flow) s (fun y => y.setCmp (f y)) = .next (s.setMe (s.me.setCmp r).advance) := by
  subst hr
  exact regOp_retires h

theorem unary_result {i : Instr} {f : Word → Res} {r : Res} (hr : f s.me.a = r) :
    unary i s f = .next (s.setMe (s.me.setRes r).advance) :=
  regOp_result h hr

end

/-! ### Immediate functions (04 Table 4-3) -/

/-- The sum of 64-bit values clamped to INT64 (04 Table 4-3, `ADDSI`). -/
theorem addsRes_64 (a x : Word) : addsRes 64 a x =
    { val := BitVec.ofInt 64 (max (-2 ^ 63) (min (2 ^ 63 - 1) (a.toInt + x.toInt))), v := some (overflows (a.toInt + x.toInt)),
      sat := overflows (a.toInt + x.toInt) } := by
  have hlow : lowInt a 64 = a.toInt := congrArg BitVec.toInt (BitVec.setWidth_eq a)
  rw [addsRes, hlow]
  exact satRes_eq (neg_two_pow_le 63) _

/-- Settles O25: an immediate function issues, and its result is that of Table 4-3. -/
theorem immediateAlu : Obligations.ImmediateAlu := by
  intro s i k h
  dsimp only [exec]
  exact ⟨regOp_result h (addRes_false ..), regOp_result h (addsRes_64 ..), regOp_result h (subRes_false ..),
    regOp_result h (mulRes_eq ..), regOp_result h rfl, regOp_result h rfl, regOp_result h rfl, regOp_result h rfl,
    regOp_result h rfl, regOp_result h rfl, regOp_result h rfl, regOp_compares h (subRes_false ..), regOp_compares h rfl,
    regOp_retires h, regOp_retires h⟩

/-! ### Negation and absolute value (04 Table 4-4) -/

theorem negRes_eq (a : Word) :
    negRes a = { val := -a, c := some (decide (a = 0)), v := some (decide (a.toInt = -2 ^ 63)) } := by
  rw [negRes, beq_intMin, beq_eq_decide]

theorem absRes_eq (a : Word) :
    absRes a = { val := if a.toInt < 0 then -a else a, v := some (decide (a.toInt = -2 ^ 63)) } := by
  simp only [absRes, beq_intMin, BitVec.msb_eq_toInt, decide_eq_true_eq]

/-- A value of at least -2^63 that can leave INT64 at 2^63 alone is clamped from above. -/
theorem satRes_above {x : Int} (hlo : -2 ^ 63 ≤ x) (hhi : x ≤ 2 ^ 63) : satRes (-2 ^ 63) (2 ^ 63 - 1) x =
    { val := BitVec.ofInt 64 (min (2 ^ 63 - 1) x), v := some (decide (x = 2 ^ 63)), sat := decide (x = 2 ^ 63) } := by
  have hmax : max (-2 ^ 63) (min (2 ^ 63 - 1) x) = min (2 ^ 63 - 1) x := by omega
  have hout : (x < -2 ^ 63 ∨ 2 ^ 63 - 1 < x) ↔ x = 2 ^ 63 := by omega
  rw [satRes_eq (by decide)]
  simp only [hmax, hout]

theorem negsRes_eq (a : Word) : negsRes a =
    { val := BitVec.ofInt 64 (min (2 ^ 63 - 1) (-a.toInt)), v := some (decide (a.toInt = -2 ^ 63)),
      sat := decide (a.toInt = -2 ^ 63) } := by
  have hle := BitVec.le_toInt a
  have hlt := BitVec.toInt_lt (x := a)
  have hout : -a.toInt = 2 ^ 63 ↔ a.toInt = -2 ^ 63 := by omega
  rw [negsRes, satRes_above (by omega) (by omega)]
  simp only [hout]

theorem abssRes_eq (a : Word) : abssRes a =
    { val := BitVec.ofInt 64 (min (2 ^ 63 - 1) a.toInt.natAbs), v := some (decide (a.toInt = -2 ^ 63)),
      sat := decide (a.toInt = -2 ^ 63) } := by
  have hle := BitVec.le_toInt a
  have hlt := BitVec.toInt_lt (x := a)
  have hout : (a.toInt.natAbs : Int) = 2 ^ 63 ↔ a.toInt = -2 ^ 63 := by omega
  rw [abssRes, satRes_above (by omega) (by omega)]
  simp only [hout]

/-! ### Counts of bits (04 Table 4-4) -/

/-- Of the low `n` bits the highest `clzGo a n` are zeros, and the next, if there is one, is a one. -/
theorem clzGo_spec (a : Word) (n : Nat) : clzGo a n ≤ n ∧ (∀ j, n - clzGo a n ≤ j → j < n → a.getLsbD j = false) ∧
    (clzGo a n < n → a.getLsbD (n - 1 - clzGo a n) = true) := by
  induction n with
  | zero => simp [clzGo]
  | succ n ih =>
    obtain ⟨hle, hzeros, hone⟩ := ih
    unfold clzGo
    split
    next hbit => exact ⟨by omega, fun j _ _ => by omega, fun _ => by simpa using hbit⟩
    next hbit =>
      refine ⟨by omega, fun j h1 h2 => ?_, fun h1 => ?_⟩
      · obtain rfl | hj := Nat.eq_or_lt_of_le (Nat.le_of_lt_succ h2)
        · simpa using hbit
        · exact hzeros j (by omega) hj
      · rw [show n + 1 - 1 - (1 + clzGo a n) = n - 1 - clzGo a n by omega]
        exact hone (by omega)

/-- Of the high `n` bits the lowest `ctzGo a n` are zeros, and the next, if there is one, is a one. -/
theorem ctzGo_spec (a : Word) (n : Nat) (hn : n ≤ 64) : ctzGo a n ≤ n ∧
    (∀ j, 64 - n ≤ j → j < 64 - n + ctzGo a n → a.getLsbD j = false) ∧
    (ctzGo a n < n → a.getLsbD (64 - n + ctzGo a n) = true) := by
  induction n with
  | zero => exact ⟨le_rfl, fun j h1 h2 => absurd (h1.trans_lt h2) (lt_irrefl _), fun h => absurd h (lt_irrefl _)⟩
  | succ n ih =>
    obtain ⟨hle, hzeros, hone⟩ := ih (by omega)
    unfold ctzGo
    rw [show 63 - n = 64 - (n + 1) by omega]
    split
    next hbit => exact ⟨by omega, fun j _ _ => by omega, fun _ => by simpa using hbit⟩
    next hbit =>
      refine ⟨by omega, fun j h1 h2 => ?_, fun h1 => ?_⟩
      · obtain rfl | hj := Nat.eq_or_lt_of_le h1
        · simpa using hbit
        · exact hzeros j (by omega) (by omega)
      · rw [show 64 - (n + 1) + (1 + ctzGo a n) = 64 - n + ctzGo a n by omega]
        exact hone (by omega)

theorem toNat_lt_of_clz (a : Word) : a.toNat < 2 ^ (64 - clzGo a 64) := by
  obtain ⟨-, hzeros, -⟩ := clzGo_spec a 64
  refine Nat.lt_pow_two_of_testBit _ fun j hj => ?_
  obtain h64 | h64 := Nat.lt_or_ge j 64
  · exact hzeros j hj h64
  · exact BitVec.getLsbD_of_ge a j h64

theorem toNat_mod_of_ctz (a : Word) : a.toNat % 2 ^ ctzGo a 64 = 0 := by
  obtain ⟨-, hzeros, -⟩ := ctzGo_spec a 64 le_rfl
  refine Nat.eq_of_testBit_eq fun j => ?_
  rw [Nat.testBit_mod_two_pow, Nat.zero_testBit]
  obtain hj | hj := Nat.lt_or_ge j (ctzGo a 64)
  · rw [show a.toNat.testBit j = false from hzeros j (by omega) (by omega), Bool.and_false]
  · rw [decide_eq_false (by omega), Bool.false_and]

theorem popGo_eq (a : Word) (n : Nat) : popGo a n = (List.range n).countP fun j => a.getLsbD j := by
  induction n with
  | zero => rfl
  | succ n ih =>
    rw [popGo, List.range_succ, List.countP_append, ih, Nat.add_comm]
    cases hbit : a.getLsbD n <;> simp [bitNat, hbit]

/-! ### Bytes and extensions (04 Table 4-4) -/

theorem getLsbD_append_byte_low {n : Nat} (x : BitVec n) (y : BitVec 8) {r : Nat} (hr : r < 8) :
    (x ++ y).getLsbD r = y.getLsbD r := by
  rw [BitVec.getLsbD_append, if_pos hr]

theorem getLsbD_append_byte_high {n : Nat} (x : BitVec n) (y : BitVec 8) (q r : Nat) :
    (x ++ y).getLsbD (8 * (q + 1) + r) = x.getLsbD (8 * q + r) := by
  rw [BitVec.getLsbD_append, if_neg (by omega), show 8 * (q + 1) + r - 8 = 8 * q + r by omega]

/-- Byte `j / 8` of the swapped value is byte `7 - j / 8`. -/
theorem swapBytes_getLsbD (a : Word) {j : Nat} (hj : j < 64) :
    (swapBytes a).getLsbD j = a.getLsbD (8 * (7 - j / 8) + j % 8) := by
  obtain ⟨q, r, hr, rfl⟩ : ∃ q r, r < 8 ∧ j = 8 * q + r := ⟨j / 8, j % 8, by omega, by omega⟩
  have hq : q < 8 := by omega
  rw [show (8 * q + r) / 8 = q by omega, show (8 * q + r) % 8 = r by omega]
  show BitVec.getLsbD (w := 8 + 8 + 8 + 8 + 8 + 8 + 8 + 8) (bits a 0 8 ++ bits a 8 8 ++ bits a 16 8 ++ bits a 24 8 ++
    bits a 32 8 ++ bits a 40 8 ++ bits a 48 8 ++ bits a 56 8) _ = _
  interval_cases q
  all_goals
    simp only [getLsbD_append_byte_high, Nat.mul_zero, Nat.zero_add, getLsbD_append_byte_low _ _ hr]
    simp [hr]

theorem bits_low (a : Word) {n : Nat} (hn : n ≤ 64) : bits a 0 n = a.setWidth n := (BitVec.setWidth_eq_extractLsb' hn).symm

theorem signExtend_bits (a : Word) {n : Nat} (hn : n ≤ 64) :
    (bits a 0 n).signExtend 64 = BitVec.ofInt 64 (a.setWidth n).toInt := by
  rw [bits_low a hn]
  rfl

/-- The low `n` bits, the others cleared. -/
theorem setWidth_bits (a : Word) {n : Nat} (hn : n ≤ 64) :
    (bits a 0 n).setWidth 64 = a &&& BitVec.ofNat 64 (2 ^ n - 1) := by
  have hmask : 2 ^ n - 1 < 2 ^ 64 := by
    have := Nat.pow_le_pow_right (n := 2) (by decide) hn
    omega
  apply BitVec.eq_of_toNat_eq
  rw [BitVec.toNat_setWidth, BitVec.extractLsb'_toNat, BitVec.toNat_and, BitVec.toNat_ofNat, Nat.mod_eq_of_lt hmask,
    Nat.and_two_pow_sub_one_eq_mod, Nat.shiftRight_zero]
  exact Nat.mod_eq_of_lt ((Nat.mod_lt _ (Nat.two_pow_pos n)).trans_le (Nat.pow_le_pow_right (by decide) hn))

/-- Settles O26: a unary function issues, and its result is that of Table 4-4. -/
theorem unaryFunctions : Obligations.UnaryFunctions := by
  intro s h
  dsimp only [exec]
  obtain ⟨hclz, -, hclzOne⟩ := clzGo_spec s.me.a 64
  obtain ⟨hctz, -, hctzOne⟩ := ctzGo_spec s.me.a 64 le_rfl
  exact ⟨unary_result h rfl, unary_result h (negRes_eq _), unary_result h (absRes_eq _), unary_result h (negsRes_eq _),
    unary_result h (abssRes_eq _), ⟨_, unary_result h rfl, hclz, toNat_lt_of_clz _, hclzOne⟩,
    ⟨_, unary_result h rfl, hctz, toNat_mod_of_ctz _, fun hlt => by simpa using hctzOne hlt⟩,
    unary_result h (congrArg (fun n => plainRes (BitVec.ofNat 64 n)) (popGo_eq ..)),
    ⟨_, unary_result h rfl, fun _ hj => swapBytes_getLsbD _ hj⟩,
    unary_result h (congrArg plainRes (signExtend_bits _ (by decide))),
    unary_result h (congrArg plainRes (signExtend_bits _ (by decide))),
    unary_result h (congrArg plainRes (signExtend_bits _ (by decide))),
    unary_result h (congrArg plainRes (setWidth_bits _ (by decide))),
    unary_result h (congrArg plainRes (setWidth_bits _ (by decide))),
    unary_result h (congrArg plainRes (setWidth_bits _ (by decide)))⟩

end Sys2Proof.Machine
end

section
/-! Pointers and control transfers (O27, O28, O29): the pointer functions of Table 4-7 (04 R80), branches, calls, jumps and
loops (04 R81 to R84). -/

namespace Sys2Proof.Machine

/-! ### Pointer images (01 R17, Table 1-2) -/

theorem pointer_addrOf (i : BitVec 16) (x : Word) :
    pointer i (addrOf x) = (i.setWidth 64 <<< 48) ||| (x &&& 0xFFFFFFFFFFFF) :=
  calc pointer i (addrOf x)
      = (i ++ addrOf x).setWidth 64 := (BitVec.setWidth_eq (pointer i (addrOf x))).symm
    _ = (i.setWidth 64 <<< 48) ||| (addrOf x).setWidth 64 := BitVec.setWidth_append_eq_shiftLeft_setWidth_or
    _ = (i.setWidth 64 <<< 48) ||| (x &&& 0xFFFFFFFFFFFF) := by
      rw [addrOf, ← bits_low x (n := 48) (by decide), setWidth_bits x (by decide)]
      rfl

/-- The stride field of an image, the address cleared. -/
theorem strideField_eq (w : Word) : (bits w 48 16).setWidth 64 <<< 48 = w &&& 0xFFFF000000000000 :=
  calc (bits w 48 16).setWidth 64 <<< 48
      = bits w 48 16 ++ 0#48 := by simpa [addrOf, pointer] using (pointer_addrOf (bits w 48 16) 0).symm
    _ = (bits w 48 16 ++ bits w 0 48) &&& (BitVec.allOnes 16 ++ 0#48) := by
      rw [BitVec.and_append, BitVec.and_allOnes, BitVec.and_zero]
    _ = w &&& 0xFFFF000000000000 := by
      rw [bits_append_bits w (by decide), bits_self]
      rfl

theorem withAddr_addrOf (w x : Word) :
    withAddr w (addrOf x) = (w &&& 0xFFFF000000000000) ||| (x &&& 0xFFFFFFFFFFFF) := by
  rw [← strideField_eq]
  exact pointer_addrOf (bits w 48 16) x

theorem addrOf_add (x y : Word) : addrOf (x + y) = addrOf x + addrOf y := BitVec.setWidth_add x y (by decide)

theorem addrOf_sub (x y : Word) : addrOf (x - y) = addrOf x - addrOf y := by
  apply BitVec.eq_of_toNat_eq
  simp only [addrOf, BitVec.toNat_setWidth, BitVec.toNat_sub]
  omega

theorem addrOf_signExtend (i : BitVec 16) : addrOf (i.signExtend 64) = i.signExtend 48 := by
  ext j hj
  have h64 : j < 64 := by omega
  simp only [addrOf, BitVec.getElem_setWidth, BitVec.getLsbD_signExtend, BitVec.getElem_signExtend, h64, decide_true,
    Bool.true_and]
  split <;> rfl

/-- Settles O27: a pointer function issues, and the image it writes is that of Table 4-7. -/
theorem pointerFunctions : Obligations.PointerFunctions := by
  intro s n m i h
  dsimp only [exec]
  simp only [← withAddr_addrOf, ← pointer_addrOf, addrOf_add, addrOf_signExtend]
  exact ⟨regOp_retires h, regOp_retires h, regOp_retires h, regOp_retires h, regOp_retires h, regOp_retires h, _,
    congrArg (BitVec.signExtend 64) (addrOf_sub ..).symm, regOp_retires h⟩

/-! ### Control transfers -/

/-- To go on to the next instruction is to go to PC + 4. -/
theorem Ctx.goto_or_advance (p : Prop) [Decidable p] (y : Ctx) (t : Addr) :
    (if p then y.goto t else y.advance) = y.goto (if p then t else y.pc + 4) := by
  split <;> rfl

theorem Ctx.advance_or_goto (p : Prop) [Decidable p] (y : Ctx) (t : Addr) :
    (if p then y.advance else y.goto t) = y.goto (if p then y.pc + 4 else t) := by
  split <;> rfl

@[simp] theorem Ctx.setLc_pc (y : Ctx) (k : Bool) (v : BitVec 16) : (y.setLc k v).pc = y.pc := by cases k <;> rfl

theorem transfer_barred {s : State} {i : Instr} {adm : Adm} {f : Ctx → Ctx} {c : Byte} (h : s.bars adm = some c) :
    transfer i adm s f =
      .next (s.takeTrap s.k s.c { tpc := s.me.pc, cause := c, addr := s.me.pc.setWidth 64, val := wordOf i }) :=
  run_not_admitted _ _ _ _ _ _ h

section
variable {s : State} (h : s.issues {})
include h

theorem transfer_result {i : Instr} {flow : Bool} {f : Ctx → Ctx} {y : Ctx} (hy : f s.me = y) :
    transfer i (admR flow) s f = .next (s.setMe y) := by
  subst hy
  exact run_issues _ _ _ _ _ (State.issues_admR h flow)

theorem jump_aligned {i : Instr} {t : Ctx → Addr} (ht : bits (t s.me) 0 2 = 0) :
    jump i s t = .next (s.setMe (s.me.goto (t s.me))) := by
  unfold jump
  rw [run_issues _ _ _ _ _ (State.issues_admR h false), if_pos ht]
  rfl

end

/-- Settles O28: a call issues outside flow phases alone. -/
theorem callWritesP7AndBranches : Obligations.CallWritesP7AndBranches := by
  refine ⟨fun s o h => ?_, fun s o hflw => ?_, fun o => rfl⟩
  · dsimp only [exec]
    exact transfer_result h (congrArg (fun t => (s.me.setPtr 7 ((s.me.pc + 4).setWidth 64)).goto t) (s.me.target_eq o))
  · have hbars : s.bars (admR false) = some causeIllctx := by simp [State.bars, admR, hflw]
    dsimp only [exec]
    exact transfer_barred hbars

/-- Settles O29: each transfer issues; its target and its condition are those of 04 R81 to R84. -/
theorem branchesJumpsAndLoops : Obligations.BranchesJumpsAndLoops := by
  intro s c o d n k h y jump Z N C V Q holds lc back setLc
  have hholds : condHolds c y.st = holds := by cases c <;> rfl
  have hlast : y.lc k - 1 = 0 ↔ lc = 1 := sub_eq_zero
  have hback : y.target d = back := y.target_eq d
  have hpc (v : BitVec 16) : (y.setLc k v).pc = y.pc := y.setLc_pc k v
  dsimp only [exec]
  refine ⟨transfer_result h ?_, fun ht => jump_aligned h ht, fun ht => jump_aligned h ht, transfer_result h ?_,
    transfer_result h ?_⟩
  · rw [Ctx.goto_or_advance, hholds, Ctx.target_eq]
    rfl
  · dsimp only
    rw [Ctx.goto_or_advance, hback, hpc]
    rfl
  · dsimp only
    rw [Ctx.advance_or_goto, hback, hpc, if_congr hlast rfl rfl]
    rfl

end Sys2Proof.Machine
end

section
/-! Scalar floating point (O30): the operand A[31:0] (01 R16), the functions of Table 4-5 and the order flags of Table 4-6
(04 R77 to R79). -/

namespace Sys2Proof.Machine

/-- A[31:0] read as FP32 (01 R16). -/
theorem fpA_eq (y : Ctx) : fpA y = FFmt.unpack .f32 (y.a.toNat % 2 ^ 32) := by
  rw [fpA, BitVec.extractLsb'_toNat, Nat.shiftRight_zero]

theorem toInt_lowWord (v : Word) : (bits v 0 32).toInt = (v.setWidth 32).toInt := by
  rw [bits_low v (by decide)]

/-- A float function whose operand can be read writes one image to A. -/
theorem fpu_result {s : State} {z : Size} {m : MemOp 12} {v : Word} (h : s.lOperand false z m v) {i : Instr}
    {f : Rm → FVal → Word → Word} {n : Nat}
    (hn : f (s.afterL z m).rm (FFmt.unpack .f32 ((s.afterL z m).a.toNat % 2 ^ 32)) v = BitVec.ofNat 64 n) :
    fpu i z m s f = .next (s.setMe { (s.afterL z m).advance with a := BitVec.ofNat 64 n }) := by
  rw [← fpA_eq] at hn
  rw [← hn]
  exact operand_of_lOperand h i _

/-- A clamped conversion sets Q and no other flag (03 R58). -/
theorem Ctx.setQ_if (y : Ctx) (q : Bool) :
    (if q then y.setFlag stQ true else y) = { y with st := if q then putBit y.st stQ true else y.st } := by
  cases q <;> rfl

theorem execFcvti_result {s : State} {m : MemOp 12} {v : Word} (h : s.lOperand false .w m v) :
    let y := s.afterL .w m
    let r := floatToInt y.rm 32 (f32 v)
    execFcvti m s = .next (s.setMe
      { y.advance with a := BitVec.ofInt 64 r.1, st := if r.2 then putBit y.st stQ true else y.st }) := by
  intro y r
  have hrun : execFcvti m s =
      .next (s.setMe ((if r.2 then y.setFlag stQ true else y).setA (BitVec.ofInt 64 r.1)).advance) :=
    operand_of_lOperand h (.fcvti m) _
  rw [hrun, Ctx.setQ_if]
  rfl

/-! ### The order of two floats (04 Table 4-6) -/

theorem fcmpFlags_eq (o : Option Ordering) :
    fcmpFlags o = (decide (o = some .eq), decide (o = some .lt), decide (o ≠ some .lt), decide (o = none)) := by
  rcases o with _ | _ | _ | _ <;> rfl

/-- Z, N, C and V of a context replaced. -/
def Ctx.setOrder (y : Ctx) (f : Bool × Bool × Bool × Bool) : Ctx :=
  (((y.setFlag stZ f.1).setFlag stN f.2.1).setFlag stC f.2.2.1).setFlag stV f.2.2.2

@[simp] theorem Ctx.setOrder_a (y : Ctx) (f : Bool × Bool × Bool × Bool) : (y.setOrder f).a = y.a := rfl
@[simp] theorem Ctx.setOrder_pc (y : Ctx) (f : Bool × Bool × Bool × Bool) : (y.setOrder f).pc = y.pc := rfl

theorem Ctx.setFlag_flag_self (y : Ctx) {i : Nat} (b : Bool) (h : i < 64) : (y.setFlag i b).flag i = b :=
  getBit_putBit_self _ b h

theorem Ctx.setFlag_flag_ne (y : Ctx) {i j : Nat} (b : Bool) (h : j ≠ i) : (y.setFlag i b).flag j = y.flag j :=
  getBit_putBit_ne _ b h

theorem Ctx.setOrder_flags (y : Ctx) (z n c v : Bool) : (y.setOrder (z, n, c, v)).flag stZ = z ∧
    (y.setOrder (z, n, c, v)).flag stN = n ∧ (y.setOrder (z, n, c, v)).flag stC = c ∧
    (y.setOrder (z, n, c, v)).flag stV = v := by
  unfold Ctx.setOrder
  refine ⟨?_, ?_, ?_, Ctx.setFlag_flag_self _ _ (by decide)⟩
  · rw [Ctx.setFlag_flag_ne, Ctx.setFlag_flag_ne, Ctx.setFlag_flag_ne, Ctx.setFlag_flag_self] <;> decide
  · rw [Ctx.setFlag_flag_ne, Ctx.setFlag_flag_ne, Ctx.setFlag_flag_self] <;> decide
  · rw [Ctx.setFlag_flag_ne, Ctx.setFlag_flag_self] <;> decide

theorem Ctx.setOrder_flag_above (y : Ctx) (f : Bool × Bool × Bool × Bool) {i : Nat} (h : 4 ≤ i) :
    (y.setOrder f).flag i = y.flag i := by
  have hZ : i ≠ stZ := by unfold stZ; omega
  have hN : i ≠ stN := by unfold stN; omega
  have hC : i ≠ stC := by unfold stC; omega
  have hV : i ≠ stV := by unfold stV; omega
  rw [Ctx.setOrder, Ctx.setFlag_flag_ne _ _ hV, Ctx.setFlag_flag_ne _ _ hC, Ctx.setFlag_flag_ne _ _ hN,
    Ctx.setFlag_flag_ne _ _ hZ]

@[simp] theorem Ctx.advance_flag (y : Ctx) (i : Nat) : y.advance.flag i = y.flag i := rfl

/-- FCMP sets the flags of its order in the context after its operand. -/
theorem execFcmp_result {s : State} {m : MemOp 12} {v : Word} (h : s.lOperand false .w m v) :
    let o := FVal.cmp (FFmt.unpack .f32 (s.me.a.toNat % 2 ^ 32)) (FFmt.unpack .f32 v.toNat)
    execFcmp m s = .next (s.setMe ((s.afterL .w m).setOrder
      (decide (o = some .eq), decide (o = some .lt), decide (o ≠ some .lt), decide (o = none))).advance) := by
  intro o
  have ho : o = FVal.cmp (fpA (s.afterL .w m)) (f32 v) := by
    rw [fpA_eq, State.afterL_a]
    rfl
  rw [← fcmpFlags_eq, ho]
  exact operand_of_lOperand h (.fcmp m) _

/-- Settles O30: each function writes its one rounded result, and FCMP the flags of its order. -/
theorem scalarFloatingPoint : Obligations.ScalarFloatingPoint := by
  refine ⟨fun s z m v h => ⟨?_, ?_⟩, fun s m v h => ?_⟩
  · rintro rfl
    dsimp only [exec]
    exact ⟨fpu_result h rfl, fpu_result h rfl, fpu_result h rfl, fpu_result h rfl, fpu_result h rfl, fpu_result h rfl,
      fpu_result h rfl, fpu_result h rfl, fpu_result h rfl, fpu_result h rfl,
      fpu_result h (congrArg (fun i => fpOut (FFmt.pack .f32 _ (FVal.int i))) (toInt_lowWord v)), fpu_result h rfl,
      execFcvti_result h⟩
  · rintro rfl
    dsimp only [exec]
    exact ⟨fpu_result h rfl, fpu_result h rfl⟩
  · refine ⟨_, execFcmp_result h, s.setMe_leaves _, ?_⟩
    simp only [State.setMe_me, Ctx.advance_a, Ctx.advance_pc_self, Ctx.advance_flag, Ctx.setOrder_a, Ctx.setOrder_pc,
      State.afterL_a, State.afterL_pc]
    obtain ⟨hz, hn, hc, hv⟩ := (s.afterL .w m).setOrder_flags _ _ _ _
    exact ⟨trivial, trivial, hz, hn, hc, hv, fun i hi => (Ctx.setOrder_flag_above _ _ hi).trans (s.afterL_flag ..)⟩

end Sys2Proof.Machine
end

section
/-! The bytes of a bank: what an access of a granule reads and writes there (01 R29, 00 R2), and the loads and stores of L and C
space (O33). -/

namespace Sys2Proof.Machine

/-! ### Bytes of a granule (01 R29) -/

/-- Byte `i` of a granule. -/
def granuleByte (g : Granule) (i : Nat) : Byte := (g >>> (8 * i)).setWidth 8

theorem mask_getLsbD (n z i : Nat) (h : 8 * z ≤ n) : (BitVec.ofNat n (2 ^ (8 * z) - 1)).getLsbD i = decide (i < 8 * z) := by
  rw [BitVec.getLsbD_ofNat, Nat.testBit_two_pow_sub_one]
  by_cases hi : i < 8 * z
  · simp [hi]; omega
  · simp [hi]

theorem granuleRead_getLsbD (g : Granule) (o i : Nat) {z : Nat} (hz : z ≤ 8) :
    (granuleRead g o z).getLsbD i = (decide (i < 8 * z) && g.getLsbD (8 * o + i)) := by
  unfold granuleRead
  rw [BitVec.getLsbD_and, mask_getLsbD 64 z i (by omega), BitVec.getLsbD_setWidth, BitVec.getLsbD_ushiftRight]
  by_cases hi : i < 8 * z
  · simp [hi]; omega
  · simp [hi]

theorem granuleWrite_getLsbD (g : Granule) (o i : Nat) {z : Nat} (v : Word) (hz : z ≤ 8) (ho : o + z ≤ 16) :
    (granuleWrite g o z v).getLsbD i =
      if 8 * o ≤ i ∧ i < 8 * (o + z) then v.getLsbD (i - 8 * o) else g.getLsbD i := by
  unfold granuleWrite
  simp only [BitVec.getLsbD_or, BitVec.getLsbD_and, BitVec.getLsbD_not, BitVec.getLsbD_shiftLeft,
    mask_getLsbD 128 z _ (by omega), BitVec.getLsbD_setWidth]
  by_cases hin : 8 * o ≤ i ∧ i < 8 * (o + z)
  · rw [if_pos hin]
    simp [show i < 128 by omega, show ¬ i < 8 * o by omega, show i - 8 * o < 8 * z by omega, show i - 8 * o < 128 by omega]
  · rw [if_neg hin]
    by_cases hi : i < 128
    · have hout : i < 8 * o ∨ ¬ (i - 8 * o < 8 * z) := by omega
      rcases hout with h | h <;> simp [hi, h]
    · simp [BitVec.getLsbD_of_ge g i (by omega), hi]

theorem granuleByte_getLsbD (g : Granule) (i j : Nat) :
    (granuleByte g i).getLsbD j = (decide (j < 8) && g.getLsbD (8 * i + j)) := by
  rw [granuleByte, BitVec.getLsbD_setWidth, BitVec.getLsbD_ushiftRight]

theorem bits_getLsbD {n : Nat} (w : BitVec n) (lo k j : Nat) : (bits w lo k).getLsbD j = (decide (j < k) && w.getLsbD (lo + j)) :=
  BitVec.getLsbD_extractLsb' lo k w j

/-- The bytes that an access reads. -/
theorem bits_granuleRead (g : Granule) (o : Nat) {z j : Nat} (hz : z ≤ 8) (hj : j < z) :
    bits (granuleRead g o z) (8 * j) 8 = granuleByte g (o + j) := by
  apply BitVec.eq_of_getLsbD_eq
  intro i hi
  rw [bits_getLsbD, granuleRead_getLsbD _ _ _ hz, granuleByte_getLsbD, show 8 * o + (8 * j + i) = 8 * (o + j) + i by omega]
  simp [show 8 * j + i < 8 * z by omega]

/-- The bytes after a write: those of the value within it, and the old ones outside it. -/
theorem granuleByte_granuleWrite (g : Granule) {o i : Nat} {z : Nat} (v : Word) (hz : z ≤ 8) (ho : o + z ≤ 16) :
    granuleByte (granuleWrite g o z v) i = if o ≤ i ∧ i < o + z then bits v (8 * (i - o)) 8 else granuleByte g i := by
  apply BitVec.eq_of_getLsbD_eq
  intro j hj
  rw [granuleByte_getLsbD, granuleWrite_getLsbD _ _ _ _ hz ho]
  by_cases hin : o ≤ i ∧ i < o + z
  · rw [if_pos hin, if_pos (by omega), bits_getLsbD, show 8 * i + j - 8 * o = 8 * (i - o) + j by omega]
  · rw [if_neg hin, if_neg (by omega), granuleByte_getLsbD]

/-! ### Bytes of a bank -/

theorem Bank.byte_eq (b : Bank) (o : Nat) : b.byte o = granuleByte (b.granule (o / 16)) (o % 16) := rfl

theorem size_bytes_le (z : Size) : z.bytes ≤ 8 := by cases z <;> decide

/-- An offset of a bank is that of a granule and a byte in it. -/
theorem offsetOf_eq (ea : Addr) : offsetOf ea = 16 * granuleOf ea + byteInGranule ea := by
  simp only [offsetOf, granuleOf, byteInGranule, BitVec.extractLsb'_toNat, Nat.shiftRight_eq_div_pow]
  omega

/-- An aligned access lies within one granule (05 R88). -/
theorem aligned_fits {ea : Addr} {z : Size} (h : aligned ea z.bytes = true) : byteInGranule ea + z.bytes ≤ 16 := by
  have hmod : ea.toNat % z.bytes = 0 := by simpa [aligned] using h
  have hbyte : byteInGranule ea = ea.toNat % 16 := by simp [byteInGranule]
  cases z <;> simp only [Size.bytes] at hmod ⊢ <;> omega

section
variable {ea : Addr} {z : Size} (h : aligned ea z.bytes = true)
include h

theorem offset_div {j : Nat} (hj : j < z.bytes) : (offsetOf ea + j) / 16 = granuleOf ea := by
  have := aligned_fits h
  have := offsetOf_eq ea
  omega

theorem offset_mod {j : Nat} (hj : j < z.bytes) : (offsetOf ea + j) % 16 = byteInGranule ea + j := by
  have := aligned_fits h
  have := offsetOf_eq ea
  omega

theorem Bank.byte_aligned (b : Bank) {j : Nat} (hj : j < z.bytes) :
    b.byte (offsetOf ea + j) = granuleByte (b.granule (granuleOf ea)) (byteInGranule ea + j) := by
  rw [Bank.byte_eq, offset_div h hj, offset_mod h hj]

end

@[simp] theorem Bank.setGranule_granule_self (b : Bank) (g : Nat) (v : Granule) : (b.setGranule g v).granule g = v :=
  Sparse.get_putD_self ..

theorem Bank.setGranule_granule_ne (b : Bank) {g i : Nat} (v : Granule) (h : i ≠ g) : (b.setGranule g v).granule i = b.granule i :=
  Sparse.get_putD_ne _ _ _ h

/-! ### What a load holds (02 R39) -/

/-- An extended value holds the bytes of the value. -/
theorem loaded_extend {z : Size} {byte : Nat → Byte} {v : Word} (sx : Bool) (hb : ∀ j < z.bytes, bits v (8 * j) 8 = byte j)
    (hv : ∀ j, 8 * z.bytes ≤ j → v.getLsbD j = false) : Loaded z sx byte (extend sx z v) := by
  have hext (n : Nat) (hn : n ≤ 64) (h0 : 0 < n) (hsx : sx = true) (hz : 8 * z.bytes = n)
      (he : extend sx z v = (bits v 0 n).signExtend 64) : Loaded z sx byte (extend sx z v) := by
    have hlow (i : Nat) (hi : i < n) : (extend sx z v).getLsbD i = v.getLsbD i := by
      rw [he, BitVec.getLsbD_signExtend, bits_getLsbD]
      simp [hi, show i < 64 by omega]
    refine ⟨fun j hj => ?_, fun j hj h64 => ?_⟩
    · rw [← hb j hj]
      apply BitVec.eq_of_getLsbD_eq
      intro i hi
      rw [bits_getLsbD, bits_getLsbD, hlow _ (by omega)]
    · rw [hlow (8 * z.bytes - 1) (by omega), he, BitVec.getLsbD_signExtend, BitVec.msb_eq_getLsbD_last, bits_getLsbD, hz]
      simp [h64, hsx, show ¬ j < n by omega, show n - 1 < n by omega]
  have hplain (he : extend sx z v = v) (hs : sx = false ∨ z = .d) : Loaded z sx byte (extend sx z v) := by
    rw [he]
    refine ⟨hb, fun j hj h64 => ?_⟩
    rcases hs with rfl | rfl
    · rw [hv j hj, Bool.false_and]
    · simp only [Size.bytes] at hj
      omega
  cases sx with
  | false => exact hplain (by cases z <;> rfl) (.inl rfl)
  | true =>
    cases z with
    | b => exact hext 8 (by decide) (by decide) rfl rfl rfl
    | h => exact hext 16 (by decide) (by decide) rfl rfl rfl
    | w => exact hext 32 (by decide) (by decide) rfl rfl rfl
    | d => exact hplain rfl (.inr rfl)

theorem extend_zero (sx : Bool) (z : Size) : extend sx z 0 = 0 := by
  cases sx <;> cases z <;> simp [extend]

section
variable {ea : Addr} {z : Size} (h : aligned ea z.bytes = true)
include h

/-- What an aligned load of a bank leaves, extended. -/
theorem loaded_bank (b : Bank) (sx : Bool) : Loaded z sx (fun j => b.byte (offsetOf ea + j))
    (extend sx z (granuleRead (b.granule (granuleOf ea)) (byteInGranule ea) z.bytes)) := by
  have hz := size_bytes_le z
  refine loaded_extend sx (fun j hj => ?_) (fun j hj => ?_)
  · rw [bits_granuleRead _ _ hz hj, Bank.byte_aligned h b hj]
  · rw [granuleRead_getLsbD _ _ _ hz, decide_eq_false (by omega), Bool.false_and]

/-- What an aligned store of a bank changes. -/
theorem storedTo_bank (b : Bank) (v : Word) : b.storedTo
    (b.setGranule (granuleOf ea) (granuleWrite (b.granule (granuleOf ea)) (byteInGranule ea) z.bytes v))
    (offsetOf ea) z.bytes v := by
  have hz := size_bytes_le z
  have hfit := aligned_fits h
  have hoff := offsetOf_eq ea
  refine ⟨fun j hj => ?_, fun o _ ho => ?_, rfl, rfl, rfl⟩
  · rw [Bank.byte_aligned h _ hj, Bank.setGranule_granule_self, granuleByte_granuleWrite _ _ hz hfit, if_pos (by omega),
      Nat.add_sub_cancel_left]
  · rw [Bank.byte_eq, Bank.byte_eq]
    by_cases hg : o / 16 = granuleOf ea
    · rw [hg, Bank.setGranule_granule_self, granuleByte_granuleWrite _ _ hz hfit, if_neg (by omega)]
    · rw [Bank.setGranule_granule_ne _ _ hg]

end

/-! ### One bank and the executing context changed -/

/-- A write of C space that reaches an unpoisoned granule replaces its bytes. -/
theorem State.cWrite_reaches (s : State) (ea : Addr) (b z : Nat) (v : Word) (h : s.reachesC ea b) :
    s.cWrite s.k (s.vdevOf s.k s.c) ea z v = .ok (s.setBank (clusOf s.k) b ((s.bank (clusOf s.k) b).setGranule (granuleOf ea)
      (granuleWrite ((s.bank (clusOf s.k) b).granule (granuleOf ea)) (byteInGranule ea) z v))) := by
  obtain ⟨hb, hp⟩ := h
  simp [State.cWrite, hb, hp]

theorem State.setBank_cluster_banks (s : State) (cl b i : Nat) (x : Bank) :
    { (s.setBank cl b x).cluster i with banks := (s.cluster i).banks } = s.cluster i := by
  unfold State.setBank
  by_cases hi : i = cl
  · subst hi
    rw [State.setCluster_cluster_self]
    rfl
  · rw [State.setCluster_cluster_ne _ _ hi]

/-- The executing context and one bank of its cluster replaced. -/
theorem State.setBank_setMe_leaves (s : State) (b : Nat) (x : Bank) (y : Ctx) :
    let t := (s.setBank (clusOf s.k) b x).setMe y
    t.me = y ∧ s.onlyMeAndBank t b ∧ t.bank (clusOf s.k) b = x := by
  intro t
  obtain ⟨-, hcore, hctx⟩ := (s.setBank (clusOf s.k) b x).setMe_leaves y
  exact ⟨State.setMe_me _ y, ⟨rfl, fun i => s.setBank_cluster_banks _ b i x, fun cl i hne => s.setBank_bank_ne x hne, hcore, hctx⟩,
    s.setBank_bank_self _ b x⟩

/-! ### Loads and stores of one bank (05 R87, R91) -/

section
variable {s : State} {z : Size} {m : MemOp 15} {b : Nat} (ha : aligned (eaOf m s.me) z.bytes = true)
include ha

theorem exec_ldl_reads (sx : Bool) (hi : s.issues (admL true)) (h : s.reachesL (eaOf m s.me) b) :
    exec (.ldl z sx m) s = .next (s.setMe ((ptrAfter m s.me z.bytes).setA (extend sx z
      (granuleRead ((s.bank (clusOf s.k) b).granule (granuleOf (eaOf m s.me))) (byteInGranule (eaOf m s.me)) z.bytes))).advance) := by
  have hin : outOfRange (eaOf m s.me) = false := h.1
  show execLdl z sx m s = _
  unfold execLdl
  rw [run_issues _ _ _ _ _ hi]
  simp [State.aligned, ha, s.lRead_reaches _ _ _ _ h, Ctx.noteRange_inside _ _ hin]

theorem exec_stl_writes (hi : s.issues (admL true)) (h : s.reachesL (eaOf m s.me) b) :
    exec (.stl z m) s = .next ((s.setBank (clusOf s.k) b ((s.bank (clusOf s.k) b).setGranule (granuleOf (eaOf m s.me))
      (granuleWrite ((s.bank (clusOf s.k) b).granule (granuleOf (eaOf m s.me))) (byteInGranule (eaOf m s.me)) z.bytes s.me.a))).setMe
        (ptrAfter m s.me z.bytes).advance) := by
  have hin : outOfRange (eaOf m s.me) = false := h.1
  show execStl z m s = _
  unfold execStl
  rw [run_issues _ _ _ _ _ hi]
  simp [State.aligned, ha, s.lWrite_reaches _ _ _ _ _ h, Ctx.noteRange_inside _ _ hin]

/-- A store out of range is noted and stores nothing (01 R28). -/
theorem exec_stl_out (hi : s.issues (admL true)) (ho : outOfRange (eaOf m s.me) = true) :
    exec (.stl z m) s = .next (s.setMe ((ptrAfter m s.me z.bytes).noteRange (eaOf m s.me)).advance) := by
  show execStl z m s = _
  unfold execStl
  rw [run_issues _ _ _ _ _ hi]
  simp [State.aligned, ha, s.lWrite_out _ _ _ _ _ ho]

theorem exec_ldc_reads (sx : Bool) (hi : s.issues admC) (h : s.reachesC (eaOf m s.me) b) :
    exec (.ldc z sx m) s = .next (s.setMe ((ptrAfter m s.me z.bytes).setA (extend sx z
      (granuleRead ((s.bank (clusOf s.k) b).granule (granuleOf (eaOf m s.me))) (byteInGranule (eaOf m s.me)) z.bytes))).advance) := by
  show execLdc z sx m s = _
  unfold execLdc
  rw [run_issues _ _ _ _ _ hi]
  simp [State.aligned, ha, s.cRead_reaches _ _ _ h]

theorem exec_stc_writes (hi : s.issues admC) (h : s.reachesC (eaOf m s.me) b) :
    exec (.stc z m) s = .next ((s.setBank (clusOf s.k) b ((s.bank (clusOf s.k) b).setGranule (granuleOf (eaOf m s.me))
      (granuleWrite ((s.bank (clusOf s.k) b).granule (granuleOf (eaOf m s.me))) (byteInGranule (eaOf m s.me)) z.bytes s.me.a))).setMe
        (ptrAfter m s.me z.bytes).advance) := by
  show execStc z m s = _
  unfold execStc
  rw [run_issues _ _ _ _ _ hi]
  simp [State.aligned, ha, s.cWrite_reaches _ _ _ _ h]

end

/-- Settles O33: an aligned access stays within one granule of its bank, whose bytes it reads or replaces. -/
theorem bankLoadsAndStores : Obligations.BankLoadsAndStores := by
  intro s z sx m b y ea y1 cl byte ha
  have hloads := loaded_bank ha (s.bank cl b) sx
  have hstores := storedTo_bank ha (s.bank cl b) y.a
  have hleaves := s.setBank_setMe_leaves b ((s.bank cl b).setGranule (granuleOf ea)
    (granuleWrite ((s.bank cl b).granule (granuleOf ea)) (byteInGranule ea) z.bytes y.a)) y1.advance
  obtain ⟨hme, honly, hbank⟩ := hleaves
  refine ⟨fun hi ho => ⟨?_, exec_stl_out ha hi ho⟩, fun hi h => ⟨⟨_, hloads, exec_ldl_reads ha sx hi h⟩,
    _, exec_stl_writes ha hi h, hme, honly, ?_⟩, fun hi h => ⟨⟨_, hloads, exec_ldc_reads ha sx hi h⟩,
    _, exec_stc_writes ha hi h, hme, honly, ?_⟩⟩
  · rw [exec_ldl_out s z sx m hi ha ho, extend_zero]
  · exact hbank.symm ▸ hstores
  · exact hbank.symm ▸ hstores

end Sys2Proof.Machine
end

section
/-! What leaves memory and contexts alone: lookups of TLBs, counts of events, and packets (19 R290, 21 R309, 22 R331). Proofs
about accesses of G and W space use that a state after them is the same but for that. -/

namespace Sys2Proof.Machine

/-- `t` with the traffic of `s`. -/
def State.withTrafficOf (t s : State) : State :=
  { t with
    cores := s.cores, clusters := s.clusters, vdevs := s.vdevs, packets := s.packets, packetSeq := s.packetSeq
    seqOut := s.seqOut, seqIn := s.seqIn, host := s.host }

/-- `t` is `s` but for lookups and traffic: TLBs, counts of events and of packets, packets with their numbers, and messages to
the host. -/
structure State.SameButTraffic (s t : State) : Prop where
  rest : t.withTrafficOf s = s
  core : ∀ k, { t.core k with tlb := (s.core k).tlb, tx := (s.core k).tx, rx := (s.core k).rx } = s.core k
  cluster : ∀ cl, { t.cluster cl with tlb := (s.cluster cl).tlb, shadows := (s.cluster cl).shadows } = s.cluster cl
  vdev : ∀ v, { t.vdev v with vcnt := (s.vdev v).vcnt, samples := (s.vdev v).samples } = s.vdev v

/-- As `SameButTraffic`, and no packet has been sent. -/
structure State.SameButLookups (s t : State) : Prop extends s.SameButTraffic t where
  packets : t.packets = s.packets
  packetSeq : t.packetSeq = s.packetSeq
  seqOut : t.seqOut = s.seqOut
  seqIn : t.seqIn = s.seqIn
  host : t.host = s.host

/-- What slices and page walks read of memory is the same in both states (19 R289, 22 R334 to R338). -/
structure State.SameMemory (s t : State) : Prop where
  mem : t.mem = s.mem
  frames : t.frames = s.frames
  windows : t.windows = s.windows
  lines : t.lines = s.lines
  stored : t.stored = s.stored
  counters : t.counters = s.counters
  t1frames : t.t1frames = s.t1frames
  promo : t.promo = s.promo
  keyGen : ∀ v, (t.vdev v).keyGen = (s.vdev v).keyGen
  ptroot : ∀ v, (t.vdev v).ptroot = (s.vdev v).ptroot
  macs : ∀ sl, (t.slice sl).macs = (s.slice sl).macs
  roots : ∀ sl, (t.slice sl).roots = (s.slice sl).roots
  tree : ∀ sl, (t.slice sl).tree = (s.slice sl).tree
  badNodes : ∀ sl, (t.slice sl).badNodes = (s.slice sl).badNodes

/-! ### Composition, and updates of one unit -/

namespace State.SameButTraffic

variable {s t u : State}

theorem refl (s : State) : s.SameButTraffic s := ⟨rfl, fun _ => rfl, fun _ => rfl, fun _ => rfl⟩

theorem trans (h : s.SameButTraffic t) (h' : t.SameButTraffic u) : s.SameButTraffic u where
  rest := (congrArg (State.withTrafficOf · s) h'.rest :).trans h.rest
  core k := (congrArg (fun x : Core => { x with tlb := (s.core k).tlb, tx := (s.core k).tx, rx := (s.core k).rx })
    (h'.core k) :).trans (h.core k)
  cluster cl := (congrArg (fun x : Cluster => { x with tlb := (s.cluster cl).tlb, shadows := (s.cluster cl).shadows })
    (h'.cluster cl) :).trans (h.cluster cl)
  vdev v := (congrArg (fun x : VDev => { x with vcnt := (s.vdev v).vcnt, samples := (s.vdev v).samples })
    (h'.vdev v) :).trans (h.vdev v)

theorem foldl {α : Type} (f : State → α → State) (hf : ∀ (s : State) a, s.SameButTraffic (f s a)) (l : List α) (s : State) :
    s.SameButTraffic (l.foldl f s) := by
  induction l generalizing s with
  | nil => exact refl s
  | cons a l ih => exact (hf s a).trans (ih _)

/-- Packets, their numbers and the messages to the host replaced. -/
theorem setPackets (s : State) (p : Sparse Packet) (n : Nat) (a b : List ((Node × Node × PClass) × Nat)) (l : List HostMsg) :
    s.SameButTraffic { s with packets := p, packetSeq := n, seqOut := a, seqIn := b, host := l } :=
  ⟨rfl, fun _ => rfl, fun _ => rfl, fun _ => rfl⟩

end State.SameButTraffic

namespace State.SameButLookups

variable {s t u : State}

theorem refl (s : State) : s.SameButLookups s := ⟨.refl s, rfl, rfl, rfl, rfl, rfl⟩

theorem trans (h : s.SameButLookups t) (h' : t.SameButLookups u) : s.SameButLookups u :=
  ⟨h.toSameButTraffic.trans h'.toSameButTraffic, h'.packets.trans h.packets, h'.packetSeq.trans h.packetSeq,
    h'.seqOut.trans h.seqOut, h'.seqIn.trans h.seqIn, h'.host.trans h.host⟩

theorem setCore (s : State) (k : Nat) (x : Core)
    (hx : { x with tlb := (s.core k).tlb, tx := (s.core k).tx, rx := (s.core k).rx } = s.core k) :
    s.SameButLookups (s.setCore k x) := by
  refine ⟨⟨rfl, fun i => ?_, fun _ => rfl, fun _ => rfl⟩, rfl, rfl, rfl, rfl, rfl⟩
  by_cases hi : i = k
  · rw [hi, State.setCore_core_self]
    exact hx
  · rw [State.setCore_core_ne _ _ hi]

theorem setCluster (s : State) (cl : Nat) (x : Cluster)
    (hx : { x with tlb := (s.cluster cl).tlb, shadows := (s.cluster cl).shadows } = s.cluster cl) :
    s.SameButLookups (s.setCluster cl x) := by
  refine ⟨⟨rfl, fun _ => rfl, fun i => ?_, fun _ => rfl⟩, rfl, rfl, rfl, rfl, rfl⟩
  by_cases hi : i = cl
  · rw [hi, State.setCluster_cluster_self]
    exact hx
  · rw [State.setCluster_cluster_ne _ _ hi]

theorem setVdev (s : State) (v : Nat) (x : VDev)
    (hx : { x with vcnt := (s.vdev v).vcnt, samples := (s.vdev v).samples } = s.vdev v) :
    s.SameButLookups (s.setVdev v x) := by
  refine ⟨⟨rfl, fun _ => rfl, fun _ => rfl, fun i => ?_⟩, rfl, rfl, rfl, rfl, rfl⟩
  by_cases hi : i = v
  · rw [hi, State.setVdev_vdev_self]
    exact hx
  · rw [State.setVdev_vdev_ne _ _ hi]

/-- The TLB of a core, and of a cluster, replaced. -/
theorem setTlb (s : State) (k : Nat) (l : List TlbEntry) : s.SameButLookups (s.setCore k { s.core k with tlb := l }) :=
  setCore s k _ rfl

theorem setClusterTlb (s : State) (cl : Nat) (l : List TlbEntry) :
    s.SameButLookups (s.setCluster cl { s.cluster cl with tlb := l }) :=
  setCluster s cl _ rfl

end State.SameButLookups

/-! ### What the model's operations leave -/

theorem State.count_same (s : State) (v event n : Nat) : s.SameButLookups (s.count v event n) := by
  unfold State.count
  dsimp only
  split
  · exact .setVdev s v _ rfl
  · exact .refl s

theorem State.sample_same (s : State) (v measure : Nat) : s.SameButLookups (s.sample v measure) := .setVdev s v _ rfl

theorem State.shadow_same (s : State) (cl : Nat) (l : List TlbEntry) (v : Nat) (va : Addr) :
    s.SameButLookups (s.shadow cl l v va) := by
  unfold State.shadow
  split
  · exact .setCluster s cl _ rfl
  · exact .refl s

theorem State.useTlbOf_same (s : State) (cl v : Nat) (va : Addr) : s.SameButLookups (s.useTlbOf cl v va) := by
  unfold State.useTlbOf
  dsimp only
  split
  · exact (State.SameButLookups.setClusterTlb s cl _).trans (State.shadow_same ..)
  · exact .refl s

theorem State.useTlb_same (s : State) (k v : Nat) (va : Addr) : s.SameButLookups (s.useTlb k v va) := by
  unfold State.useTlb
  dsimp only
  split
  · exact (State.SameButLookups.setTlb s k _).trans (State.shadow_same ..)
  · split
    · exact (s.useTlbOf_same ..).trans (.setTlb _ k _)
    · exact .refl s

/-- The lookup of an access (19 R290). -/
theorem State.touch_same (s : State) (w : Bool) (ea : Addr) : s.SameButLookups (s.touch w ea) := by
  unfold State.touch
  split
  · exact .refl s
  split
  · exact s.useTlb_same ..
  · exact s.useTlb_same ..
  · exact .refl s

theorem State.fillTlb_same (s : State) (k : Nat) (e : TlbEntry) : s.SameButLookups (s.fillTlb k e) :=
  (State.SameButLookups.setClusterTlb s _ _).trans (.setTlb _ k _)

theorem State.countTx_same (s : State) (n : Node) : s.SameButLookups (s.countTx n) := by
  cases n with
  | core k => exact .setCore s k _ rfl
  | slice | copyEngine | processor | port => exact .refl s

theorem State.countRx_same (s : State) (n : Node) : s.SameButLookups (s.countRx n) := by
  cases n with
  | core k => exact .setCore s k _ rfl
  | slice | copyEngine | processor | port => exact .refl s

theorem State.inject_same (s : State) (x : Packet) : s.SameButTraffic (s.inject x) :=
  (State.SameButTraffic.setPackets s ..).trans (State.countTx_same ..).toSameButTraffic

theorem State.pass_same (s : State) (src dst : Node) (c : PClass) : s.SameButTraffic (s.pass src dst c) := by
  unfold State.pass
  dsimp only
  split
  · exact (State.SameButTraffic.setPackets s ..).trans
      ((State.countTx_same ..).trans (State.countRx_same ..)).toSameButTraffic
  · exact s.inject_same _

theorem State.exchange_same (s : State) (ks : List Nat) (n : Node) (c back : PClass) :
    s.SameButTraffic (s.exchange ks n c back) :=
  .foldl _ (fun s _ => (s.pass_same ..).trans (State.pass_same ..)) ks s

theorem State.asks_same (s : State) (n m : Node) (c back : PClass) : s.SameButTraffic (s.asks n m c back) :=
  (s.pass_same ..).trans (State.pass_same ..)

/-- The packet that a source sends is under way with what it carries. -/
theorem State.inject_find (s : State) (x : Packet) : (s.inject x).packets.find s.packetSeq =
    some { x with seq := seqGet s.seqOut (x.src, x.dst, x.cls), since := s.cyc.toNat, place := s.sentTo x.src x.dst x.cls } :=
  (congrArg (Sparse.find · s.packetSeq) (State.countTx_same ..).packets :).trans (Sparse.find_put_self ..)

theorem State.walked_same (s : State) (n : Node) (v : Nat) (va : Addr) : s.SameButTraffic (s.walked n v va) := by
  have hreads := State.SameButTraffic.foldl (fun (s : State) a => s.asks n (.slice (sliceOf a)) .req .rsp)
    (fun s _ => s.asks_same ..) (s.walkReads v va.toNat 4 (addrOf (s.vdev v).ptroot).toNat) (s.count v 8 1)
  have h := (s.count_same v 8 1).toSameButTraffic.trans hreads
  unfold State.walked
  dsimp only
  split
  · exact h.trans (.setPackets ..)
  · exact h

theorem State.walkArea_same (s : State) (key : Nat) : s.SameButTraffic (s.walkArea key) :=
  .foldl _ (fun s _ => s.walked_same ..) _ s

theorem State.useFetch_same (s : State) (k v : Nat) (a : Addr) : s.SameButTraffic (s.useFetch k v a) := by
  have h := (s.asks_same (.core k) (.core (serviceOf (clusOf k))) .ctrl .ctrl).trans
    (State.walked_same _ (.core (serviceOf (clusOf k))) v a)
  unfold State.useFetch
  dsimp only
  split
  · exact (s.useTlb_same ..).toSameButTraffic
  split
  · exact h.trans (State.fillTlb_same ..).toSameButTraffic
  · exact h

theorem State.useLine_same (s : State) (k v : Nat) (a : Addr) : s.SameButTraffic (s.useLine k v a) := by
  unfold State.useLine
  split
  · exact .refl s
  · exact s.useFetch_same ..

/-! ### What a state that is the same but for traffic reads as -/

namespace State.SameButTraffic

variable {s t : State} (h : s.SameButTraffic t)
include h

theorem cur : t.cur = s.cur := (congrArg State.cur h.rest :)
theorem k : t.k = s.k := congrArg Prod.fst h.cur
theorem c : t.c = s.c := congrArg Prod.snd h.cur
theorem cyc : t.cyc = s.cyc := (congrArg State.cyc h.rest :)
theorem mem : t.mem = s.mem := (congrArg State.mem h.rest :)
theorem frames : t.frames = s.frames := (congrArg State.frames h.rest :)
theorem slices : t.slices = s.slices := (congrArg State.slices h.rest :)
theorem travel : t.travel = s.travel := (congrArg State.travel h.rest :)
theorem ctxs (k : Nat) : (t.core k).ctxs = (s.core k).ctxs := (congrArg Core.ctxs (h.core k) :)
theorem task (k : Nat) : (t.core k).task = (s.core k).task := (congrArg Core.task (h.core k) :)
theorem ctx (k c : Nat) : t.ctx k c = s.ctx k c := congrArg (Sparse.get · (ctxInit k) c) (h.ctxs k)
theorem me : t.me = s.me := by
  unfold State.me
  rw [h.k, h.c, h.ctx]
theorem slot (k n : Nat) : t.slot k n = s.slot k n := (congrArg (Core.slot · n) (h.core k) :)
theorem bank (cl b : Nat) : t.bank cl b = s.bank cl b := (congrArg (Cluster.bank · b) (h.cluster cl) :)
theorem homeOf (k c : Nat) : t.homeOf k c = s.homeOf k c := by
  unfold State.homeOf
  rw [h.ctx]
theorem taskOf (k c : Nat) : t.taskOf k c = s.taskOf k c := by
  unfold State.taskOf
  rw [h.homeOf, h.task]
theorem vdevOf (k c : Nat) : t.vdevOf k c = s.vdevOf k c := by
  unfold State.vdevOf
  rw [h.taskOf]

theorem sameMemory : s.SameMemory t where
  mem := h.mem
  frames := h.frames
  windows := (congrArg State.windows h.rest :)
  lines := (congrArg State.lines h.rest :)
  stored := (congrArg State.stored h.rest :)
  counters := (congrArg State.counters h.rest :)
  t1frames := (congrArg State.t1frames h.rest :)
  promo := (congrArg State.promo h.rest :)
  keyGen v := (congrArg VDev.keyGen (h.vdev v) :)
  ptroot v := (congrArg VDev.ptroot (h.vdev v) :)
  macs sl := congrArg (fun x : Sparse Slice => (x.get {} sl).macs) h.slices
  roots sl := congrArg (fun x : Sparse Slice => (x.get {} sl).roots) h.slices
  tree sl := congrArg (fun x : Sparse Slice => (x.get {} sl).tree) h.slices
  badNodes sl := congrArg (fun x : Sparse Slice => (x.get {} sl).badNodes) h.slices

/-- With the executing context replaced, banks, slots and the other contexts are those of before. -/
theorem keepsL_setMe (y : Ctx) : s.keepsL (t.setMe y) :=
  ⟨h.bank, fun k n => (t.setMe_slot k n y).trans (h.slot k n),
    fun k c hne => (t.setMe_ctx_ne y (h.cur ▸ hne)).trans (h.ctx k c)⟩

end State.SameButTraffic

/-! ### What a slice finds of an access depends on its memory alone -/

namespace State.SameMemory

variable {s t : State} (h : s.SameMemory t)
include h

theorem frame (f : Nat) : t.frame f = s.frame f := congrArg (fun x : Sparse Frame => x.get {} f) h.frames
theorem line (l : Nat) : t.line l = s.line l := congrArg (fun x : Sparse Line => x.get {} l) h.lines
theorem counter (l : Nat) : t.counter l = s.counter l := congrArg (fun x : Sparse Counter => x.get {} (l / 64)) h.counters

theorem lineKey (l : Nat) : t.lineKey l = s.lineKey l := by
  simp only [State.lineKey, h.frame, h.windows, h.keyGen]

theorem lineOwner (l : Nat) : t.lineOwner l = s.lineOwner l := by
  simp only [State.lineOwner, h.frame]

theorem macOf (l : Nat) (bs : List Byte) : t.macOf l bs = s.macOf l bs := by
  simp only [State.macOf, h.counter, h.lineKey]

theorem parent (sl v lev i : Nat) : (t.slice sl).parent v lev i = (s.slice sl).parent v lev i := by
  simp only [Slice.parent, h.roots, h.tree]

theorem treeMacOf (sl v lev i : Nat) : t.treeMacOf sl v lev i = s.treeMacOf sl v lev i := by
  simp only [State.treeMacOf, State.treeContent, h.parent, h.keyGen, h.counters]

theorem pathIntact (l : Nat) : t.pathIntact l = s.pathIntact l := by
  simp only [State.pathIntact, h.lineOwner, h.macs, h.treeMacOf]

theorem pathBad (l : Nat) : t.pathBad l = s.pathBad l := by
  simp only [State.pathBad, h.lineOwner, h.badNodes]

theorem intact (l : Nat) : t.intact l = s.intact l := by
  simp only [State.intact, h.stored, h.macOf, h.pathIntact]

theorem lineCheck (pa : Nat) : t.lineCheck pa = s.lineCheck pa := by
  simp only [State.lineCheck, h.stored, h.pathBad, h.frame, h.intact, h.line]

theorem sliceCheck (v pa : Nat) : t.sliceCheck v pa = s.sliceCheck v pa := by
  simp only [State.sliceCheck, h.frame, h.lineCheck]

theorem grantFails (v pa : Nat) (wr : Bool) : t.grantFails v pa wr = s.grantFails v pa wr := by
  simp only [State.grantFails, h.frame, h.windows]

theorem accessFails (w : Bool) (v pa : Nat) (wr : Bool) : t.accessFails w v pa wr = s.accessFails w v pa wr := by
  simp only [State.accessFails, h.grantFails, h.lineCheck, h.sliceCheck]

end State.SameMemory

/-! ### A clear way (21 R314, R319) -/

theorem Sparse.mem_of_find {α : Type} {m : Sparse α} {k : Nat} {x : α} (h : m.find k = some x) : (k, x) ∈ m := by
  induction m with
  | nil => cases h
  | cons e t ih =>
    obtain ⟨j, y⟩ := e
    rw [Sparse.find_cons] at h
    split at h
    · rename_i hj
      cases h
      rw [hj]
      exact List.mem_cons_self
    · exact List.mem_cons_of_mem _ (ih h)

theorem Sparse.get_of_forall {α : Type} {m : Sparse α} {d : α} {p : α → Prop} (hd : p d) (h : ∀ e ∈ m, p e.2) (k : Nat) :
    p (m.get d k) := by
  unfold Sparse.get
  cases hf : m.find k with
  | none => exact hd
  | some x => exact h _ (Sparse.mem_of_find hf)

/-- A way is open where each elevator that it passes takes packets: where all do, these do. -/
theorem State.wayOpen_eq (s : State) (src dst : Node) : s.wayOpen src dst = (s.wayPath src dst).all s.lifts := by
  unfold State.wayOpen
  cases hall : s.clusters.all fun e => decide (e.2.elevator = .good) with
  | false => exact Bool.false_or _
  | true =>
    rw [Bool.true_or, eq_comm, List.all_eq_true]
    intro cl _
    have hgood : ∀ e ∈ s.clusters, e.2.elevator = .good := by simpa using hall
    exact decide_eq_true (Sparse.get_of_forall (p := fun x : Cluster => x.elevator = .good) rfl hgood cl)

namespace State.SameButLookups

variable {s t : State} (h : s.SameButLookups t)
include h

theorem wayOpen (src dst : Node) : t.wayOpen src dst = s.wayOpen src dst := by
  have helev (cl : Nat) : (t.cluster cl).elevator = (s.cluster cl).elevator := (congrArg Cluster.elevator (h.cluster cl) :)
  have hroute (cl a b : Nat) : (t.cluster cl).route a b = (s.cluster cl).route a b :=
    (congrArg (Cluster.route · a b) (h.cluster cl) :)
  have hlifts : t.lifts = s.lifts := funext fun cl => by rw [State.lifts, State.lifts, helev]
  rw [State.wayOpen_eq, State.wayOpen_eq, hlifts]
  simp only [State.wayPath, State.entryOf, hroute]

/-- Whether a way is clear does not depend on lookups. -/
theorem wayClear (home pa : Nat) : t.wayClear home pa = s.wayClear home pa := by
  have htaken : (t.slice (sliceOf pa)).taken = (s.slice (sliceOf pa)).taken :=
    congrArg (fun x : Sparse Slice => (x.get {} (sliceOf pa)).taken) h.slices
  simp only [State.wayClear, State.bothWays, State.meshIdle, State.settled, h.wayOpen, h.travel, h.packets, h.seqOut, h.seqIn,
    htaken]

end State.SameButLookups

end Sys2Proof.Machine
end

section
/-! Loads of G and W space (O34): a request whose way is clear is served at once, and else travels (05 R93, R95, R97). -/

namespace Sys2Proof.Machine

/-! ### Instructions that go on -/

/-- An instruction that may execute and whose access has not been abandoned does what its body says. -/
theorem run_goesOn {i : Instr} {m : Adm} {a : Word} {s : State} {body : State → Act} (hb : s.bars m = none)
    (hh : ∀ h, s.me.hold = some h → ∀ c x, h.phase ≠ .abandoned c x) : run i m a s body = finish i (body s) := by
  unfold run
  rw [hb]
  cases hhold : s.me.hold with
  | none => rfl
  | some h =>
    obtain ⟨j, n, p⟩ := h
    cases p with
    | abandoned c x => exact absurd rfl (hh _ hhold c x)
    | _ => rfl

/-! ### Bytes of G memory (00 R2) -/

theorem Memory.readN_lt (m : List Host.Cell) (a n : Nat) : Memory.readN m a n < 256 ^ n := by
  induction n generalizing a with
  | zero => exact Nat.one_pos
  | succ n ih =>
    have hrest := ih (a + 1)
    have hbyte := (Memory.read m a).isLt
    rw [Memory.readN, Nat.pow_succ]
    omega

/-- Byte `j` of the number that is read. -/
theorem Memory.readN_byte (m : List Host.Cell) (a : Nat) {n j : Nat} (hj : j < n) :
    Memory.readN m a n / 256 ^ j % 256 = (Memory.read m (a + j)).toNat := by
  induction n generalizing a j with
  | zero => omega
  | succ n ih =>
    have hbyte := (Memory.read m a).isLt
    rw [Memory.readN]
    cases j with
    | zero =>
      simp only [Nat.pow_zero, Nat.div_one, Nat.add_zero]
      omega
    | succ j =>
      rw [Nat.pow_succ', ← Nat.div_div_eq_div_mul, show ((Memory.read m a).toNat + 256 * Memory.readN m (a + 1) n) / 256 =
        Memory.readN m (a + 1) n by omega, ih (a + 1) (by omega), show a + 1 + j = a + (j + 1) by omega]

theorem pow_bytes (z : Size) : 256 ^ z.bytes = 2 ^ (8 * z.bytes) := by rw [Nat.pow_mul]

theorem pow_bytes_le (z : Size) : 256 ^ z.bytes ≤ 2 ^ 64 := by cases z <;> decide

/-- The value that a slice answers for a read of memory. -/
def Memory.word (m : List Host.Cell) (a n : Nat) : Word := BitVec.ofNat 64 (Memory.readN m a n)

theorem Memory.word_toNat (m : List Host.Cell) (a : Nat) (z : Size) :
    (Memory.word m a z.bytes).toNat = Memory.readN m a z.bytes :=
  (BitVec.toNat_ofNat ..).trans (Nat.mod_eq_of_lt ((Memory.readN_lt ..).trans_le (pow_bytes_le z)))

/-- What a load of G memory leaves, extended. -/
theorem loaded_memory (m : List Host.Cell) (pa : Nat) (z : Size) (sx : Bool) :
    Loaded z sx (fun j => Memory.read m (pa + j)) (extend sx z (Memory.word m pa z.bytes)) := by
  have hval := Memory.word_toNat m pa z
  refine loaded_extend sx (fun j hj => ?_) (fun j hj => ?_)
  · apply BitVec.eq_of_toNat_eq
    rw [BitVec.extractLsb'_toNat, hval, ← Memory.readN_byte m pa hj, Nat.shiftRight_eq_div_pow, Nat.pow_mul]
  · rw [BitVec.getLsbD, hval]
    exact Nat.testBit_lt_two_pow (((Memory.readN_lt ..).trans_eq (pow_bytes z)).trans_le (Nat.pow_le_pow_right (by decide) hj))

/-! ### The context after an access of G or W space -/

theorem Ctx.went_ptrAfter {n : Nat} (y : Ctx) (m : MemOp n) (z : Nat) : y.went (ptrAfter m y z).advance m z :=
  ⟨fun _ hp => Ctx.setPtr_ptr_ne _ _ hp, Ctx.setPtr_ptr_self .., rfl, rfl, rfl, rfl, rfl, rfl⟩

theorem Ctx.went_setA {n : Nat} {y y1 : Ctx} {m : MemOp n} {z : Nat} (h : y.went y1 m z) (v : Word) : y.went (y1.setA v) m z := h

theorem went_loadDone {n : Nat} (y : Ctx) (m : MemOp n) (z : Size) (sx : Bool) (v : Word) :
    y.went (loadDone z sx m v y).advance m z.bytes :=
  Ctx.went_setA (y.went_ptrAfter m z.bytes) _

/-! ### Answers -/

section
variable {s : State} (htw : (s.taskOf s.k s.c).bind Task.twin = none)
include htw

theorem State.partner_of_no_twin : s.partner = none := by simp [State.partner, htw]

theorem State.twinHolds_of_no_twin : s.twinHolds = false := by simp [State.twinHolds, htw]

theorem State.answer_of_no_twin (f : Ctx → Ctx) : s.answer f = .done (s.setMe (f s.me).advance) := by
  simp [State.answer, State.partner_of_no_twin htw]

end

/-- The twin of the executing context's task, in a state that is the same but for traffic. -/
theorem State.SameButTraffic.twin {s t : State} (h : s.SameButTraffic t) :
    (t.taskOf t.k t.c).bind Task.twin = (s.taskOf s.k s.c).bind Task.twin := by
  rw [h.k, h.c, h.taskOf]

/-! ### Requests -/

/-- What a slice answers to a request that nothing is against: the old value. -/
def State.oldValue (s : State) (r : Request) : Word := Memory.word s.mem r.pa (accessOf r.instr).size.bytes

/-- `t` with the memory of `s`: its bytes and lines, frames, slices, and the lines that lag behind. -/
def State.withMemoryOf (t s : State) : State :=
  { t with mem := s.mem, stored := s.stored, frames := s.frames, slices := s.slices, through := s.through }

/-- A write at a slice changes memory alone (22 R336, R346). -/
theorem State.gStore_rest (s : State) (v pa n x : Nat) : (s.gStore v pa n x).withMemoryOf s = s := by
  have hdirty (t : State) : (t.noteDirty v pa).withMemoryOf s = t.withMemoryOf s := by
    unfold State.noteDirty
    dsimp only
    split
    · split
      · rfl
      · split <;> rfl
    · rfl
  unfold State.gStore
  dsimp only
  rw [hdirty]
  split <;> rfl

theorem State.noteThrough_rest (s t : State) (k : Nat) (who : Maker) (pa : Nat) (f : Bool) :
    (t.noteThrough k who pa f).withMemoryOf s = t.withMemoryOf s := by
  unfold State.noteThrough
  split <;> rfl

@[simp] theorem State.noteThrough_mem (s : State) (k : Nat) (who : Maker) (pa : Nat) (f : Bool) :
    (s.noteThrough k who pa f).mem = s.mem := by
  unfold State.noteThrough
  split <;> rfl

/-- A request that nothing is against is answered with the old value, and changes memory alone. -/
theorem State.serve_ok {s : State} {r : Request} (h : s.serveFails r = none) :
    (s.serve r).2 = (none, s.oldValue r) ∧ (s.serve r).1.withMemoryOf s = s := by
  unfold State.serve
  rw [h]
  dsimp only
  split
  · exact ⟨rfl, rfl⟩
  · split
    · exact ⟨rfl, rfl⟩
    · exact ⟨rfl, (State.noteThrough_rest ..).trans (s.gStore_rest ..)⟩

/-- A load changes nothing at its slice. -/
theorem State.serve_load {s : State} {r : Request} (hr : (accessOf r.instr).fn = none) : (s.serve r).1 = s := by
  unfold State.serve
  split
  · rfl
  · simp only [hr]

section
variable {s : State} {w : Bool} {ea : Addr} {pa : Nat} {wr : Bool} {o : Order} {sc : Scope}

/-- A request whose way is clear is served at once, by a slice that finds what it would have found before (05 R93, R103). -/
theorem State.sendRequest_reached (h : s.reachesG w ea pa wr o sc) (i : Instr) (fin : Word → Ctx → Ctx)
    (hi : (accessOf i).fn.isSome = wr) :
    ∃ u, s.SameButTraffic u ∧ u.serveFails (s.request i w ea pa) = none ∧
      (s.touch w ea).sendRequest (s.request i w ea pa) fin = .done
        ((((u.serve (s.request i w ea pa)).1).sample (s.vdevOf s.k s.c) 0).setMe
          (fin (s.oldValue (s.request i w ea pa)) s.me).advance) := by
  obtain ⟨-, -, -, -, htw, hway, hfails⟩ := h
  let r := s.request i w ea pa
  have hlook := s.touch_same w ea
  have htouch := hlook.toSameButTraffic
  have htw' : ((s.touch w ea).taskOf (s.touch w ea).k (s.touch w ea).c).bind Task.twin = none := htouch.twin.trans htw
  let u := ((s.touch w ea).count r.vdev 3 1).exchange [r.home] (.slice (sliceOf r.pa)) .req .rsp
  have hu : s.SameButTraffic u := (htouch.trans (State.count_same ..).toSameButTraffic).trans (State.exchange_same ..)
  have hok : u.serveFails r = none := by
    show u.accessFails w (s.vdevOf s.k s.c) pa (accessOf i).fn.isSome = none
    rw [hi, hu.sameMemory.accessFails]
    exact hfails
  obtain ⟨hans, hrest⟩ := State.serve_ok hok
  have hold : u.oldValue r = s.oldValue r := by rw [State.oldValue, hu.mem, State.oldValue]
  let t := (u.serve r).1.sample r.vdev 0
  have hsample := ((u.serve r).1.sample_same r.vdev 0).toSameButTraffic
  have htwu : (t.taskOf t.k t.c).bind Task.twin = none :=
    calc (t.taskOf t.k t.c).bind Task.twin
        = (((u.serve r).1.taskOf (u.serve r).1.k (u.serve r).1.c)).bind Task.twin := hsample.twin
      _ = (u.taskOf u.k u.c).bind Task.twin := (congrArg (fun x : State => (x.taskOf x.k x.c).bind Task.twin) hrest :)
      _ = none := hu.twin.trans htw
  have hme : t.me = s.me := (hsample.me.trans (congrArg State.me hrest :)).trans hu.me
  have hway' : (s.touch w ea).wayClear (s.request i w ea pa).home (s.request i w ea pa).pa = true := (hlook.wayClear ..).trans hway
  refine ⟨u, hu, hok, ?_⟩
  unfold State.sendRequest
  rw [if_neg (by rw [State.twinHolds_of_no_twin htw']; exact Bool.false_ne_true), if_pos hway', State.partner_of_no_twin htw']
  show (match (u.serve r).2.1 with
    | some c => (u.serve r).1.answerBad r.instr c r.ea
    | none => ((u.serve r).1.sample r.vdev 0).answer (fin (u.serve r).2.2)) = _
  rw [hans]
  show t.answer (fin (u.oldValue r)) = _
  rw [State.answer_of_no_twin htwu, hme, hold]
  rfl

/-- A request whose way is not clear travels as a packet (05 R93, 21 R314). -/
theorem State.sendRequest_sent (h : s.sendsG w ea pa wr o sc) (i : Instr) (fin : Word → Ctx → Ctx) :
    ∃ u, s.SameButLookups u ∧ (s.touch w ea).sendRequest (s.request i w ea pa) fin = .wait (.asked s.packetSeq) (u.inject
      { src := .core (s.homeOf s.k s.c), dst := .slice (sliceOf pa), cls := .req, seq := 0, level := 2,
        payload := .ask (s.request i w ea pa) }) := by
  obtain ⟨-, -, -, htw, hway⟩ := h
  have hlook := s.touch_same w ea
  have htw' : ((s.touch w ea).taskOf (s.touch w ea).k (s.touch w ea).c).bind Task.twin = none :=
    hlook.toSameButTraffic.twin.trans htw
  have hway' : (s.touch w ea).wayClear (s.request i w ea pa).home (s.request i w ea pa).pa = false := (hlook.wayClear ..).trans hway
  refine ⟨_, hlook.trans (State.count_same _ (s.vdevOf s.k s.c) 3 1), ?_⟩
  unfold State.sendRequest
  simp only [State.twinHolds_of_no_twin htw', hway', htw', Option.isSome_none, Bool.false_eq_true, if_false]
  rfl

/-! ### Accesses that issue or have been held -/

theorem State.underWay_issues {i : Instr} {fin : Word → Ctx → Ctx} {issue : Act}
    (hh : ∀ h, s.me.hold = some h → h.phase = .held) : s.underWay i ea fin issue = issue := by
  unfold State.underWay Ctx.phase
  cases hhold : s.me.hold with
  | none => rfl
  | some h =>
    rw [Option.map_some, hh h hhold]

theorem State.not_abandoned_of_held (hh : ∀ h, s.me.hold = some h → h.phase = .held) :
    ∀ h, s.me.hold = some h → ∀ c x, h.phase ≠ .abandoned c x := by
  intro h hhold c x
  rw [hh h hhold]
  exact Phase.noConfusion

theorem State.held_of_issues {m : Adm} (h : s.issues m) : ∀ x, s.me.hold = some x → x.phase = .held := by
  intro x hx
  rw [h.2] at hx
  cases hx

end

section
variable {s : State} {w : Bool} {n : Nat} {m : MemOp n} {pa : Nat} {o : Order} {sc : Scope} {z : Size}

/-- A translated load with nothing to wait for is sent. -/
theorem loadGW_sends (hb : s.bars admG = none) (hh : ∀ h, s.me.hold = some h → h.phase = .held)
    (hx : s.xlateGW w (eaOf m s.me) false = .ok pa) (hw : s.mustWait w (eaOf m s.me) pa o sc = false)
    (ha : aligned (eaOf m s.me) z.bytes = true) (i : Instr) (sx : Bool) :
    loadGW i w z sx o sc m s = finish i
      ((s.touch w (eaOf m s.me)).sendRequest (s.request i w (eaOf m s.me) pa) (loadDone z sx m)) := by
  unfold loadGW
  rw [run_goesOn hb (State.not_abandoned_of_held hh)]
  dsimp only
  rw [State.underWay_issues hh]
  simp [State.aligned, ha, hx, hw]

/-- A load that reaches its slice ends with the value there; lookups and traffic apart, its context alone changes. -/
theorem loadGW_reached (h : s.reachesG w (eaOf m s.me) pa false o sc) (ha : aligned (eaOf m s.me) z.bytes = true) (i : Instr)
    (sx : Bool) (hi : accessOf i = { size := z, order := (accessOf i).order, scope := (accessOf i).scope }) :
    ∃ u, s.SameButTraffic u ∧
      loadGW i w z sx o sc m s = .next (u.setMe (loadDone z sx m (Memory.word s.mem pa z.bytes) s.me).advance) := by
  have hfn : (accessOf i).fn = none := congrArg Access.fn hi
  have hsize : (accessOf i).size = z := congrArg Access.size hi
  obtain ⟨u, hu, -, hsend⟩ := State.sendRequest_reached h i (loadDone z sx m) (by rw [hfn]; rfl)
  obtain ⟨hb, hh, hx, hw, -⟩ := h
  have hv : s.oldValue (s.request i w (eaOf m s.me) pa) = Memory.word s.mem pa z.bytes := by rw [State.oldValue, ← hsize]; rfl
  have hsame := hu.trans (u.sample_same (s.vdevOf s.k s.c) 0).toSameButTraffic
  rw [loadGW_sends hb hh hx hw ha, hsend, State.serve_load hfn, hv]
  exact ⟨_, hsame, rfl⟩

/-- It leaves the bytes there in A, and banks, slots, other contexts and memory as they were. -/
theorem loadGW_loads (h : s.reachesG w (eaOf m s.me) pa false o sc) (ha : aligned (eaOf m s.me) z.bytes = true) (i : Instr)
    (sx : Bool) (hi : accessOf i = { size := z, order := (accessOf i).order, scope := (accessOf i).scope }) :
    ∃ t, loadGW i w z sx o sc m s = .next t ∧ Loaded z sx (fun j => Memory.read s.mem (pa + j)) t.me.a ∧
      s.me.went t.me m z.bytes ∧ t.me.log = s.me.log ∧ t.mem = s.mem ∧ s.keepsL t := by
  obtain ⟨u, hu, hrun⟩ := loadGW_reached h ha i sx hi
  refine ⟨_, hrun, ?_⟩
  rw [State.setMe_me]
  exact ⟨loaded_memory .., went_loadDone .., rfl, hu.mem, hu.keepsL_setMe _⟩

/-- A load whose way is not clear waits for the answer to its packet. -/
theorem loadGW_asks (h : s.sendsG w (eaOf m s.me) pa false o sc) (ha : aligned (eaOf m s.me) z.bytes = true) (i : Instr)
    (sx : Bool) : ∃ t, loadGW i w z sx o sc m s = .next t ∧ t.me.phase = some (.asked s.packetSeq) ∧ t.me.pc = s.me.pc ∧
      t.mem = s.mem ∧ (t.packets.find s.packetSeq).map (fun p => (p.dst, p.cls, p.payload)) =
        some (.slice (sliceOf pa), .req, .ask (s.request i w (eaOf m s.me) pa)) := by
  obtain ⟨u, hu, hsend⟩ := State.sendRequest_sent h i (loadDone z sx m)
  obtain ⟨hissues, hx, hw, -⟩ := h
  have hsame := hu.toSameButTraffic.trans (u.inject_same
    { src := .core (s.homeOf s.k s.c), dst := .slice (sliceOf pa), cls := .req, seq := 0, level := 2,
      payload := .ask (s.request i w (eaOf m s.me) pa) })
  rw [loadGW_sends hissues.1 (State.held_of_issues hissues) hx hw ha, hsend]
  refine ⟨_, rfl, ?_, ?_, ?_, ?_⟩
  · rw [State.setMe_me]
    rfl
  · rw [State.setMe_me]
    exact (congrArg Ctx.pc hsame.me :)
  · exact hsame.mem
  · rw [State.setMe_packets, ← hu.packetSeq, State.inject_find]
    rfl

end

/-- A load whose answer has come ends with its value (05 R93). -/
theorem loadGW_answered {s : State} {n since : Nat} {m : MemOp n} {i : Instr} {v : Word} (hb : s.bars admG = none)
    (htw : (s.taskOf s.k s.c).bind Task.twin = none)
    (hh : s.me.hold = some { instr := i, since := since, phase := .answered none v })
    (w : Bool) (z : Size) (sx : Bool) (o : Order) (sc : Scope) :
    ∃ t, loadGW i w z sx o sc m s = .next t ∧ t.me.a = extend sx z v ∧ s.me.went t.me m z.bytes ∧ t.mem = s.mem ∧ s.keepsL t := by
  have hgo : ∀ h, s.me.hold = some h → ∀ c x, h.phase ≠ .abandoned c x := by
    intro h hh' c x
    rw [hh] at hh'
    cases hh'
    exact Phase.noConfusion
  have hphase : s.me.phase = some (.answered none v) := congrArg (Option.map Hold.phase) hh
  have hsame := (s.sample_same (s.vdevOf s.k s.c) 0).toSameButTraffic
  have hrun : loadGW i w z sx o sc m s =
      .next ((s.sample (s.vdevOf s.k s.c) 0).setMe (loadDone z sx m v s.me).advance) := by
    unfold loadGW
    rw [run_goesOn hb hgo]
    simp only [State.underWay, hphase, State.answer_of_no_twin (hsame.twin.trans htw), hsame.me]
    rfl
  refine ⟨_, hrun, ?_⟩
  rw [State.setMe_me]
  exact ⟨rfl, went_loadDone .., rfl, hsame.keepsL_setMe _⟩

theorem exec_ldg (z : Size) (sx : Bool) (m : MemOp 15) (s : State) :
    exec (.ldg z sx m) s = loadGW (.ldg z sx m) false z sx .none .part m s := rfl
theorem exec_ldgOrdered (z : Size) (sx : Bool) (o : Order) (sc : Scope) (m : MemOp 13) (s : State) :
    exec (.ldgOrdered z sx o sc m) s = loadGW (.ldgOrdered z sx o sc m) false z sx o sc m s := rfl
theorem exec_ldw (z : Size) (sx : Bool) (m : MemOp 15) (s : State) :
    exec (.ldw z sx m) s = loadGW (.ldw z sx m) true z sx .ar .dev m s := rfl
theorem exec_ldwOrdered (z : Size) (sx : Bool) (o : Order) (m : MemOp 13) (s : State) :
    exec (.ldwOrdered z sx o m) s = loadGW (.ldwOrdered z sx o m) true z sx .ar .dev m s := rfl

/-- Settles O34: a load that reaches its slice is served there at once, and one whose way is not clear is answered by packet. -/
theorem globalLoadsReadTheirBytes : Obligations.GlobalLoadsReadTheirBytes := by
  refine ⟨fun s z sx m since v hb htw hh => ?_, fun s z sx o sc m m3 pa => ⟨fun ha => ⟨fun h => ?_, fun h => ?_, fun h => ?_⟩,
    fun ha => ⟨fun h => ?_, fun h => ?_⟩⟩⟩
  · rw [exec_ldg]
    exact loadGW_answered hb htw hh ..
  · dsimp only
    rw [exec_ldg]
    exact loadGW_loads h ha _ sx rfl
  · dsimp only
    rw [exec_ldw]
    exact loadGW_loads h ha _ sx rfl
  · rw [exec_ldg]
    obtain ⟨t, hrun, hphase, hpc, hmem, hpacket⟩ := loadGW_asks h ha (.ldg z sx m) sx
    exact ⟨t, _, hrun, hphase, hpc, hmem, hpacket, rfl, rfl, rfl, rfl⟩
  · dsimp only
    rw [exec_ldgOrdered]
    exact loadGW_loads h ha _ sx rfl
  · dsimp only
    rw [exec_ldwOrdered]
    exact loadGW_loads h ha _ sx rfl

end Sys2Proof.Machine
end

section
/-! Stores of G and W space (O35): a store enters the operand log and its instruction goes on (05 R94, R95, R97, 01 R22). -/

namespace Sys2Proof.Machine

/-! ### States in which banks, slots and the other contexts stay -/

namespace State.SameButTraffic

variable {s t : State} (h : s.SameButTraffic t)
include h

theorem keepsL : s.keepsL t := ⟨h.bank, h.slot, fun k c _ => h.ctx k c⟩

end State.SameButTraffic

theorem State.keepsL_trans {s t u : State} (h : s.keepsL t) (hcur : t.cur = s.cur) (h' : t.keepsL u) : s.keepsL u := by
  obtain ⟨hbank, hslot, hctx⟩ := h
  obtain ⟨hbank', hslot', hctx'⟩ := h'
  exact ⟨fun cl b => (hbank' cl b).trans (hbank cl b), fun k n => (hslot' k n).trans (hslot k n),
    fun k c hne => (hctx' k c (hcur ▸ hne)).trans (hctx k c hne)⟩

theorem State.keepsL_setMe (s : State) (y : Ctx) : s.keepsL (s.setMe y) := (State.SameButTraffic.refl s).keepsL_setMe y

/-! ### The operand log (01 R22) -/

@[simp] theorem Ctx.setLog_log_get_self (y : Ctx) (e : Fin 8) (x : LogEntry) : (y.setLog e x).log.get e = x :=
  Vector.getElem_set_self ..

theorem Ctx.setLog_log_get_ne (y : Ctx) {e f : Fin 8} (x : LogEntry) (h : f ≠ e) :
    (y.setLog e x).log.get f = y.log.get f :=
  Vector.getElem_set_ne e.isLt f.isLt fun hef => h (Fin.ext hef.symm)

theorem State.sendStore_same (s : State) (k c : Nat) (e : Fin 8) : s.SameButTraffic (s.sendStore k c e) := by
  unfold State.sendStore
  exact s.inject_same _

/-- A store that is entered is under way, posted at once unless it is a release, and stands in its entry; its packet apart,
nothing else has changed. -/
theorem State.post_enters (s : State) (k c : Nat) (e : Fin 8) (x : LogEntry) :
    ∃ x1 : LogEntry, x1.busy = true ∧ (x.rel = false → x1.state = .posted) ∧
      { x1 with state := x.state, order := x.order } = x ∧
      (s.setCtx k c ((s.ctx k c).setLog e x1)).SameButTraffic (s.post k c e x) := by
  unfold State.post
  dsimp only
  split
  · exact ⟨{ x with state := .posted, order := _ }, rfl, fun _ => rfl, rfl, State.sendStore_same ..⟩
  · rename_i hheld
    refine ⟨{ x with state := .held, order := _ }, rfl, fun hrel => absurd ?_ hheld, rfl, .refl _⟩
    rw [hrel]
    rfl

section
variable {s : State} {w : Bool} {n : Nat} {m : MemOp n} {pa : Nat} {z : Size} {e : Fin 8}

/-- A store that has nothing to wait for and finds a free entry goes on. -/
theorem storeGW_enters (hissues : s.issues admG) (ha : aligned (eaOf m s.me) z.bytes = true)
    (hx : s.xlateGW w (eaOf m s.me) true = .ok pa) (hposted : s.me.postedTo w (eaOf m s.me) = false)
    (hfenced : s.fenced s.k s.c = false) (hfree : freeEntry s.me = some e) (i : Instr) (o : Order) (sc : Scope) :
    storeGW i w z o sc m s = .next
      ((((s.touch w (eaOf m s.me)).count (s.vdevOf s.k s.c) 4 1).setMe (ptrAfter m s.me z.bytes).advance).post s.k s.c e
        { space := w, addr := eaOf m s.me, word := (wordOf i).setWidth 32, data := lowBytes s.me.a z.bytes, size := z,
          rel := orderRel o, ar := decide (o = .ar), scope := sc, pa := pa }) := by
  unfold storeGW
  rw [run_issues _ _ _ _ _ hissues]
  simp [State.aligned, ha, hx, hposted, hfenced, hfree]

/-- It leaves its entry under way in the log, and memory, banks, slots, other contexts and other entries as they were. -/
theorem storeGW_posts (hissues : s.issues admG) (ha : aligned (eaOf m s.me) z.bytes = true)
    (hx : s.xlateGW w (eaOf m s.me) true = .ok pa) (hposted : s.me.postedTo w (eaOf m s.me) = false)
    (hfenced : s.fenced s.k s.c = false) (hfree : freeEntry s.me = some e) (i : Instr) (o : Order) (sc : Scope) :
    ∃ t, storeGW i w z o sc m s = .next t ∧ t.mem = s.mem ∧ s.keepsL t ∧ t.me.a = s.me.a ∧ s.me.went t.me m z.bytes ∧
      (∀ f : Fin 8, f ≠ e → t.me.log.get f = s.me.log.get f) ∧
      (t.me.log.get e).busy = true ∧ (orderRel o = false → (t.me.log.get e).state = .posted) ∧ (t.me.log.get e).space = w ∧
      (t.me.log.get e).addr = eaOf m s.me ∧ (t.me.log.get e).pa = pa ∧ (t.me.log.get e).size = z ∧
      (t.me.log.get e).data = lowBytes s.me.a z.bytes := by
  rw [storeGW_enters hissues ha hx hposted hfenced hfree]
  let y1 := (ptrAfter m s.me z.bytes).advance
  let u := (s.touch w (eaOf m s.me)).count (s.vdevOf s.k s.c) 4 1
  let x : LogEntry :=
    { space := w, addr := eaOf m s.me, word := (wordOf i).setWidth 32, data := lowBytes s.me.a z.bytes, size := z,
      rel := orderRel o, ar := decide (o = .ar), scope := sc, pa := pa }
  have hu : s.SameButTraffic u := ((s.touch_same ..).trans (State.count_same ..)).toSameButTraffic
  obtain ⟨x1, hbusy, hstate, hx1, hpost⟩ := (u.setMe y1).post_enters u.k u.c e x
  rw [show (u.setMe y1).ctx u.k u.c = y1 from u.setMe_me y1] at hpost
  have hme : ((u.setMe y1).post u.k u.c e x).me = y1.setLog e x1 := hpost.me.trans ((u.setMe y1).setMe_me _)
  have hkeeps : s.keepsL ((u.setMe y1).post u.k u.c e x) := State.keepsL_trans (hu.keepsL_setMe y1) hu.cur
    (State.keepsL_trans ((u.setMe y1).keepsL_setMe (y1.setLog e x1)) rfl hpost.keepsL)
  rw [hu.k, hu.c] at hme hkeeps hpost
  refine ⟨_, rfl, hpost.mem.trans hu.mem, hkeeps, ?_⟩
  rw [hme, Ctx.setLog_log_get_self]
  refine ⟨rfl, s.me.went_ptrAfter m z.bytes, fun f hf => Ctx.setLog_log_get_ne _ _ hf, hbusy, hstate, ?_⟩
  have hspace := congrArg LogEntry.space hx1
  have haddr := congrArg LogEntry.addr hx1
  have hpa := congrArg LogEntry.pa hx1
  have hsize := congrArg LogEntry.size hx1
  have hdata := congrArg LogEntry.data hx1
  exact ⟨hspace, haddr, hpa, hsize, hdata⟩

end

theorem exec_stg (z : Size) (m : MemOp 15) (s : State) : exec (.stg z m) s = storeGW (.stg z m) false z .none .part m s := rfl
theorem exec_stgOrdered (z : Size) (o : Order) (sc : Scope) (m : MemOp 13) (s : State) :
    exec (.stgOrdered z o sc m) s = storeGW (.stgOrdered z o sc m) false z o sc m s := rfl
theorem exec_stw (z : Size) (m : MemOp 15) (s : State) : exec (.stw z m) s = storeGW (.stw z m) true z .ar .dev m s := rfl
theorem exec_stwOrdered (z : Size) (o : Order) (m : MemOp 13) (s : State) :
    exec (.stwOrdered z o m) s = storeGW (.stwOrdered z o m) true z .ar .dev m s := rfl

/-- Settles O35: the four forms are one store, which enters the lowest free entry and leaves the rest as it was. -/
theorem globalStoresArePosted : Obligations.GlobalStoresArePosted := by
  intro s z o sc m m3 pa e hfree
  refine ⟨fun hi ha hx hp hf => ?_, fun hi ha hx hp hf => ?_, fun hi ha hx hp hf => ?_, fun hi ha hx hp hf => ?_⟩
  · rw [exec_stg]
    exact storeGW_posts hi ha hx hp hf hfree ..
  · rw [exec_stgOrdered]
    exact storeGW_posts hi ha hx hp hf hfree ..
  · rw [exec_stw]
    exact storeGW_posts hi ha hx hp hf hfree ..
  · rw [exec_stwOrdered]
    exact storeGW_posts hi ha hx hp hf hfree ..

end Sys2Proof.Machine
end

section
/-! Full and empty granules (O36): which contexts wait on a granule, what its becoming full does to them, and the instructions
that read and write the bit (05 R99 to R102). -/

namespace Sys2Proof.Machine

/-! ### The full bit of a granule -/

theorem granuleOf_lt (ea : Addr) : granuleOf ea < 256 := (bits ea 4 8).isLt

theorem Bank.setFull_isFull (b : Bank) {g : Nat} (f : Bool) (h : g < 256) : (b.setFull g f).isFull g = f :=
  getBit_putBit_self b.full f h

theorem State.setBank_setBank (s : State) (cl b : Nat) (x y : Bank) : (s.setBank cl b x).setBank cl b y = s.setBank cl b y := by
  simp [State.setBank, State.setCluster, Cluster.setBank, State.cluster]

/-! ### The waiters of a granule (05 R101) -/

section
variable {s t : State} (hcore : ∀ k, { t.core k with ctxs := (s.core k).ctxs } = s.core k)
  (hbank : ∀ cl b, (t.bank cl b).state = (s.bank cl b).state)
include hcore hbank

/-- Which bank an access reaches depends on the slots, tasks and flows of the cores and on who holds the banks. -/
theorem State.cBank_eq (k v : Nat) (ea : Addr) : t.cBank k v ea = s.cBank k v ea := by
  have hslot (k n : Nat) : t.slot k n = s.slot k n := (congrArg (Core.slot · n) (hcore k) :)
  have htask (k : Nat) : (t.core k).task = (s.core k).task := (congrArg Core.task (hcore k) :)
  have hflow (k : Nat) : (t.core k).flow = (s.core k).flow := (congrArg Core.flow (hcore k) :)
  have hopen (cl b : Nat) : t.openFor cl b v = s.openFor cl b v := by simp only [State.openFor, hslot, htask, hbank]
  have hflows (k : Nat) : t.coreFlows k = s.coreFlows k := by simp only [State.coreFlows, hflow]
  simp only [State.cBank, hopen, hflows, hbank]

variable (hguest : ∀ k c, (t.ctx k c).guest = (s.ctx k c).guest)
include hguest

theorem State.feReach_eq (k c : Nat) (y : Ctx) (f : FeForm) : t.feReach k c y f = s.feReach k c y f := by
  have hslot (k n : Nat) : t.slot k n = s.slot k n := (congrArg (Core.slot · n) (hcore k) :)
  have htask (k : Nat) : (t.core k).task = (s.core k).task := (congrArg Core.task (hcore k) :)
  have hlBank (ea : Addr) : t.lBank k y.flowing ea = s.lBank k y.flowing ea := by simp only [State.lBank, hslot]
  have hvdev : t.vdevOf k c = s.vdevOf k c := by simp only [State.vdevOf, State.taskOf, State.homeOf, hguest, htask]
  simp only [State.feReach, State.cBank_eq hcore hbank, hlBank, hvdev]

theorem State.feWaiter_eq : t.feWaiter = s.feWaiter := by
  funext k c b g y
  have hstands : t.feStands = s.feStands := by
    funext k c y f b g
    simp only [State.feStands, State.feReach_eq hcore hbank hguest]
  unfold State.feWaiter
  rw [hstands]

end

section
variable {s : State} {cl b : Nat} {x : Bank} (h : x.state = (s.bank cl b).state)
include h

theorem State.setBank_state (i j : Nat) : ((s.setBank cl b x).bank i j).state = (s.bank i j).state := by
  by_cases hij : (i, j) = (cl, b)
  · cases hij
    rw [State.setBank_bank_self, h]
  · rw [State.setBank_bank_ne _ _ hij]

/-- The bytes and bits of a bank say nothing of who waits. -/
theorem State.setBank_feWaiters (i j g : Nat) : (s.setBank cl b x).feWaiters i j g = s.feWaiters i j g := by
  simp only [State.feWaiters, State.setBank_cores,
    State.feWaiter_eq (s := s) (t := s.setBank cl b x) (fun _ => rfl) (State.setBank_state h) fun _ _ => rfl]

end

/-- A context that no longer holds an instruction waits on nothing; who else waits, waited before. -/
theorem State.mem_feWaiters_setCtx {s : State} {k c cl b g : Nat} {y : Ctx} (hy : y.hold = none)
    (hguest : y.guest = (s.ctx k c).guest) {u : FeWaiter} (hu : u ∈ (s.setCtx k c y).feWaiters cl b g) :
    u ∈ s.feWaiters cl b g := by
  have hguests (i j : Nat) : ((s.setCtx k c y).ctx i j).guest = (s.ctx i j).guest := by
    by_cases hij : (i, j) = (k, c)
    · cases hij
      rw [State.setCtx_ctx_self, hguest]
    · rw [State.setCtx_ctx_ne _ _ hij]
  have hwaiter := State.feWaiter_eq (s := s) (t := s.setCtx k c y) (fun i => s.setCtx_core k c i y) (fun _ _ => rfl) hguests
  simp only [State.feWaiters, hwaiter, List.mem_flatMap, List.mem_filter, List.mem_filterMap] at hu ⊢
  obtain ⟨e, ⟨he, hcl⟩, x, hx, hw⟩ := hu
  rcases Sparse.mem_put _ _ _ _ he with rfl | hold
  · rcases Sparse.mem_put _ _ _ _ hx with rfl | hctx
    · simp [State.feWaiter, hy] at hw
    · cases hfind : s.cores.find k with
      | none =>
        have hnil : (s.core k).ctxs = [] := by simp [State.core, Sparse.get, hfind]
        rw [hnil] at hctx
        cases hctx
      | some core =>
        have hcore : s.core k = core := by simp [State.core, Sparse.get, hfind]
        exact ⟨(k, core), ⟨Sparse.mem_of_find hfind, hcl⟩, x, hcore ▸ hctx, hw⟩
  · exact ⟨e, ⟨hold, hcl⟩, x, hx, hw⟩

/-! ### A granule becomes full (05 R101) -/

section
variable {s : State} {cl b g : Nat}

theorem State.feReaders_of_no_reader (h : ∀ w ∈ s.feWaiters cl b g, w.form.take = true) : s.feReaders cl b g = s := by
  have hnone : (s.feWaiters cl b g).filter (fun w => !w.form.take) = [] :=
    List.filter_eq_nil_iff.mpr fun w hw => by simp [h w hw]
  rw [State.feReaders, hnone, List.foldl_nil]

theorem State.feTaker_of_no_taker (h : ∀ w ∈ s.feWaiters cl b g, w.form.take = false) : s.feTaker cl b g = s := by
  have hnone : (s.feWaiters cl b g).filter (fun w => w.form.take && !s.feLate w) = [] :=
    List.filter_eq_nil_iff.mpr fun w hw => by simp [h w hw]
  rw [State.feTaker, hnone]
  rfl

theorem State.feFilled_of_none (h : s.feWaiters cl b g = []) (was : Bool) : s.feFilled cl b g was = s := by
  unfold State.feFilled
  rw [State.feReaders_of_no_reader (by simp [h]), State.feTaker_of_no_taker (by simp [h]), h]
  cases was <;> simp

/-- A granule on which nothing waits is set full, and that is all. -/
theorem State.setFullBit_of_none (h : s.feWaiters cl b g = []) :
    s.setFullBit cl b g true = s.setBank cl b ((s.bank cl b).setFull g true) := by
  have hnone : (s.setBank cl b ((s.bank cl b).setFull g true)).feWaiters cl b g = [] :=
    (State.setBank_feWaiters (x := (s.bank cl b).setFull g true) rfl cl b g).trans h
  simp only [State.setFullBit, if_true, State.feFilled_of_none hnone]

/-- The context of a waiter that has completed with the bytes of a granule. -/
def State.feCompleted (s : State) (v : Granule) (w : FeWaiter) : Ctx :=
  let y := s.ctx w.core w.ctx
  ((ptrAfter w.form.operand y w.form.size.bytes).setA
    (granuleRead v (byteInGranule (eaOf w.form.operand y)) w.form.size.bytes)).advance

theorem State.feCompleted_hold (s : State) (v : Granule) (w : FeWaiter) : (s.feCompleted v w).hold = none := rfl

theorem State.feCompleted_guest (s : State) (v : Granule) (w : FeWaiter) :
    (s.feCompleted v w).guest = (s.ctx w.core w.ctx).guest := rfl

theorem State.feComplete_in_time {w : FeWaiter} (h : s.feLate w = false) (v : Granule) :
    s.feComplete v w = s.setCtx w.core w.ctx (s.feCompleted v w) := by
  simp [State.feComplete, State.feCompleted, h]

section
variable {w : FeWaiter} (hw : s.feWaiters cl b g = [w]) (hlate : s.feLate w = false)
include hw hlate

/-- A waiting load that leaves its granule full completes, and nothing waits there any more. -/
theorem State.feFilled_reader (hp : (s.bank cl b).isPoison g = false) (htake : w.form.take = false) :
    s.feFilled cl b g false = s.setCtx w.core w.ctx (s.feCompleted ((s.bank cl b).granule g) w) := by
  have hreaders : s.feReaders cl b g = s.setCtx w.core w.ctx (s.feCompleted ((s.bank cl b).granule g) w) := by
    simp [State.feReaders, hw, htake, State.feComplete_in_time hlate]
  have hleft : ∀ u ∈ (s.setCtx w.core w.ctx (s.feCompleted ((s.bank cl b).granule g) w)).feWaiters cl b g, u.form.take = false := by
    intro u hu
    have hmem := State.mem_feWaiters_setCtx (s.feCompleted_hold ..) (s.feCompleted_guest ..) hu
    rw [hw, List.mem_singleton] at hmem
    rw [hmem, htake]
  simp [State.feFilled, hp, hreaders, State.feTaker_of_no_taker hleft]

/-- A waiting `.c` form completes and empties its granule. -/
theorem State.feFilled_taker (hp : (s.bank cl b).isPoison g = false) (htake : w.form.take = true) :
    s.feFilled cl b g false = (s.setCtx w.core w.ctx (s.feCompleted ((s.bank cl b).granule g) w)).setBank cl b
      ((s.bank cl b).setFull g false) := by
  have hreaders : s.feReaders cl b g = s := State.feReaders_of_no_reader (by simp [hw, htake])
  simp [State.feFilled, hp, hreaders, State.feTaker, hw, htake, hlate, feFirst, State.feComplete_in_time hlate]

/-- The one waiter of a granule that becomes full completes with its bytes, and the granule stays full unless it is a `.c`
form. -/
theorem State.feFilled_one (hp : (s.bank cl b).isPoison g = false) :
    let t := s.feFilled cl b g false
    t.bank cl b = (if w.form.take then (s.bank cl b).setFull g false else s.bank cl b) ∧
      t.ctx w.core w.ctx = s.feCompleted ((s.bank cl b).granule g) w ∧ t.cur = s.cur := by
  cases htake : w.form.take with
  | false =>
    rw [State.feFilled_reader hw hlate hp htake]
    exact ⟨rfl, State.setCtx_ctx_self .., rfl⟩
  | true =>
    rw [State.feFilled_taker hw hlate hp htake]
    exact ⟨State.setBank_bank_self .., State.setCtx_ctx_self .., rfl⟩

end

end

/-! ### What is asked of a state whose context issues -/

theorem State.timedOut_of_issues {s : State} {m : Adm} (h : s.issues m) : s.timedOut = false := by
  simp [State.timedOut, h.2]

/-- An instruction held for the first time counts its bound from now. -/
theorem finish_wait {s : State} {m : Adm} (h : s.issues m) (i : Instr) (p : Phase) : finish i (.wait p s) =
    .next (s.setMe { s.me with hold := some { instr := i, since := s.cyc.toNat, phase := p } }) := by
  simp [finish, h.2]

/-! ### Waiting loads -/

section
variable {s : State} {z : Size} {m : MemOp 12} {b : Nat} {adm : Adm} (hissues : s.issues adm)
include hissues

/-- A load of an empty granule is held (05 R99). -/
theorem State.feTake_empty {ea : Addr} (hfull : (s.bank (clusOf s.k) b).isFull (granuleOf ea) = false) (i : Instr) (take : Bool)
    (y1 : Ctx) : s.feTake i take z ea b y1 = .wait (.poll (ea.setWidth 64)) s := by
  simp [State.feTake, State.timedOut_of_issues hissues, hfull]

section
variable {ea : Addr} (hfull : (s.bank (clusOf s.k) b).isFull (granuleOf ea) = true)
  (hp : (s.bank (clusOf s.k) b).isPoison (granuleOf ea) = false) (i : Instr) (y1 : Ctx)
include hfull hp

/-- A load of a full granule ends with its bytes. -/
theorem State.feTake_full : s.feTake i false z ea b y1 = s.retire
    (y1.setA (granuleRead ((s.bank (clusOf s.k) b).granule (granuleOf ea)) (byteInGranule ea) z.bytes)) := by
  simp [State.feTake, State.timedOut_of_issues hissues, hfull, hp]

/-- Its `.c` form empties the granule too. -/
theorem State.feTake_full_take (hnone : s.feWaiters (clusOf s.k) b (granuleOf ea) = []) : s.feTake i true z ea b y1 =
    (s.setBank (clusOf s.k) b ((s.bank (clusOf s.k) b).setFull (granuleOf ea) false)).retire
      (y1.setA (granuleRead ((s.bank (clusOf s.k) b).granule (granuleOf ea)) (byteInGranule ea) z.bytes)) := by
  have hreaders : s.feReaders (clusOf s.k) b (granuleOf ea) = s := State.feReaders_of_no_reader (by simp [hnone])
  simp [State.feTake, State.timedOut_of_issues hissues, hfull, hp, State.olderTaker, hnone, hreaders]

end

section
variable {i ic : Instr} {y1 : Ctx}

/-- What the two forms of a waiting load do at a full granule. -/
theorem exec_feTake_full (ha : aligned (eaOf m s.me) z.bytes = true)
    (hp : (s.bank (clusOf s.k) b).isPoison (granuleOf (eaOf m s.me)) = false)
    (hi : exec i s = finish i (s.feTake i false z (eaOf m s.me) b y1))
    (hic : exec ic s = finish ic (s.feTake ic true z (eaOf m s.me) b y1))
    (hfull : (s.bank (clusOf s.k) b).isFull (granuleOf (eaOf m s.me)) = true) :
    (∃ v, Loaded z false (fun j => (s.bank (clusOf s.k) b).byte (offsetOf (eaOf m s.me) + j)) v ∧
        exec i s = .next (s.setMe (y1.setA v).advance)) ∧
      (s.feWaiters (clusOf s.k) b (granuleOf (eaOf m s.me)) = [] → ∃ t v,
        Loaded z false (fun j => (s.bank (clusOf s.k) b).byte (offsetOf (eaOf m s.me) + j)) v ∧ exec ic s = .next t ∧
        t.me = (y1.setA v).advance ∧ s.onlyMeAndBank t b ∧
        t.bank (clusOf s.k) b = (s.bank (clusOf s.k) b).setFull (granuleOf (eaOf m s.me)) false) := by
  have hload := loaded_bank ha (s.bank (clusOf s.k) b) false
  refine ⟨⟨_, hload, ?_⟩, fun hnone => ⟨_, _, hload, ?_, s.setBank_setMe_leaves b _ _⟩⟩
  · rw [hi, State.feTake_full hissues hfull hp]
    rfl
  · rw [hic, State.feTake_full_take hissues hfull hp _ _ hnone]
    rfl

/-- Held at an empty granule. -/
theorem exec_feTake_empty {take : Bool} (hi : exec i s = finish i (s.feTake i take z (eaOf m s.me) b y1))
    (hfull : (s.bank (clusOf s.k) b).isFull (granuleOf (eaOf m s.me)) = false) :
    ∃ h, exec i s = .next (s.setMe { s.me with hold := some { instr := i, since := s.cyc.toNat, phase := .poll h } }) := by
  rw [hi, State.feTake_empty hissues hfull, finish_wait hissues]
  exact ⟨_, rfl⟩

end

end

section
variable {s : State} {z : Size} {m : MemOp 12} {b : Nat} (ha : aligned (eaOf m s.me) z.bytes = true)
include ha

theorem feLoadL_reaches (hissues : s.issues (admL false)) (h : s.reachesL (eaOf m s.me) b) (i : Instr) (take : Bool) :
    feLoadL i take z m s = finish i (s.feTake i take z (eaOf m s.me) b (ptrAfter m s.me z.bytes)) := by
  obtain ⟨hin, hattached, hbank, -⟩ := h
  unfold feLoadL
  rw [run_issues _ _ _ _ _ hissues]
  simp [State.aligned, ha, hin, State.lBank_attached _ _ _ _ hattached, hbank]

theorem feLoadC_reaches (hissues : s.issues admC) (h : s.reachesC (eaOf m s.me) b) (i : Instr) (take : Bool) :
    feLoadC i take z m s = finish i (s.feTake i take z (eaOf m s.me) b (ptrAfter m s.me z.bytes)) := by
  unfold feLoadC
  rw [run_issues _ _ _ _ _ hissues]
  simp [State.aligned, ha, h.1]

/-- Out of range the L forms give 0 at once (05 R99). -/
theorem feLoadL_out (hissues : s.issues (admL false)) (hout : outOfRange (eaOf m s.me) = true) (i : Instr) (take : Bool) :
    feLoadL i take z m s = .next (s.setMe (((ptrAfter m s.me z.bytes).noteRange (eaOf m s.me)).setA 0).advance) := by
  unfold feLoadL
  rw [run_issues _ _ _ _ _ hissues]
  simp [State.aligned, ha, hout]

end

/-! ### Stores that fill their granule -/

/-- A bank in which a store has been performed, and its granule set full. -/
def Bank.filled (bk : Bank) (ea : Addr) (z : Size) (v : Word) : Bank :=
  (bk.setGranule (granuleOf ea) (granuleWrite (bk.granule (granuleOf ea)) (byteInGranule ea) z.bytes v)).setFull (granuleOf ea) true

theorem Bank.filled_storedTo {ea : Addr} {z : Size} (h : aligned ea z.bytes = true) (bk : Bank) (v : Word) :
    bk.storedTo { bk.filled ea z v with full := bk.full } (offsetOf ea) z.bytes v := storedTo_bank h bk v

theorem State.setFullBit_true (s : State) (cl b g : Nat) : s.setFullBit cl b g true =
    (s.setBank cl b ((s.bank cl b).setFull g true)).feFilled cl b g ((s.bank cl b).isFull g) := by
  simp only [State.setFullBit, if_true]

/-- A store that is performed and sets its granule full (05 R99). -/
theorem State.store_setFullBit (s : State) (cl b : Nat) (ea : Addr) (z : Size) (v : Word) :
    (s.setBank cl b ((s.bank cl b).setGranule (granuleOf ea) (granuleWrite ((s.bank cl b).granule (granuleOf ea))
      (byteInGranule ea) z.bytes v))).setFullBit cl b (granuleOf ea) true =
    (s.setBank cl b ((s.bank cl b).filled ea z v)).feFilled cl b (granuleOf ea) ((s.bank cl b).isFull (granuleOf ea)) := by
  rw [State.setFullBit_true, State.setBank_bank_self, State.setBank_setBank]
  rfl

theorem State.filled_feWaiters (s : State) (cl b g : Nat) (ea : Addr) (z : Size) (v : Word) :
    (s.setBank cl b ((s.bank cl b).filled ea z v)).feWaiters cl b g = s.feWaiters cl b g :=
  State.setBank_feWaiters (x := (s.bank cl b).filled ea z v) rfl cl b g

section
variable {s : State} {z : Size} {m : MemOp 12} {b : Nat} (ha : aligned (eaOf m s.me) z.bytes = true)
include ha

theorem exec_stlf_writes (hissues : s.issues (admL false)) (h : s.reachesL (eaOf m s.me) b) : exec (.stlf z m) s =
    .next (((s.setBank (clusOf s.k) b ((s.bank (clusOf s.k) b).filled (eaOf m s.me) z s.me.a)).feFilled (clusOf s.k) b
      (granuleOf (eaOf m s.me)) ((s.bank (clusOf s.k) b).isFull (granuleOf (eaOf m s.me)))).setMe
        (ptrAfter m s.me z.bytes).advance) := by
  have hin : outOfRange (eaOf m s.me) = false := h.1
  have hbank : (s.slot s.k (slotOfAddr (eaOf m s.me))).bank = b := h.2.2.1
  show execStlf z m s = _
  unfold execStlf
  rw [run_issues _ _ _ _ _ hissues, ← State.store_setFullBit]
  simp [State.aligned, ha, s.lWrite_reaches _ _ _ _ _ h, Ctx.noteRange_inside _ _ hin, hin, hbank]

theorem exec_stcf_writes (hissues : s.issues admC) (h : s.reachesC (eaOf m s.me) b) (hb : (eaOf m s.me).toNat / 4096 = b) :
    exec (.stcf z m) s =
    .next ((((s.setBank (clusOf s.k) b ((s.bank (clusOf s.k) b).filled (eaOf m s.me) z s.me.a)).feFilled (clusOf s.k) b
      (granuleOf (eaOf m s.me)) ((s.bank (clusOf s.k) b).isFull (granuleOf (eaOf m s.me)))).setMe
        (ptrAfter m s.me z.bytes).advance).latchBank (clusOf s.k) b) := by
  show execStcf z m s = _
  unfold execStcf
  rw [run_issues _ _ _ _ _ hissues, ← State.store_setFullBit]
  simp [State.aligned, ha, s.cWrite_reaches _ _ _ _ h, hb]

end

/-- The bank that a C access reaches is the one its address names (05 R91). -/
theorem State.cBank_ok {s : State} {k v b : Nat} {ea : Addr} (h : s.cBank k v ea = .ok b) : ea.toNat / 4096 = b := by
  unfold State.cBank at h
  dsimp only at h
  split at h
  · cases h
  split at h
  · split at h
    · split at h
      · cases h
      · cases h
        rfl
    · cases h
  · cases h

/-! ### The latch of the holder (11 R215) -/

/-- The values of a map changed: a listed key reads as the changed value. -/
theorem Sparse.find_map_values {α : Type} (m : Sparse α) (f : Nat → α → α) (k : Nat) :
    Sparse.find (m.map fun e => (e.1, f e.1 e.2)) k = (m.find k).map (f k) := by
  induction m with
  | nil => rfl
  | cons e t ih =>
    obtain ⟨j, x⟩ := e
    rw [List.map_cons, Sparse.find_cons, Sparse.find_cons, ih]
    by_cases hj : j = k
    · rw [if_pos hj, if_pos hj, hj]
      rfl
    · rw [if_neg hj, if_neg hj]

/-- A latch set throughout a core leaves each context as it was, or latches it. -/
theorem Core.latch_ctx (x : Core) (l : BitVec 4) (cyc k c : Nat) :
    (x.latch l cyc).ctx k c = x.ctx k c ∨ (x.latch l cyc).ctx k c = (x.ctx k c).latch l cyc := by
  have hmap : (x.latch l cyc).ctxs = x.ctxs.map fun e => (e.1, if e.2.guest.isSome then e.2 else e.2.latch l cyc) := by
    refine List.map_congr_left fun e _ => ?_
    split <;> rfl
  have hfind : (x.latch l cyc).ctxs.find c = (x.ctxs.find c).map fun y => if y.guest.isSome then y else y.latch l cyc :=
    (congrArg (Sparse.find · c) hmap).trans (Sparse.find_map_values x.ctxs (fun _ y => if y.guest.isSome then y else y.latch l cyc) c)
  unfold Core.ctx Sparse.get
  rw [hfind]
  cases x.ctxs.find c with
  | none => exact .inl rfl
  | some y =>
    cases hy : y.guest.isSome with
    | true => simp [hy]
    | false => simp [hy]

/-- A context that holds no instruction is latched, and no more. -/
theorem Ctx.latch_of_no_hold {y : Ctx} (h : y.hold = none) (l : BitVec 4) (cyc : Nat) :
    y.latch l cyc = { y with latches := y.latches ||| l } := by
  simp [Ctx.latch, h]

theorem State.latchBank_bank (s : State) (cl b i j : Nat) : (s.latchBank cl b).bank i j = s.bank i j := by
  unfold State.latchBank
  split <;> rfl

/-- The latch of a bank's holder leaves the executing context, which holds no instruction, as it was but for its latches. -/
theorem State.latchBank_me {s : State} (h : s.me.hold = none) (cl b : Nat) :
    ∃ l, (s.latchBank cl b).me = { s.me with latches := l } := by
  have hlatch (j : Nat) : ∃ l, (s.latchCore j 2).me = { s.me with latches := l } := by
    by_cases hj : s.k = j
    · have hme : (s.latchCore j 2).me = ((s.core s.k).latch 2 s.cyc.toNat).ctx s.k s.c := by
        subst hj
        exact congrArg (Core.ctx · s.k s.c) (s.setCore_core_self s.k _)
      rcases (s.core s.k).latch_ctx 2 s.cyc.toNat s.k s.c with hkeep | hset
      · exact ⟨_, hme.trans hkeep⟩
      · exact ⟨_, (hme.trans hset).trans (Ctx.latch_of_no_hold h ..)⟩
    · exact ⟨_, congrArg (Core.ctx · s.k s.c) (s.setCore_core_ne _ hj)⟩
  unfold State.latchBank
  split
  · exact hlatch _
  · exact ⟨_, rfl⟩

/-! ### The bit of a granule -/

section
variable {s : State} {m : MemOp 12} {b : Nat} (hissues : s.issues (admL false))
include hissues

theorem feBit_reaches (h : s.reachesL (eaOf m s.me) b) (i : Instr) (f : State → Nat → Addr → Ctx → Act) :
    feBit i m s f = finish i (f s b (eaOf m s.me) (ptrAfter m s.me 1)) := by
  obtain ⟨hin, hattached, hbank, -⟩ := h
  unfold feBit
  rw [run_issues _ _ _ _ _ hissues]
  simp [hin, State.lBank_attached _ _ _ _ hattached, hbank, Ctx.noteRange_inside _ _ hin]

theorem feBit_out (h : outOfRange (eaOf m s.me) = true) (i : Instr) (f : State → Nat → Addr → Ctx → Act) :
    feBit i m s f = finish i (f s 0x3FF (eaOf m s.me) ((ptrAfter m s.me 1).noteRange (eaOf m s.me))) := by
  unfold feBit
  rw [run_issues _ _ _ _ _ hissues]
  simp [h]

end

/-! ### Each form at its granule -/

section
variable {s : State} {z : Size} {m : MemOp 12} {b : Nat} (ha : aligned (eaOf m s.me) z.bytes = true)
include ha

/-- A store that fills a granule on which nothing waits. -/
theorem exec_stlf_alone (hissues : s.issues (admL false)) (h : s.reachesL (eaOf m s.me) b)
    (hnone : s.feWaiters (clusOf s.k) b (granuleOf (eaOf m s.me)) = []) :
    ∃ t, exec (.stlf z m) s = .next t ∧ t.me = (ptrAfter m s.me z.bytes).advance ∧ s.onlyMeAndBank t b ∧
      t.bank (clusOf s.k) b = (s.bank (clusOf s.k) b).filled (eaOf m s.me) z s.me.a := by
  rw [exec_stlf_writes ha hissues h, State.feFilled_of_none ((s.filled_feWaiters ..).trans hnone)]
  exact ⟨_, rfl, s.setBank_setMe_leaves b _ _⟩

theorem exec_stcf_alone (hissues : s.issues admC) (h : s.reachesC (eaOf m s.me) b)
    (hnone : s.feWaiters (clusOf s.k) b (granuleOf (eaOf m s.me)) = []) :
    ∃ t, exec (.stcf z m) s = .next t ∧ t.me.a = s.me.a ∧ s.me.went t.me m z.bytes ∧
      t.bank (clusOf s.k) b = (s.bank (clusOf s.k) b).filled (eaOf m s.me) z s.me.a := by
  rw [exec_stcf_writes ha hissues h (State.cBank_ok h.1), State.feFilled_of_none ((s.filled_feWaiters ..).trans hnone)]
  obtain ⟨hme, -, hbank⟩ := s.setBank_setMe_leaves b ((s.bank (clusOf s.k) b).filled (eaOf m s.me) z s.me.a)
    (ptrAfter m s.me z.bytes).advance
  obtain ⟨l, hlatch⟩ := State.latchBank_me (congrArg Ctx.hold hme) (clusOf s.k) b
  rw [hme] at hlatch
  refine ⟨_, rfl, (congrArg Ctx.a hlatch :), ?_, (State.latchBank_bank ..).trans hbank⟩
  rw [hlatch]
  exact s.me.went_ptrAfter m z.bytes

/-- A store that fills a granule on which one context waits completes the load of that context. -/
theorem exec_stlf_serves (hissues : s.issues (admL false)) (h : s.reachesL (eaOf m s.me) b) {w : FeWaiter}
    (hempty : (s.bank (clusOf s.k) b).isFull (granuleOf (eaOf m s.me)) = false)
    (hw : s.feWaiters (clusOf s.k) b (granuleOf (eaOf m s.me)) = [w]) (hother : (w.core, w.ctx) ≠ s.cur)
    (hlate : s.feLate w = false) :
    ∃ t, exec (.stlf z m) s = .next t ∧ t.me = (ptrAfter m s.me z.bytes).advance ∧
      t.ctx w.core w.ctx =
        s.feCompleted (((s.bank (clusOf s.k) b).filled (eaOf m s.me) z s.me.a).granule (granuleOf (eaOf m s.me))) w ∧
      t.bank (clusOf s.k) b = if w.form.take then
          ((s.bank (clusOf s.k) b).filled (eaOf m s.me) z s.me.a).setFull (granuleOf (eaOf m s.me)) false
        else (s.bank (clusOf s.k) b).filled (eaOf m s.me) z s.me.a := by
  have hpoison : (s.bank (clusOf s.k) b).isPoison (granuleOf (eaOf m s.me)) = false := h.2.2.2
  let u := s.setBank (clusOf s.k) b ((s.bank (clusOf s.k) b).filled (eaOf m s.me) z s.me.a)
  have hbanku : u.bank (clusOf s.k) b = (s.bank (clusOf s.k) b).filled (eaOf m s.me) z s.me.a := State.setBank_bank_self ..
  have hp : (u.bank (clusOf s.k) b).isPoison (granuleOf (eaOf m s.me)) = false := by
    rw [hbanku]
    exact hpoison
  obtain ⟨hbank, hctx, hcur⟩ := State.feFilled_one (s := u) ((s.filled_feWaiters ..).trans hw) hlate hp
  rw [hbanku] at hbank hctx
  rw [exec_stlf_writes ha hissues h, hempty]
  refine ⟨_, rfl, ?_, ?_, ?_⟩
  · exact State.setMe_me ..
  · exact (State.setMe_ctx_ne _ _ (hcur ▸ hother)).trans hctx
  · exact hbank

end

section
variable {s : State} {m : MemOp 12} {b : Nat} (hissues : s.issues (admL false)) (h : s.reachesL (eaOf m s.me) b)
include hissues h

theorem exec_feset_alone (hnone : s.feWaiters (clusOf s.k) b (granuleOf (eaOf m s.me)) = []) :
    ∃ t, exec (.feset m) s = .next t ∧ t.me = (ptrAfter m s.me 1).advance ∧ s.onlyMeAndBank t b ∧
      t.bank (clusOf s.k) b = (s.bank (clusOf s.k) b).setFull (granuleOf (eaOf m s.me)) true := by
  have hin : outOfRange (eaOf m s.me) = false := h.1
  have hrun : exec (.feset m) s = .next ((s.setBank (clusOf s.k) b
      ((s.bank (clusOf s.k) b).setFull (granuleOf (eaOf m s.me)) true)).setMe (ptrAfter m s.me 1).advance) := by
    show execFeset m s = _
    rw [execFeset, feBit_reaches hissues h, hin, if_neg Bool.false_ne_true, State.setFullBit_of_none hnone]
    rfl
  exact ⟨_, hrun, s.setBank_setMe_leaves b _ _⟩

theorem exec_feclr_clears : ∃ t, exec (.feclr m) s = .next t ∧ t.me = (ptrAfter m s.me 1).advance ∧ s.onlyMeAndBank t b ∧
      t.bank (clusOf s.k) b = (s.bank (clusOf s.k) b).setFull (granuleOf (eaOf m s.me)) false := by
  have hin : outOfRange (eaOf m s.me) = false := h.1
  have hrun : exec (.feclr m) s = .next ((s.setBank (clusOf s.k) b
      ((s.bank (clusOf s.k) b).setFull (granuleOf (eaOf m s.me)) false)).setMe (ptrAfter m s.me 1).advance) := by
    show execFeclr m s = _
    rw [execFeclr, feBit_reaches hissues h, hin, if_neg Bool.false_ne_true]
    rfl
  exact ⟨_, hrun, s.setBank_setMe_leaves b _ _⟩

theorem exec_fetst_reads : ∃ t, exec (.fetst m) s = .next t ∧ s.onlyMe t ∧
      t.me.a = (if (s.bank (clusOf s.k) b).isFull (granuleOf (eaOf m s.me)) then 1 else 0) ∧
      t.me.flag stZ = !(s.bank (clusOf s.k) b).isFull (granuleOf (eaOf m s.me)) ∧ t.me.flag stN = false ∧
      t.me.pc = s.me.pc + 4 := by
  have hin : outOfRange (eaOf m s.me) = false := h.1
  let f := (s.bank (clusOf s.k) b).isFull (granuleOf (eaOf m s.me))
  let y1 := ((((ptrAfter m s.me 1).setFlag stZ (!f)).setFlag stN false).setA (BitVec.ofNat 64 (bitNat f))).advance
  have hrun : exec (.fetst m) s = .next (s.setMe y1) := by
    show execFetst m s = _
    rw [execFetst, feBit_reaches hissues h, hin]
    rfl
  refine ⟨_, hrun, s.setMe_leaves y1, ?_⟩
  rw [State.setMe_me]
  refine ⟨?_, ?_, Ctx.setFlag_flag_self _ _ (by decide), rfl⟩
  · show BitVec.ofNat 64 (bitNat f) = if f then 1 else 0
    cases f <;> rfl
  · calc y1.flag stZ
        = ((ptrAfter m s.me 1).setFlag stZ (!f)).flag stZ := Ctx.setFlag_flag_ne _ _ (by decide)
      _ = !f := Ctx.setFlag_flag_self _ _ (by decide)

end

section
variable {s : State} {m : MemOp 12} (hissues : s.issues (admL false)) (hout : outOfRange (eaOf m s.me) = true)
include hissues hout

theorem exec_feset_out :
    exec (.feset m) s = .next (s.setMe ((ptrAfter m s.me 1).noteRange (eaOf m s.me)).advance) := by
  show execFeset m s = _
  rw [execFeset, feBit_out hissues hout, if_pos hout]
  rfl

theorem exec_feclr_out :
    exec (.feclr m) s = .next (s.setMe ((ptrAfter m s.me 1).noteRange (eaOf m s.me)).advance) := by
  show execFeclr m s = _
  rw [execFeclr, feBit_out hissues hout, if_pos hout]
  rfl

theorem exec_fetst_out : ∃ t, exec (.fetst m) s = .next t ∧ t.me.a = 0 ∧ t.me.flag stZ = true := by
  let y1 := (((((ptrAfter m s.me 1).noteRange (eaOf m s.me)).setFlag stZ true).setFlag stN false).setA 0).advance
  have hrun : exec (.fetst m) s = .next (s.setMe y1) := by
    show execFetst m s = _
    rw [execFetst, feBit_out hissues hout]
    simp only [hout]
    rfl
  refine ⟨_, hrun, ?_⟩
  rw [State.setMe_me]
  refine ⟨rfl, ?_⟩
  calc y1.flag stZ
      = (((ptrAfter m s.me 1).noteRange (eaOf m s.me)).setFlag stZ true).flag stZ := Ctx.setFlag_flag_ne _ _ (by decide)
    _ = true := Ctx.setFlag_flag_self _ _ (by decide)

end

/-- Settles O36: each form by the granule that it reaches; a granule that becomes full serves its one waiter. -/
theorem fullEmptyAccesses : Obligations.FullEmptyAccesses := by
  intro s z m b y ea y1 cl g bk byte setBit take waits
  refine ⟨fun hissues ha h => ?_, fun hissues ha h => ?_, fun hissues h => ?_, fun hissues hout => ?_⟩
  · have hp : bk.isPoison g = false := h.2.2.2
    have hload := feLoadL_reaches ha hissues h
    refine ⟨exec_feTake_full hissues ha hp (hload ..) (hload ..), exec_feTake_empty hissues (hload ..),
      exec_feTake_empty hissues (hload ..), fun hnone => ?_, fun w hempty hw hother hlate => ?_⟩
    · obtain ⟨t, hrun, hme, honly, hbank⟩ := exec_stlf_alone ha hissues h hnone
      refine ⟨t, hrun, hme, honly, ?_⟩
      rw [hbank]
      exact ⟨Bank.filled_storedTo ha bk y.a, rfl⟩
    · dsimp only
      intro hgranule haw
      obtain ⟨t, hrun, hme, hctx, hbank⟩ := exec_stlf_serves ha hissues h hempty hw hother hlate
      have hloaded := loaded_bank haw (bk.filled ea z y.a) false
      rw [hgranule] at hloaded
      refine ⟨t, _, hrun, hme, ?_, hctx, ?_⟩
      all_goals rw [hbank]
      · cases w.form.take with
        | false => exact hloaded
        | true => exact hloaded
      · cases w.form.take with
        | false => exact ⟨Bank.filled_storedTo ha bk y.a, Bank.setFull_isFull _ _ (granuleOf_lt ea)⟩
        | true => exact ⟨Bank.filled_storedTo ha bk y.a, Bank.setFull_isFull _ _ (granuleOf_lt ea)⟩
  · have hload := feLoadC_reaches ha hissues h
    refine ⟨exec_feTake_full hissues ha h.2 (hload ..) (hload ..), exec_feTake_empty hissues (hload ..),
      exec_feTake_empty hissues (hload ..), fun hnone => ?_⟩
    obtain ⟨t, hrun, hkeepA, hwent, hbank⟩ := exec_stcf_alone ha hissues h hnone
    refine ⟨t, hrun, hkeepA, hwent, ?_⟩
    rw [hbank]
    exact ⟨Bank.filled_storedTo ha bk y.a, rfl⟩
  · exact ⟨exec_feset_alone hissues h, exec_feclr_clears hissues h, exec_fetst_reads hissues h⟩
  · exact ⟨fun ha => ⟨feLoadL_out ha hissues hout .., feLoadL_out ha hissues hout ..⟩, exec_feset_out hissues hout,
      exec_feclr_out hissues hout, exec_fetst_out hissues hout⟩

end Sys2Proof.Machine
end

section
/-! Atomics of G and C space (O37): the old value goes to A and the new one to memory (05 R103, R104, Table 5-8). -/

namespace Sys2Proof.Machine

/-! ### Values of a size -/

theorem lowBytes_toNat (v : Word) (z : Size) : (lowBytes v z.bytes).toNat = v.toNat % 256 ^ z.bytes := by
  have hmask : (2 ^ (8 * z.bytes) - 1) % 2 ^ 64 = 2 ^ (8 * z.bytes) - 1 := by cases z <;> decide
  rw [lowBytes, BitVec.toNat_and, BitVec.toNat_ofNat, hmask, Nat.and_two_pow_sub_one_eq_mod, pow_bytes]

theorem pow_bytes_dvd (z : Size) : 256 ^ z.bytes ∣ 2 ^ 64 := by cases z <;> decide

/-- A sum of words and the sum of their numbers agree in their low bytes. -/
theorem add_toNat_mod (v w : Word) (z : Size) : (v + w).toNat % 256 ^ z.bytes = (v.toNat + w.toNat) % 256 ^ z.bytes := by
  rw [BitVec.toNat_add, Nat.mod_mod_of_dvd _ (pow_bytes_dvd z)]

/-- The signed value of `n` bytes. -/
def signedNat (n v : Nat) : Int := if v < 256 ^ n / 2 then (v : Int) else (v : Int) - 256 ^ n

/-- A value of an atomic's size, read as signed. -/
theorem extend_toInt (d : Bool) {v : Word} (h : v.toNat < 256 ^ (amoSize d).bytes) :
    (extend true (amoSize d) v).toInt = signedNat (amoSize d).bytes v.toNat := by
  cases d with
  | false =>
    have hsmall : v.toNat < 2 ^ 32 := h
    have hbits : (bits v 0 32).toNat = v.toNat := by
      rw [BitVec.extractLsb'_toNat, Nat.shiftRight_zero, Nat.mod_eq_of_lt hsmall]
    have hext : (extend true (amoSize false) v).toInt = (bits v 0 32).toInt := BitVec.toInt_signExtend_of_le (by decide)
    rw [hext, BitVec.toInt_eq_toNat_cond, hbits]
    simp only [signedNat, amoSize, Size.bytes]
    norm_num
    split <;> split <;> omega
  | true =>
    have hext : extend true (amoSize true) v = v := rfl
    rw [hext, BitVec.toInt_eq_toNat_cond]
    simp only [signedNat, amoSize, Size.bytes]
    norm_num
    split <;> split <;> omega

theorem signedLess_eq (d : Bool) {v w : Word} (hv : v.toNat < 256 ^ (amoSize d).bytes) (hw : w.toNat < 256 ^ (amoSize d).bytes) :
    signedLess (amoSize d) v w = decide (signedNat (amoSize d).bytes v.toNat < signedNat (amoSize d).bytes w.toNat) := by
  rw [signedLess, extend_toInt d hv, extend_toInt d hw]

/-! ### A write at a slice -/

/-- A change of memory alone keeps banks, slots and contexts. -/
theorem State.keepsL_of_memory {s t : State} (h : t.withMemoryOf s = s) : s.keepsL t :=
  ⟨fun cl b => (congrArg (State.bank · cl b) h :), fun k n => (congrArg (State.slot · k n) h :),
    fun k c _ => (congrArg (State.ctx · k c) h :)⟩

/-- A request whose function stores, served: its bytes at its physical address are those of the function. -/
theorem State.serve_stores {s : State} {r : Request} {f : Word → Word → Word} (h : s.serveFails r = none)
    (hf : (accessOf r.instr).fn = some f) (hcmp : (accessOf r.instr).cas = true → s.oldValue r = r.cmp) :
    (s.serve r).1.mem = Memory.writeN s.mem r.pa (lowBytes (f (s.oldValue r) r.a) (accessOf r.instr).size.bytes).toNat
      (accessOf r.instr).size.bytes := by
  unfold State.serve
  simp only [h, hf]
  split
  · rename_i hdiffers
    simp only [Bool.and_eq_true, bne_iff_ne, ne_eq] at hdiffers
    exact absurd (hcmp hdiffers.1) hdiffers.2
  · rw [State.noteThrough_mem, State.gStore_mem]
    rfl

/-- A compare-and-swap that finds another value stores nothing. -/
theorem State.serve_differs {s : State} {r : Request} {f : Word → Word → Word}
    (hf : (accessOf r.instr).fn = some f) (hcas : (accessOf r.instr).cas = true) (hcmp : s.oldValue r ≠ r.cmp) :
    (s.serve r).1 = s := by
  unfold State.serve
  split
  · rfl
  · have hdiffers : (BitVec.ofNat 64 (Memory.readN s.mem r.pa (accessOf r.instr).size.bytes) != r.cmp) = true :=
      bne_iff_ne.mpr hcmp
    simp only [hf, hcas, hdiffers, Bool.and_self, if_true]

/-! ### Atomics of G space -/

section
variable {s : State} {d : Bool} {o : Order} {sc : Scope} {m : MemOp 8} {pa : Nat}
  (h : s.reachesG false (eaOf m s.me) pa true o sc) (ha : aligned (eaOf m s.me) (amoSize d).bytes = true)
include h ha

/-- A translated atomic with nothing to wait for is sent. -/
theorem amog_sends {cas : Bool} (hm : casBad cas m = false) (i : Instr) : amog i cas d o sc m s = finish i
    ((s.touch false (eaOf m s.me)).sendRequest (s.request i false (eaOf m s.me) pa)
      fun v y => amoDone cas m y (amoSize d) v (lowBytes (y.ptr 6) (amoSize d).bytes)) := by
  obtain ⟨hb, hh, hx, hw, -⟩ := h
  unfold amog
  rw [run_goesOn hb (State.not_abandoned_of_held hh)]
  simp only [hm, Bool.false_eq_true, if_false]
  rw [State.underWay_issues hh]
  simp [State.aligned, ha, hx, hw]

/-- An atomic that reaches its slice leaves the old value in A, and banks, slots and other contexts as they were; memory is as
its slice leaves it. -/
theorem amog_served {cas : Bool} (hm : casBad cas m = false) (i : Instr) (hi : (accessOf i).fn.isSome = true)
    (hz : (accessOf i).size = amoSize d) :
    ∃ u t, s.SameButTraffic u ∧ u.serveFails (s.request i false (eaOf m s.me) pa) = none ∧ amog i cas d o sc m s = .next t ∧
      t.me = (amoDone cas m s.me (amoSize d) (Memory.word s.mem pa (amoSize d).bytes)
        (lowBytes (s.me.ptr 6) (amoSize d).bytes)).advance ∧
      t.mem = (u.serve (s.request i false (eaOf m s.me) pa)).1.mem ∧ s.keepsL t := by
  obtain ⟨u, hu, hok, hsend⟩ := State.sendRequest_reached h i
    (fun v y => amoDone cas m y (amoSize d) v (lowBytes (y.ptr 6) (amoSize d).bytes)) hi
  have hold : s.oldValue (s.request i false (eaOf m s.me) pa) = Memory.word s.mem pa (amoSize d).bytes := by
    rw [State.oldValue, ← hz]
    rfl
  have hserved : (u.serve (s.request i false (eaOf m s.me) pa)).1.withMemoryOf u = u := (State.serve_ok hok).2
  have hsample := (State.sample_same (u.serve (s.request i false (eaOf m s.me) pa)).1 (s.vdevOf s.k s.c) 0).toSameButTraffic
  have hcur : (u.serve (s.request i false (eaOf m s.me) pa)).1.cur = u.cur := (congrArg State.cur hserved :)
  refine ⟨u, _, hu, hok, (amog_sends h ha hm i).trans (congrArg (finish i) hsend), ?_, hsample.mem, ?_⟩
  · rw [State.setMe_me, hold]
  · exact State.keepsL_trans hu.keepsL hu.cur (State.keepsL_trans (State.keepsL_of_memory hserved) hcur (hsample.keepsL_setMe _))

omit h ha in
/-- What the request of an atomic carries, and the old value at a slice that has the memory of its sender. -/
theorem State.request_carries {u : State} (hu : s.SameButTraffic u) (i : Instr) (hz : (accessOf i).size = amoSize d) :
    u.oldValue (s.request i false (eaOf m s.me) pa) = Memory.word s.mem pa (amoSize d).bytes ∧
      (s.request i false (eaOf m s.me) pa).a = lowBytes s.me.a (amoSize d).bytes ∧
      (s.request i false (eaOf m s.me) pa).cmp = lowBytes (s.me.ptr 6) (amoSize d).bytes := by
  rw [State.oldValue, hu.mem, ← hz]
  exact ⟨rfl, rfl, rfl⟩

omit h ha in
/-- Memory after a write of the low bytes of a word. -/
theorem State.writes_word {t : State} {v : Word} {new : Nat}
    (hmem : t.mem = Memory.writeN s.mem pa (lowBytes v (amoSize d).bytes).toNat (amoSize d).bytes)
    (hnew : v.toNat % 256 ^ (amoSize d).bytes = new % 256 ^ (amoSize d).bytes) :
    Memory.readN t.mem pa (amoSize d).bytes = new % 256 ^ (amoSize d).bytes ∧ s.keepsG t pa (amoSize d).bytes := by
  refine ⟨?_, fun a hout => ?_⟩
  · rw [hmem, Memory.readN_writeN_self, lowBytes_toNat, Nat.mod_mod, hnew]
  · rw [hmem, Memory.read_writeN_outside _ _ _ _ hout]

/-- An atomic that stores the function of the old value and A. -/
theorem amog_stores (i : Instr) {f : Word → Word → Word} (hf : (accessOf i).fn = some f) (hcas : (accessOf i).cas = false)
    (hz : (accessOf i).size = amoSize d) {new : Nat}
    (hnew : (f (Memory.word s.mem pa (amoSize d).bytes) (lowBytes s.me.a (amoSize d).bytes)).toNat % 256 ^ (amoSize d).bytes =
      new % 256 ^ (amoSize d).bytes) :
    ∃ t, amog i false d o sc m s = .next t ∧ t.me.a.toNat = Memory.readN s.mem pa (amoSize d).bytes ∧
      s.me.went t.me m (amoSize d).bytes ∧
      Memory.readN t.mem pa (amoSize d).bytes = new % 256 ^ (amoSize d).bytes ∧ s.keepsG t pa (amoSize d).bytes ∧
      s.keepsL t := by
  obtain ⟨u, t, hu, hok, hrun, hme, hmem, hkeeps⟩ := amog_served (cas := false) h ha rfl i (by rw [hf]; rfl) hz
  have hwrite := State.serve_stores hok hf fun hc => absurd (hcas ▸ hc) Bool.false_ne_true
  obtain ⟨hold, hreqA, -⟩ := State.request_carries (m := m) (pa := pa) hu i hz
  rw [← hmem, hu.mem, hold, hreqA] at hwrite
  have hmemory : t.mem = Memory.writeN s.mem pa (lowBytes (f (Memory.word s.mem pa (amoSize d).bytes)
      (lowBytes s.me.a (amoSize d).bytes)) (amoSize d).bytes).toNat (amoSize d).bytes := by
    rw [hwrite, ← hz]
    rfl
  obtain ⟨hread, hkeepsG⟩ := State.writes_word hmemory hnew
  refine ⟨t, hrun, ?_, ?_, hread, hkeepsG, hkeeps⟩
  · rw [hme]
    exact Memory.word_toNat ..
  · rw [hme]
    exact Ctx.went_setA (s.me.went_ptrAfter ..) _

/-- A compare-and-swap stores A where the old value is that of P6. -/
theorem amogCas_swaps (hm : m.p ≠ 6) (i : Instr) (hf : (accessOf i).fn = some fun _ x => x)
    (hcas : (accessOf i).cas = true) (hz : (accessOf i).size = amoSize d) :
    ∃ t, amog i true d o sc m s = .next t ∧ t.me.a.toNat = Memory.readN s.mem pa (amoSize d).bytes ∧ t.me.pc = s.me.pc + 4 ∧
      t.me.flag stZ = decide (Memory.readN s.mem pa (amoSize d).bytes = (s.me.ptr 6).toNat % 256 ^ (amoSize d).bytes) ∧
      (∀ j, j ≠ stZ → t.me.flag j = s.me.flag j) ∧
      Memory.readN t.mem pa (amoSize d).bytes =
        (if Memory.readN s.mem pa (amoSize d).bytes = (s.me.ptr 6).toNat % 256 ^ (amoSize d).bytes then
          s.me.a.toNat % 256 ^ (amoSize d).bytes else Memory.readN s.mem pa (amoSize d).bytes) ∧
      s.keepsG t pa (amoSize d).bytes ∧ s.keepsL t := by
  have hbad : casBad true m = false := decide_eq_false hm
  obtain ⟨u, t, hu, hok, hrun, hme, hmem, hkeeps⟩ := amog_served h ha hbad i (by rw [hf]; rfl) hz
  obtain ⟨hold, hreqA, hcmp⟩ := State.request_carries (m := m) (pa := pa) hu i hz
  have hword := Memory.word_toNat s.mem pa (amoSize d)
  have hequal : Memory.word s.mem pa (amoSize d).bytes = lowBytes (s.me.ptr 6) (amoSize d).bytes ↔
      Memory.readN s.mem pa (amoSize d).bytes = (s.me.ptr 6).toNat % 256 ^ (amoSize d).bytes := by
    rw [← BitVec.toNat_inj, hword, lowBytes_toNat]
  have hflag : t.me.flag stZ = decide (Memory.readN s.mem pa (amoSize d).bytes = (s.me.ptr 6).toNat % 256 ^ (amoSize d).bytes) := by
    rw [hme]
    refine (Ctx.setFlag_flag_self _ _ (by decide)).trans ?_
    rw [beq_eq_decide]
    exact decide_eq_decide.mpr hequal
  have hflags : ∀ j, j ≠ stZ → t.me.flag j = s.me.flag j := by
    intro j hj
    rw [hme]
    exact Ctx.setFlag_flag_ne _ _ hj
  have hmemory : Memory.readN t.mem pa (amoSize d).bytes =
      (if Memory.readN s.mem pa (amoSize d).bytes = (s.me.ptr 6).toNat % 256 ^ (amoSize d).bytes then
        s.me.a.toNat % 256 ^ (amoSize d).bytes else Memory.readN s.mem pa (amoSize d).bytes) ∧
      s.keepsG t pa (amoSize d).bytes := by
    by_cases heq : Memory.word s.mem pa (amoSize d).bytes = lowBytes (s.me.ptr 6) (amoSize d).bytes
    · have hwrite := State.serve_stores hok hf fun _ => hold.trans (heq.trans hcmp.symm)
      rw [← hmem, hu.mem, hreqA] at hwrite
      have hmemory : t.mem = Memory.writeN s.mem pa
          (lowBytes (lowBytes s.me.a (amoSize d).bytes) (amoSize d).bytes).toNat (amoSize d).bytes := by
        rw [hwrite, ← hz]
        rfl
      rw [if_pos (hequal.mp heq)]
      refine State.writes_word hmemory ?_
      rw [lowBytes_toNat, Nat.mod_mod]
    · have hsame := State.serve_differs hf hcas fun hc => heq (hold.symm.trans (hc.trans hcmp))
      rw [if_neg fun hc => heq (hequal.mpr hc), hmem, hsame, hu.mem]
      exact ⟨rfl, fun a _ => by rw [hmem, hsame, hu.mem]⟩
  refine ⟨t, hrun, ?_, ?_, hflag, hflags, hmemory.1, hmemory.2, hkeeps⟩
  · rw [hme]
    exact hword
  · rw [hme]
    rfl

end

/-! ### Atomics of C space -/

/-- Bytes of words that agree in their low bytes. -/
theorem bits_eq_of_mod {v w : Word} {n j : Nat} (h : v.toNat % 256 ^ n = w.toNat % 256 ^ n) (hj : j < n) :
    bits v (8 * j) 8 = bits w (8 * j) 8 := by
  rw [show 256 ^ n = 2 ^ (8 * n) by rw [Nat.pow_mul]] at h
  apply BitVec.eq_of_getLsbD_eq
  intro i hi
  have hbit := congrArg (Nat.testBit · (8 * j + i)) h
  simp only [Nat.testBit_mod_two_pow, show 8 * j + i < 8 * n by omega, decide_true, Bool.true_and] at hbit
  rw [bits_getLsbD, bits_getLsbD]
  exact congrArg (decide (i < 8) && ·) hbit

theorem Bank.storedTo_of_mod {bk b1 : Bank} {off n : Nat} {v w : Word} (hs : bk.storedTo b1 off n v)
    (h : v.toNat % 256 ^ n = w.toNat % 256 ^ n) : bk.storedTo b1 off n w := by
  obtain ⟨hbytes, hrest⟩ := hs
  exact ⟨fun j hj => (hbytes j hj).trans (bits_eq_of_mod h hj), hrest⟩

/-- A bank in which the bytes there are already those of a value, which need not be stored. -/
theorem Bank.storedTo_self {bk : Bank} {off : Nat} {z : Size} {v : Word} (h : Loaded z false (fun j => bk.byte (off + j)) v) :
    bk.storedTo bk off z.bytes v :=
  ⟨fun j hj => (h.1 j hj).symm, fun _ _ _ => rfl, rfl, rfl, rfl⟩

/-- The value that an access of a bank reads. -/
def Bank.word (bk : Bank) (ea : Addr) (z : Size) : Word := granuleRead (bk.granule (granuleOf ea)) (byteInGranule ea) z.bytes

section
variable {s : State} {d : Bool} {m : MemOp 8} {b : Nat} (hissues : s.issues admC) (h : s.reachesC (eaOf m s.me) b)
  (ha : aligned (eaOf m s.me) (amoSize d).bytes = true)
include hissues h ha

/-- An atomic of C space that stores. -/
theorem amoc_writes {cas : Bool} (hm : casBad cas m = false) (i : Instr) (f : Word → Word → Word)
    (hcmp : cas = true → (s.bank (clusOf s.k) b).word (eaOf m s.me) (amoSize d) = lowBytes (s.me.ptr 6) (amoSize d).bytes) :
    amoc i cas d m s f = .next ((s.setBank (clusOf s.k) b ((s.bank (clusOf s.k) b).setGranule (granuleOf (eaOf m s.me))
      (granuleWrite ((s.bank (clusOf s.k) b).granule (granuleOf (eaOf m s.me))) (byteInGranule (eaOf m s.me)) (amoSize d).bytes
        (lowBytes (f ((s.bank (clusOf s.k) b).word (eaOf m s.me) (amoSize d)) (lowBytes s.me.a (amoSize d).bytes))
          (amoSize d).bytes)))).setMe
      (amoDone cas m s.me (amoSize d) ((s.bank (clusOf s.k) b).word (eaOf m s.me) (amoSize d))
        (lowBytes (s.me.ptr 6) (amoSize d).bytes)).advance) := by
  have hstores : (cas && (s.bank (clusOf s.k) b).word (eaOf m s.me) (amoSize d) != lowBytes (s.me.ptr 6) (amoSize d).bytes) = false := by
    cases cas with
    | false => rfl
    | true => simp [hcmp rfl]
  rw [Bank.word] at hstores
  unfold amoc
  rw [run_issues _ _ _ _ _ hissues]
  simp only [State.aligned, hm, ha, s.cRead_reaches _ _ _ h, s.cWrite_reaches _ _ _ _ h, hstores, Got.elim_ok, if_true,
    Bool.false_eq_true, if_false]
  rfl

/-- A compare-and-swap of C space that finds another value. -/
theorem amoc_differs (hm : m.p ≠ 6) (i : Instr) (f : Word → Word → Word)
    (hcmp : (s.bank (clusOf s.k) b).word (eaOf m s.me) (amoSize d) ≠ lowBytes (s.me.ptr 6) (amoSize d).bytes) :
    amoc i true d m s f = .next (s.setMe (amoDone true m s.me (amoSize d)
      ((s.bank (clusOf s.k) b).word (eaOf m s.me) (amoSize d)) (lowBytes (s.me.ptr 6) (amoSize d).bytes)).advance) := by
  have hbad : casBad true m = false := decide_eq_false hm
  have hdiffers : (true && (s.bank (clusOf s.k) b).word (eaOf m s.me) (amoSize d) != lowBytes (s.me.ptr 6) (amoSize d).bytes) = true :=
    bne_iff_ne.mpr hcmp
  rw [Bank.word] at hdiffers
  unfold amoc
  rw [run_issues _ _ _ _ _ hissues]
  simp only [State.aligned, hbad, ha, s.cRead_reaches _ _ _ h, hdiffers, Got.elim_ok, if_true, Bool.false_eq_true, if_false]
  rfl

/-- An atomic that stores the function of the old value and A. -/
theorem amoc_stores (i : Instr) (f : Word → Word → Word) {new : Word}
    (hnew : (f ((s.bank (clusOf s.k) b).word (eaOf m s.me) (amoSize d)) (lowBytes s.me.a (amoSize d).bytes)).toNat %
      256 ^ (amoSize d).bytes = new.toNat % 256 ^ (amoSize d).bytes) :
    ∃ t, amoc i false d m s f = .next t ∧ t.me.a = (s.bank (clusOf s.k) b).word (eaOf m s.me) (amoSize d) ∧
      s.me.went t.me m (amoSize d).bytes ∧ s.onlyMeAndBank t b ∧
      (s.bank (clusOf s.k) b).storedTo (t.bank (clusOf s.k) b) (offsetOf (eaOf m s.me)) (amoSize d).bytes new := by
  have hrun := amoc_writes hissues h ha (cas := false) rfl i f fun hc => absurd hc Bool.false_ne_true
  refine ⟨_, hrun, ?_⟩
  obtain ⟨hme, honly, hbank⟩ := s.setBank_setMe_leaves b _ (amoDone false m s.me (amoSize d)
    ((s.bank (clusOf s.k) b).word (eaOf m s.me) (amoSize d)) (lowBytes (s.me.ptr 6) (amoSize d).bytes)).advance
  rw [hme, hbank]
  refine ⟨rfl, Ctx.went_setA (s.me.went_ptrAfter ..) _, honly, Bank.storedTo_of_mod (storedTo_bank ha ..) ?_⟩
  rw [lowBytes_toNat, Nat.mod_mod, hnew]

/-- A compare-and-swap stores A where the old value is that of P6. -/
theorem amocCas_swaps (hm : m.p ≠ 6) (i : Instr) :
    ∃ t, amoc i true d m s (fun _ x => x) = .next t ∧ t.me.a = (s.bank (clusOf s.k) b).word (eaOf m s.me) (amoSize d) ∧
      t.me.flag stZ = decide (((s.bank (clusOf s.k) b).word (eaOf m s.me) (amoSize d)).toNat =
        (s.me.ptr 6).toNat % 256 ^ (amoSize d).bytes) ∧
      s.onlyMeAndBank t b ∧ t.me.pc = s.me.pc + 4 ∧
      (s.bank (clusOf s.k) b).storedTo (t.bank (clusOf s.k) b) (offsetOf (eaOf m s.me)) (amoSize d).bytes
        (if ((s.bank (clusOf s.k) b).word (eaOf m s.me) (amoSize d)).toNat = (s.me.ptr 6).toNat % 256 ^ (amoSize d).bytes then
          s.me.a else (s.bank (clusOf s.k) b).word (eaOf m s.me) (amoSize d)) := by
  let old := (s.bank (clusOf s.k) b).word (eaOf m s.me) (amoSize d)
  let y1 := (amoDone true m s.me (amoSize d) old (lowBytes (s.me.ptr 6) (amoSize d).bytes)).advance
  have hequal : old = lowBytes (s.me.ptr 6) (amoSize d).bytes ↔ old.toNat = (s.me.ptr 6).toNat % 256 ^ (amoSize d).bytes := by
    rw [← BitVec.toNat_inj, lowBytes_toNat]
  have hflag : y1.flag stZ = decide (old.toNat = (s.me.ptr 6).toNat % 256 ^ (amoSize d).bytes) := by
    refine (Ctx.setFlag_flag_self _ _ (by decide)).trans ?_
    rw [beq_eq_decide]
    exact decide_eq_decide.mpr hequal
  by_cases heq : old = lowBytes (s.me.ptr 6) (amoSize d).bytes
  · have hrun := amoc_writes hissues h ha (cas := true) (decide_eq_false hm) i (fun _ x => x) fun _ => heq
    refine ⟨_, hrun, ?_⟩
    obtain ⟨hme, honly, hbank⟩ := s.setBank_setMe_leaves b _ y1
    rw [hme, hbank, if_pos (hequal.mp heq)]
    refine ⟨rfl, hflag, honly, rfl, Bank.storedTo_of_mod (storedTo_bank ha ..) ?_⟩
    rw [lowBytes_toNat, lowBytes_toNat, Nat.mod_mod, Nat.mod_mod]
  · refine ⟨_, amoc_differs hissues h ha hm i _ heq, ?_⟩
    obtain ⟨-, hcore, hctx⟩ := s.setMe_leaves y1
    rw [State.setMe_me, if_neg fun hc => heq (hequal.mpr hc)]
    exact ⟨rfl, hflag, ⟨rfl, fun _ => rfl, fun _ _ _ => rfl, hcore, hctx⟩, rfl, Bank.storedTo_self (loaded_bank ha _ false)⟩

end

/-! ### The functions of Table 5-8 -/

section
variable {d : Bool} {v w : Word} {old x : Nat} (hv : v.toNat = old) (hw : w.toNat = x)
include hv hw

theorem amo_and : (v &&& w).toNat = old &&& x := by rw [BitVec.toNat_and, hv, hw]
theorem amo_or : (v ||| w).toNat = old ||| x := by rw [BitVec.toNat_or, hv, hw]
theorem amo_xor : (v ^^^ w).toNat = old ^^^ x := by rw [BitVec.toNat_xor, hv, hw]

theorem amo_minu : (if w.toNat < v.toNat then w else v).toNat = min old x := by
  rw [hv, hw]
  split <;> omega

theorem amo_maxu : (if v.toNat < w.toNat then w else v).toNat = max old x := by
  rw [hv, hw]
  split <;> omega

theorem amo_min (hold : old < 256 ^ (amoSize d).bytes) (hx : x < 256 ^ (amoSize d).bytes) :
    (if signedLess (amoSize d) w v then w else v).toNat =
      if signedNat (amoSize d).bytes x < signedNat (amoSize d).bytes old then x else old := by
  subst hv hw
  rw [signedLess_eq d hx hold]
  by_cases h : signedNat (amoSize d).bytes w.toNat < signedNat (amoSize d).bytes v.toNat <;> simp [h]

theorem amo_max (hold : old < 256 ^ (amoSize d).bytes) (hx : x < 256 ^ (amoSize d).bytes) :
    (if signedLess (amoSize d) v w then w else v).toNat =
      if signedNat (amoSize d).bytes old < signedNat (amoSize d).bytes x then x else old := by
  subst hv hw
  rw [signedLess_eq d hold hx]
  by_cases h : signedNat (amoSize d).bytes v.toNat < signedNat (amoSize d).bytes w.toNat <;> simp [h]

end

/-- Settles O37: each atomic is one function on the old value and A, served at its slice or in its bank. -/
theorem atomicsUpdateTheirWord : Obligations.AtomicsUpdateTheirWord := by
  intro s d o sc m y z n ea x cmp sg ha
  refine ⟨fun pa h => ?_, fun b hissues h =>
    ⟨(s.bank (clusOf s.k) b).word ea z, loaded_bank ha (s.bank (clusOf s.k) b) false, ?_⟩⟩
  · have hv := Memory.word_toNat s.mem pa z
    have hw := lowBytes_toNat y.a z
    have hold : Memory.readN s.mem pa n < 256 ^ n := Memory.readN_lt ..
    have hx : x < 256 ^ n := Nat.mod_lt _ (Nat.pow_pos (by decide))
    refine ⟨amog_stores h ha (.amogAdd d o sc m) rfl rfl rfl ?_,
      amog_stores h ha (.amogAnd d o sc m) rfl rfl rfl (congrArg (· % 256 ^ n) (amo_and hv hw)),
      amog_stores h ha (.amogOr d o sc m) rfl rfl rfl (congrArg (· % 256 ^ n) (amo_or hv hw)),
      amog_stores h ha (.amogXor d o sc m) rfl rfl rfl (congrArg (· % 256 ^ n) (amo_xor hv hw)),
      amog_stores h ha (.amogMin d o sc m) rfl rfl rfl (congrArg (· % 256 ^ n) (amo_min hv hw hold hx)),
      amog_stores h ha (.amogMax d o sc m) rfl rfl rfl (congrArg (· % 256 ^ n) (amo_max hv hw hold hx)),
      amog_stores h ha (.amogMinu d o sc m) rfl rfl rfl (congrArg (· % 256 ^ n) (amo_minu hv hw)),
      amog_stores h ha (.amogMaxu d o sc m) rfl rfl rfl (congrArg (· % 256 ^ n) (amo_maxu hv hw)),
      amog_stores h ha (.amogSwap d o sc m) rfl rfl rfl (congrArg (· % 256 ^ n) hw),
      fun hm => amogCas_swaps h ha hm (.amogCas d o sc m) rfl rfl rfl⟩
    rw [add_toNat_mod, hv, hw]
  · have hlow := lowBytes_toNat y.a z
    refine ⟨amoc_stores hissues h ha (.amocAdd d m) (fun old x => old + x) ?_,
      amoc_stores hissues h ha (.amocAnd d m) (fun old x => old &&& x) ?_,
      amoc_stores hissues h ha (.amocOr d m) (fun old x => old ||| x) ?_,
      amoc_stores hissues h ha (.amocSwap d m) (fun _ x => x) ?_,
      fun hm => amocCas_swaps hissues h ha hm (.amocCas d m)⟩
    · rw [add_toNat_mod, add_toNat_mod, hlow, Nat.add_mod_mod]
    · rw [BitVec.toNat_and, BitVec.toNat_and, hlow, pow_bytes, Nat.and_mod_two_pow, Nat.and_mod_two_pow, Nat.mod_mod]
    · rw [BitVec.toNat_or, BitVec.toNat_or, hlow, pow_bytes, Nat.or_mod_two_pow, Nat.or_mod_two_pow, Nat.mod_mod]
    · rw [hlow, Nat.mod_mod]

end Sys2Proof.Machine
end

section
/-! Posted stores at their slices, and what answers them (O49): the access, its acknowledgement or report, the late fault and the
write-through of a tier-1 line (05 R94, R96, R98, 21 R324). -/

namespace Sys2Proof.Machine

/-! ### Log entries by number -/

theorem State.logEntry_eq (s : State) (k c : Nat) {e : Nat} (he : e < 8) : s.logEntry k c e = (s.ctx k c).log.get ⟨e, he⟩ := by
  simp [State.logEntry, List.getD, Vector.get, he]

/-- An entry that has a state other than free is one of the eight. -/
theorem State.logEntry_lt {s : State} {k c e : Nat} (h : (s.logEntry k c e).state ≠ .free) : e < 8 := by
  by_contra hge
  refine h ?_
  have hnone : (s.ctx k c).log.toList.length ≤ e := by simpa using hge
  rw [State.logEntry, List.getD_eq_default _ _ hnone]

@[simp] theorem State.setEntry_mem (s : State) (k c e : Nat) (x : LogEntry) : (s.setEntry k c e x).mem = s.mem := by
  unfold State.setEntry
  split <;> rfl

@[simp] theorem State.setEntry_packetSeq (s : State) (k c e : Nat) (x : LogEntry) :
    (s.setEntry k c e x).packetSeq = s.packetSeq := by
  unfold State.setEntry
  split <;> rfl

theorem State.setEntry_core (s : State) (k c e j : Nat) (x : LogEntry) :
    { (s.setEntry k c e x).core j with ctxs := (s.core j).ctxs } = s.core j := by
  unfold State.setEntry
  split
  · exact s.setCtx_core k c j _
  · rfl

theorem State.setEntry_logEntry (s : State) (k c : Nat) {e : Nat} (x : LogEntry) (he : e < 8) :
    (s.setEntry k c e x).logEntry k c e = x := by
  rw [State.logEntry_eq _ _ _ he, State.setEntry, dif_pos he, State.setCtx_ctx_self, Ctx.setLog_log_get_self]

/-- A store without a twin's changes its own entry alone. -/
theorem State.setBoth_of_no_mate {s : State} {k c e : Nat} (h : (s.logEntry k c e).mate = none) (f : LogEntry → LogEntry) :
    s.setBoth k c e f = s.setEntry k c e (f (s.logEntry k c e)) := by
  simp only [State.setBoth, h]

theorem State.SameButTraffic.logEntry {s t : State} (h : s.SameButTraffic t) (k c e : Nat) :
    t.logEntry k c e = s.logEntry k c e := by
  rw [State.logEntry, h.ctx]
  rfl

/-! ### The access at the slice (21 R324) -/

/-- What a slice has taken says nothing of what it finds in memory. -/
theorem State.setTaken_sameMemory (s : State) (sl : Nat) (l : List Taken) :
    s.SameMemory (s.setSlice sl { s.slice sl with taken := l }) := by
  have hslice (i : Nat) : { (s.setSlice sl { s.slice sl with taken := l }).slice i with taken := (s.slice i).taken } = s.slice i := by
    by_cases hi : i = sl
    · rw [hi, State.setSlice_slice_self]
    · rw [State.setSlice_slice_ne _ _ hi]
  exact ⟨rfl, rfl, rfl, rfl, rfl, rfl, rfl, rfl, fun _ => rfl, fun _ => rfl, fun i => (congrArg Slice.macs (hslice i) :),
    fun i => (congrArg Slice.roots (hslice i) :), fun i => (congrArg Slice.tree (hslice i) :),
    fun i => (congrArg Slice.badNodes (hslice i) :)⟩

theorem State.SameMemory.storeFails {s t : State} (h : s.SameMemory t) (v : Nat) (x : LogEntry) (p : Bool) :
    t.storeFails v x p = s.storeFails v x p := by
  simp only [State.storeFails, h.grantFails, h.accessFails]

/-- The access of a store that its slice has taken and may serve is that of its entry. -/
theorem exec_sliceAccess {s : State} {k c e sl : Nat} {y : Taken} (hy : s.takenAt k c e = some (sl, y)) (hask : y.ask = none)
    (hlone : y.lone = none) (hserve : s.servable sl y = true) : ∃ l, exec (.sliceAccess k c e) s =
      .next ((s.setSlice sl { s.slice sl with taken := l }).performStore k c e y.poisoned) := by
  refine ⟨(s.slice sl).taken.filter fun u => !decide (u = y), ?_⟩
  show execSliceAccess k c e s = _
  simp only [execSliceAccess, hy, hserve, if_true, hask, hlone]

section
variable {s : State} {k c e : Nat} (he : e < 8) (hmate : (s.logEntry k c e).mate = none) (poisoned : Bool)
include he hmate

/-- A slice that finds something wrong refuses the store, and answers. -/
theorem State.performStore_refuses {cause : Byte} (h : s.storeFails (s.vdevOf k c) (s.logEntry k c e) poisoned = some cause) :
    (s.performStore k c e poisoned).mem = s.mem ∧
      (s.performStore k c e poisoned).logEntry k c e = { s.logEntry k c e with state := .refused, cause := cause } ∧
      ((s.performStore k c e poisoned).packets.find s.packetSeq).map (fun p => (p.src, p.dst, p.payload)) =
        some (.slice (sliceOf (s.logEntry k c e).pa), .core (s.homeOf k c), .ack k c e) := by
  unfold State.performStore
  simp only [h, State.setBoth_of_no_mate hmate]
  refine ⟨(State.inject_same ..).mem.trans (State.setEntry_mem ..), ?_, ?_⟩
  · rw [(State.inject_same ..).logEntry, State.setEntry_logEntry _ _ _ _ he]
  · rw [← State.setEntry_packetSeq, State.inject_find]
    rfl

/-- A slice that finds nothing wrong writes the bytes of the store, and answers. -/
theorem State.performStore_performs (h : s.storeFails (s.vdevOf k c) (s.logEntry k c e) poisoned = none) :
    (s.performStore k c e poisoned).mem =
        Memory.writeN s.mem (s.logEntry k c e).pa (s.logEntry k c e).data.toNat (s.logEntry k c e).size.bytes ∧
      (s.performStore k c e poisoned).logEntry k c e = { s.logEntry k c e with state := .performed } ∧
      ((s.performStore k c e poisoned).packets.find s.packetSeq).map (fun p => (p.src, p.dst, p.payload)) =
        some (.slice (sliceOf (s.logEntry k c e).pa), .core (s.homeOf k c), .ack k c e) := by
  let x := s.logEntry k c e
  let u := (s.gStore (s.vdevOf k c) x.pa x.size.bytes x.data.toNat).noteThrough k (.ctx c) x.pa (x.ar && decide (x.scope = Scope.sys))
  have hu : u.withMemoryOf s = s := (State.noteThrough_rest ..).trans (s.gStore_rest ..)
  have hentry : u.logEntry k c e = x := (congrArg (State.logEntry · k c e) hu :)
  have hseq : u.packetSeq = s.packetSeq := (congrArg State.packetSeq hu :)
  have hmem : u.mem = Memory.writeN s.mem x.pa x.data.toNat x.size.bytes := by rw [State.noteThrough_mem, State.gStore_mem]
  have hboth : u.setBoth k c e (fun y => { y with state := .performed }) = u.setEntry k c e { x with state := .performed } := by
    rw [State.setBoth_of_no_mate (hentry ▸ hmate), hentry]
  have hperform : s.performStore k c e poisoned = (u.setEntry k c e { x with state := .performed }).inject
      { src := .slice (sliceOf x.pa), dst := .core (s.homeOf k c), cls := .rsp, seq := 0, level := 0, payload := .ack k c e } := by
    unfold State.performStore
    simp only [h]
    exact congrArg (State.inject · _) hboth
  rw [hperform]
  refine ⟨((State.inject_same ..).mem.trans (State.setEntry_mem ..)).trans hmem, ?_, ?_⟩
  · rw [(State.inject_same ..).logEntry, State.setEntry_logEntry _ _ _ _ he]
  · rw [← hseq, ← State.setEntry_packetSeq, State.inject_find]
    rfl

end

/-- The access of a store at its slice where nothing is wrong. -/
theorem exec_sliceAccess_performs {s : State} {k c e sl : Nat} {y : Taken} (he : e < 8) (hmate : (s.logEntry k c e).mate = none)
    (hy : s.takenAt k c e = some (sl, y)) (hask : y.ask = none) (hlone : y.lone = none) (hserve : s.servable sl y = true)
    (hok : s.storeFails (s.vdevOf k c) (s.logEntry k c e) y.poisoned = none) : ∃ t, exec (.sliceAccess k c e) s = .next t ∧
      t.mem = Memory.writeN s.mem (s.logEntry k c e).pa (s.logEntry k c e).data.toNat (s.logEntry k c e).size.bytes ∧
      t.logEntry k c e = { s.logEntry k c e with state := .performed } ∧
      (t.packets.find s.packetSeq).map (fun p => (p.src, p.dst, p.payload)) =
        some (.slice (sliceOf (s.logEntry k c e).pa), .core (s.homeOf k c), .ack k c e) := by
  obtain ⟨l, hrun⟩ := exec_sliceAccess hy hask hlone hserve
  exact ⟨_, hrun, State.performStore_performs (s := s.setSlice sl { s.slice sl with taken := l }) he hmate y.poisoned
    (((s.setTaken_sameMemory sl l).storeFails ..).trans hok)⟩

/-- The access of a store at its slice where something is wrong. -/
theorem exec_sliceAccess_refuses {s : State} {k c e sl : Nat} {y : Taken} (he : e < 8) (hmate : (s.logEntry k c e).mate = none)
    (hy : s.takenAt k c e = some (sl, y)) (hask : y.ask = none) (hlone : y.lone = none) (hserve : s.servable sl y = true)
    {cause : Byte} (hbad : s.storeFails (s.vdevOf k c) (s.logEntry k c e) y.poisoned = some cause) :
    ∃ t, exec (.sliceAccess k c e) s = .next t ∧ t.mem = s.mem ∧
      t.logEntry k c e = { s.logEntry k c e with state := .refused, cause := cause } ∧
      (t.packets.find s.packetSeq).map (fun p => (p.src, p.dst, p.payload)) =
        some (.slice (sliceOf (s.logEntry k c e).pa), .core (s.homeOf k c), .ack k c e) := by
  obtain ⟨l, hrun⟩ := exec_sliceAccess hy hask hlone hserve
  exact ⟨_, hrun, State.performStore_refuses (s := s.setSlice sl { s.slice sl with taken := l }) he hmate y.poisoned
    (((s.setTaken_sameMemory sl l).storeFails ..).trans hbad)⟩

/-! ### Held releases (05 R95) -/

/-- The sending of held releases changes the log entries that hold them, and traffic. -/
structure State.SameButHeld (s : State) (k c : Nat) (t : State) : Prop where
  rest : t.withTrafficOf s = s
  vdevs : t.vdevs = s.vdevs
  core : ∀ j, { t.core j with ctxs := (s.core j).ctxs, tlb := (s.core j).tlb, tx := (s.core j).tx, rx := (s.core j).rx } = s.core j
  entry : ∀ e : Fin 8, ((s.ctx k c).log.get e).state ≠ .held → (t.ctx k c).log.get e = (s.ctx k c).log.get e

namespace State.SameButHeld

theorem refl (s : State) (k c : Nat) : s.SameButHeld k c s := ⟨rfl, rfl, fun _ => rfl, fun _ _ => rfl⟩

theorem trans {s t u : State} {k c : Nat} (h : s.SameButHeld k c t) (h' : t.SameButHeld k c u) : s.SameButHeld k c u where
  rest := (congrArg (State.withTrafficOf · s) h'.rest :).trans h.rest
  vdevs := h'.vdevs.trans h.vdevs
  core j := (congrArg (fun x : Core => { x with
    ctxs := (s.core j).ctxs, tlb := (s.core j).tlb, tx := (s.core j).tx, rx := (s.core j).rx }) (h'.core j) :).trans (h.core j)
  entry e he := by
    have hkept := h.entry e he
    rw [← hkept] at he
    exact (h'.entry e he).trans hkept

theorem revoking {s t : State} {k c : Nat} (h : s.SameButHeld k c t) (j : Nat) : (t.core j).revoking = (s.core j).revoking :=
  (congrArg Core.revoking (h.core j) :)

theorem mem {s t : State} {k c : Nat} (h : s.SameButHeld k c t) : t.mem = s.mem := (congrArg State.mem h.rest :)

end State.SameButHeld

theorem State.SameButTraffic.revoking {s t : State} (h : s.SameButTraffic t) (j : Nat) :
    (t.core j).revoking = (s.core j).revoking := (congrArg Core.revoking (h.core j) :)

theorem State.setEntry_revoking (s : State) (k c e j : Nat) (x : LogEntry) :
    ((s.setEntry k c e x).core j).revoking = (s.core j).revoking := (congrArg Core.revoking (s.setEntry_core k c e j x) :)

theorem State.inject_vdevs (s : State) (x : Packet) : (s.inject x).vdevs = s.vdevs := by
  unfold State.inject
  cases x.src <;> rfl

/-- One held release sent. -/
theorem State.sendEntry_same {s : State} {k c : Nat} {e : Fin 8} (h : ((s.ctx k c).log.get e).state = .held) (x : LogEntry) :
    s.SameButHeld k c ((s.setCtx k c ((s.ctx k c).setLog e x)).sendStore k c e) := by
  have hsend := (s.setCtx k c ((s.ctx k c).setLog e x)).sendStore_same k c e
  refine ⟨(congrArg (State.withTrafficOf · s) hsend.rest :).trans rfl, ?_, fun j => ?_, fun f hf => ?_⟩
  · unfold State.sendStore
    rw [State.inject_vdevs]
    rfl
  · exact (congrArg (fun y : Core => { y with
      ctxs := (s.core j).ctxs, tlb := (s.core j).tlb, tx := (s.core j).tx, rx := (s.core j).rx }) (hsend.core j) :).trans
      (congrArg (fun y : Core => { y with tlb := (s.core j).tlb, tx := (s.core j).tx, rx := (s.core j).rx }) (s.setCtx_core k c j _) :)
  · rw [hsend.ctx, State.setCtx_ctx_self]
    exact Ctx.setLog_log_get_ne _ _ fun hfe => hf (hfe ▸ h)

theorem State.sendHeld_same (s : State) (k c : Nat) : s.SameButHeld k c (s.sendHeld k c) := by
  unfold State.sendHeld
  induction List.finRange 8 generalizing s with
  | nil => exact .refl s k c
  | cons e l ih =>
    rw [List.foldl_cons]
    refine State.SameButHeld.trans ?_ (ih _)
    dsimp only
    split
    · rename_i hsent
      exact State.sendEntry_same hsent.1 _
    · exact .refl s k c

/-! ### The end of a store (05 R98) -/

section
variable {s : State} {k c : Nat} (hrev : (s.core k).revoking = false)
include hrev

/-- Where no abort is under way, the end of a store samples a measure and sends held releases. -/
theorem State.storeOver_same : ∃ u, s.SameButTraffic u ∧ u.SameButHeld k c (s.storeOver k c) := by
  have hsample := (s.sample_same (s.vdevOf k c) 0).toSameButTraffic
  have hheld := (s.sample (s.vdevOf k c) 0).sendHeld_same k c
  have hnot : (((s.sample (s.vdevOf k c) 0).sendHeld k c).core k).revoking = false :=
    ((hheld.revoking k).trans (hsample.revoking k)).trans hrev
  refine ⟨_, hsample, ?_⟩
  rw [State.storeOver, State.settle]
  simp only [hnot, Bool.false_and, Bool.false_eq_true, if_false]
  exact hheld

theorem State.storeOver_mem : (s.storeOver k c).mem = s.mem := by
  obtain ⟨u, hu, hheld⟩ := State.storeOver_same (c := c) hrev
  exact hheld.mem.trans hu.mem

theorem State.storeOver_logEntry {e : Nat} (he : e < 8) (h : (s.logEntry k c e).state ≠ .held) :
    (s.storeOver k c).logEntry k c e = s.logEntry k c e := by
  obtain ⟨u, hu, hheld⟩ := State.storeOver_same (c := c) hrev
  rw [State.logEntry_eq _ _ _ he] at h ⊢
  rw [State.logEntry_eq _ _ _ he, hheld.entry _ (by rwa [hu.ctx]), hu.ctx]

end

section
variable {s : State} {k c e : Nat} (hrev : (s.core k).revoking = false) (he : e < 8)
include hrev he

/-- An entry written at the end of its store. -/
theorem State.setEntry_storeOver {x : LogEntry} (hx : x.state ≠ .held) :
    ((s.setEntry k c e x).storeOver k c).mem = s.mem ∧ ((s.setEntry k c e x).storeOver k c).logEntry k c e = x := by
  have hnot : ((s.setEntry k c e x).core k).revoking = false := (s.setEntry_revoking ..).trans hrev
  have hentry := s.setEntry_logEntry k c x he
  exact ⟨(State.storeOver_mem hnot).trans (s.setEntry_mem ..),
    (State.storeOver_logEntry hnot he (hentry.symm ▸ hx)).trans hentry⟩

variable (hmate : (s.logEntry k c e).mate = none)
include hmate

/-- The acknowledgement of a performed store frees its entry. -/
theorem State.takeAck_frees (h : (s.logEntry k c e).state = .performed) :
    (s.takeAck k c e).mem = s.mem ∧ ((s.takeAck k c e).logEntry k c e).state = .free := by
  have hend := State.setEntry_storeOver (c := c) hrev he (x := { s.logEntry k c e with state := .free, cause := 0 }) LogState.noConfusion
  have hack : s.takeAck k c e =
      (s.setEntry k c e { s.logEntry k c e with state := .free, cause := 0 }).storeOver k c := by
    simp only [State.takeAck, h, hmate, State.setBoth_of_no_mate hmate]
  rw [hack, hend.2]
  exact ⟨hend.1, rfl⟩

/-- The report of a refused store turns its entry into a failed one. -/
theorem State.takeAck_fails (h : (s.logEntry k c e).state = .refused) :
    (s.takeAck k c e).mem = s.mem ∧ (s.takeAck k c e).logEntry k c e = { s.logEntry k c e with state := .failed } := by
  have hack : s.takeAck k c e = (s.setEntry k c e { s.logEntry k c e with state := .failed }).storeOver k c := by
    simp [State.takeAck, State.fail, h, hmate, hrev]
  rw [hack]
  exact State.setEntry_storeOver hrev he LogState.noConfusion

end

/-! ### The delivery of an answer (05 R98, 11 R222) -/

theorem exec_storeAcknowledge (k c e : Nat) (s : State) : exec (.storeAcknowledge k c e) s = .next (s.ackArrives k c e .performed) := rfl
theorem exec_lateFaultReport (k c e : Nat) (s : State) : exec (.lateFaultReport k c e) s = .next (s.ackArrives k c e .refused) := rfl

/-- A packet of which a core has noted the arrival. -/
def State.noted (s : State) (id : Nat) (p : Packet) (j : Nat) : State := (s.arrived id p).countRx (.core j)

theorem State.noted_same (s : State) (id : Nat) (p : Packet) (j : Nat) : s.SameButTraffic (s.noted id p j) :=
  (State.SameButTraffic.setPackets s (s.packets.drop id) s.packetSeq s.seqOut _ s.host).trans
    (State.countRx_same ..).toSameButTraffic

theorem State.noted_core (s : State) (id : Nat) (p : Packet) (j : Nat) :
    (s.noted id p j).core j = { s.core j with rx := (s.core j).rx + 1 } := State.setCore_core_self ..

section
variable {s : State} {k c e j id : Nat} {p : Packet} (hack : s.ackOf k c e = some (id, p))
include hack

theorem State.ackOf_payload : p.payload = .ack k c e := by
  have hfound := List.find?_some hack
  simp only [Bool.and_eq_true, decide_eq_true_eq] at hfound
  exact hfound.1

variable (hdst : p.dst = .core j) (hfence : s.fencedNode (.core j) = false) (hsaved : (s.core j).savedAt = none)
  (hroom : (s.core j).inbox.length < 64) {st : LogState} (hst : (s.logEntry k c e).state = st)
include hdst hfence hsaved hroom hst

/-- An answer that is due at a core with room, and not fenced, is taken by it. -/
theorem State.ackArrives_taken : s.ackArrives k c e st = (s.arrived id p).coreTakes j p := by
  have hqueue : queueRoom (s.core j).inbox.length p.esc = true := by
    unfold queueRoom
    split <;> exact decide_eq_true (by omega)
  have hfits : s.room p = true := by
    simp [State.room, hdst, hsaved, hqueue]
  unfold State.ackArrives
  simp only [hack, hst, if_true, State.delivered, hdst, hfence, Bool.false_eq_true, if_false, hfits, State.deliver, Option.getD_some]

/-- A core that takes it at once has it in its log entry. -/
theorem State.ackArrives_now (hnow : (s.core j).takesNow p.payload = true) :
    s.ackArrives k c e st = (s.noted id p j).takeAck k c e := by
  have hpayload := State.ackOf_payload hack
  have hspoilt : (if p.poisoned then { p with payload := p.payload.spoilt } else p : Packet).payload = .ack k c e := by
    split
    · rw [hpayload]
      rfl
    · exact hpayload
  have htakes : (((s.arrived id p).countRx (.core j)).core j).takesNow p.payload = true :=
    (congrArg (Core.takesNow · p.payload) (s.noted_core id p j)).trans hnow
  rw [State.ackArrives_taken hack hdst hfence hsaved hroom hst]
  unfold State.coreTakes
  dsimp only
  rw [if_pos htakes, hspoilt]
  rfl

/-- A core that does not parks it in its inbox. -/
theorem State.ackArrives_parked (hnow : (s.core j).takesNow p.payload = false) :
    s.ackArrives k c e st = (s.noted id p j).setCore j
      { (s.noted id p j).core j with inbox := ((s.noted id p j).core j).inbox ++ [p] } := by
  have hpayload := State.ackOf_payload hack
  have hspoilt : (if p.poisoned then { p with payload := p.payload.spoilt } else p : Packet) = p := by
    split
    · rw [show p.payload.spoilt = p.payload by rw [hpayload]; rfl]
    · rfl
  have htakes : ¬ (((s.arrived id p).countRx (.core j)).core j).takesNow p.payload = true :=
    Bool.eq_false_iff.mp ((congrArg (Core.takesNow · p.payload) (s.noted_core id p j)).trans hnow)
  rw [State.ackArrives_taken hack hdst hfence hsaved hroom hst]
  unfold State.coreTakes
  dsimp only
  rw [if_neg htakes, hspoilt]
  rfl

end

/-- The entry as it stands once the arrival has been noted. -/
theorem State.noted_logEntry (s : State) (id : Nat) (p : Packet) (j k c e : Nat) :
    (s.noted id p j).logEntry k c e = s.logEntry k c e := (s.noted_same id p j).logEntry k c e

section
variable {s : State} {k c e j id : Nat} {p : Packet} (hack : s.ackOf k c e = some (id, p)) (hdst : p.dst = .core j)
  (hfence : s.fencedNode (.core j) = false) (hsaved : (s.core j).savedAt = none) (hroom : (s.core j).inbox.length < 64)
include hack hdst hfence hsaved hroom

section
variable (hmate : (s.logEntry k c e).mate = none) (hrev : (s.core k).revoking = false)
  (hnow : (s.core j).takesNow p.payload = true)
include hmate hrev hnow

theorem exec_storeAcknowledge_frees (hst : (s.logEntry k c e).state = .performed) :
    ∃ t, exec (.storeAcknowledge k c e) s = .next t ∧ (t.logEntry k c e).state = .free ∧ t.mem = s.mem := by
  have he : e < 8 := State.logEntry_lt (by rw [hst]; exact LogState.noConfusion)
  have hnoted := s.noted_same id p j
  obtain ⟨hmem, hfree⟩ := State.takeAck_frees ((hnoted.revoking k).trans hrev) he (by rwa [State.noted_logEntry])
    (by rwa [State.noted_logEntry])
  rw [exec_storeAcknowledge, State.ackArrives_now hack hdst hfence hsaved hroom hst hnow]
  exact ⟨_, rfl, hfree, hmem.trans hnoted.mem⟩

theorem exec_lateFaultReport_fails (hst : (s.logEntry k c e).state = .refused) :
    ∃ t, exec (.lateFaultReport k c e) s = .next t ∧ t.logEntry k c e = { s.logEntry k c e with state := .failed } ∧
      t.mem = s.mem := by
  have he : e < 8 := State.logEntry_lt (by rw [hst]; exact LogState.noConfusion)
  have hnoted := s.noted_same id p j
  obtain ⟨hmem, hfailed⟩ := State.takeAck_fails ((hnoted.revoking k).trans hrev) he (by rwa [State.noted_logEntry])
    (by rwa [State.noted_logEntry])
  rw [State.noted_logEntry] at hfailed
  rw [exec_lateFaultReport, State.ackArrives_now hack hdst hfence hsaved hroom hst hnow]
  exact ⟨_, rfl, hfailed, hmem.trans hnoted.mem⟩

end

/-- An answer that its core does not take yet stands in the inbox, and nothing has come to the log entry. -/
theorem State.ackArrives_parks {st : LogState} (hst : (s.logEntry k c e).state = st)
    (hnow : (s.core j).takesNow p.payload = false) :
    ((s.ackArrives k c e st).core j).inbox = (s.core j).inbox ++ [p] ∧
      (s.ackArrives k c e st).logEntry k c e = s.logEntry k c e ∧ (s.ackArrives k c e st).mem = s.mem := by
  have hctx := (s.noted id p j).setCore_ctx
    (x := { (s.noted id p j).core j with inbox := ((s.noted id p j).core j).inbox ++ [p] }) rfl k c
  rw [State.ackArrives_parked hack hdst hfence hsaved hroom hst hnow]
  refine ⟨?_, ?_, (s.noted_same id p j).mem⟩
  · rw [State.setCore_core_self, State.noted_core]
  · exact (congrArg (fun y : Ctx => y.log.toList.getD e {}) hctx).trans (s.noted_logEntry id p j k c e)

end

/-- A stopped core whose task is not aborted takes no answer. -/
theorem Core.takesNow_stopped {x : Core} (hsaving : x.saving = false) (hstop : x.stop ≠ .running) (hrev : x.revoking = false)
    (q : Payload) : x.takesNow q = false := by
  simp [Core.takesNow, hsaving, hstop, hrev]

/-! ### The late-fault trap (05 R98) -/

theorem exec_lateFaultTrap {s : State} {k c : Nat} {e : Fin 8} (he : (s.ctx k c).lateEntry = some e)
    (hhold : (s.ctx k c).hold = none) :
    exec (.lateFaultTrap k c) s = .next (s.takeTrap k c ((s.ctx k c).lateRec e)) := by
  have hundo : s.undoHov k c = s := by
    simp [State.undoHov, Ctx.phase, hhold]
  show execLateFaultTrap k c s = _
  simp only [execLateFaultTrap, he, hundo]

/-- A trap that enters its handler leaves its record there. -/
theorem State.takeTrap_trapped {s : State} {k c : Nat} (h : s.frameReady k c) (r : Rec) :
    (s.takeTrap k c r).trapped k c r.tpc (r.cause.setWidth 64 ||| if r.late then 0x10000 else 0) r.addr r.val (s.core k).tvec := by
  obtain ⟨cl, henters⟩ := State.takeTrap_enters h r
  rw [henters]
  unfold State.trapped
  rw [State.setCtx_ctx_self]
  exact ⟨rfl, rfl, rfl, rfl, Ctx.setFlag_flag_self _ _ (by decide), rfl, rfl⟩

/-! ### The write-through of a tier-1 line (05 R96) -/

/-- `t` with what `s` has of its lines as they are stored: counters, trees, MACs and errors. -/
def State.withLinesOf (t s : State) : State :=
  { t with counters := s.counters, slices := s.slices, stored := s.stored, lines := s.lines }

theorem State.foldl_withLinesOf {α : Type} (s : State) {f : State → α → State} (hf : ∀ t a, (f t a).withLinesOf s = t.withLinesOf s)
    (l : List α) (t : State) : (l.foldl f t).withLinesOf s = t.withLinesOf s := by
  induction l generalizing t with
  | nil => rfl
  | cons a l ih => exact (ih _).trans (hf t a)

/-- A line written back changes its counters, its tree and its stored form. -/
theorem State.writeBack_rest (s : State) (line : Nat) : (s.writeBack line).withLinesOf s = s := by
  have hstore (l : List Nat) (t : State) : (l.foldl State.storeLine t).withLinesOf s = t.withLinesOf s := by
    refine s.foldl_withLinesOf ?_ l t
    exact fun _ _ => rfl
  have hseal (t : State) : (t.sealPath line).withLinesOf s = t.withLinesOf s := by
    unfold State.sealPath
    refine s.foldl_withLinesOf ?_ _ t
    exact fun _ _ => rfl
  have hpoison (t : State) (x : Line) : (t.setLine line x).withLinesOf s = t.withLinesOf s := rfl
  unfold State.writeBack
  dsimp only
  split
  · rfl
  · split
    · rw [hpoison]
      split
      · rw [hseal, hstore]
        rfl
      · rw [hstore]
        rfl
    · split
      · rw [hseal, hstore]
        rfl
      · rw [hstore]
        rfl

/-- Where a stream owes nothing, nothing is paid. -/
theorem State.payOwed_of_none {s : State} {v t : Nat} (h : (s.strm v t).owed = []) : s.payOwed v t = s := by
  rw [State.payOwed, h]
  rfl

theorem State.payDones_of_none {s : State} (h : ∀ l ∈ s.launches, l.2.dones = []) (l : Nat) : s.payDones l = s := by
  unfold State.payDones
  cases hfind : s.launches.find l with
  | none => rfl
  | some x =>
    have hnone : x.dones = [] := h _ (Sparse.mem_of_find hfind)
    simp [hnone]

/-- Where no completion doubleword waits, none is written. -/
theorem State.payAll_of_none {s : State} (hstreams : ∀ d ∈ s.vdevs, ∀ x ∈ d.2.streams, x.2.owed = [])
    (hlaunches : ∀ l ∈ s.launches, l.2.dones = []) : s.payAll = s := by
  have howed (v t : Nat) : s.payOwed v t = s := State.payOwed_of_none <|
    Sparse.get_of_forall (p := fun x : Stream => x.owed = []) rfl
      (Sparse.get_of_forall (p := fun d : VDev => ∀ e ∈ d.streams, e.2.owed = []) (by simp) hstreams v) t
  have hdevice (d : Nat × VDev) : d.2.streams.foldl (fun s t => s.payOwed d.1 t.1) s = s :=
    List.foldl_fixed' (fun t => howed d.1 t.1) _
  have hdevices : s.vdevs.foldl (fun s d => d.2.streams.foldl (fun s t => s.payOwed d.1 t.1) s) s = s :=
    List.foldl_fixed' hdevice _
  unfold State.payAll
  rw [hdevices]
  exact List.foldl_fixed' (fun l => State.payDones_of_none hlaunches l.1) _

/-- The releases of the context that has written a line, sent once it is written through. -/
def State.sendFor (s : State) (u : Through) : State :=
  match u.who with
  | .ctx c => s.sendHeld u.core c
  | .copy _ => s

theorem State.sendFor_rest (s : State) (u : Through) : (s.sendFor u).withTrafficOf s = s ∧ (s.sendFor u).vdevs = s.vdevs := by
  unfold State.sendFor
  split
  · have hheld := s.sendHeld_same u.core ‹_›
    exact ⟨hheld.rest, hheld.vdevs⟩
  · exact ⟨rfl, rfl⟩

theorem State.foldl_sendFor_rest (s : State) (hit : List Through) :
    (hit.foldl State.sendFor s).withTrafficOf s = s ∧ (hit.foldl State.sendFor s).vdevs = s.vdevs := by
  induction hit generalizing s with
  | nil => exact ⟨rfl, rfl⟩
  | cons u hit ih =>
    obtain ⟨hrest, hvdevs⟩ := s.sendFor_rest u
    obtain ⟨hrest', hvdevs'⟩ := ih (s.sendFor u)
    exact ⟨(congrArg (State.withTrafficOf · s) hrest' :).trans hrest, hvdevs'.trans hvdevs⟩

/-- A write-through before what waited for it is paid. -/
def State.throughWritten (s : State) (line : Nat) : State :=
  let hit := s.through.filter fun t => decide (t.line = line)
  let s0 := if hit.isEmpty then s else s.writeBack line
  hit.foldl State.sendFor { s0 with through := s0.through.filter fun t => !decide (t.line = line) }

theorem exec_tier1WriteThrough (line : Nat) (s : State) :
    exec (.tier1WriteThrough line) s = .next (s.throughWritten line).payAll := rfl

/-- The line no longer lags behind; memory, and what streams and launches owe, are as before. -/
theorem State.throughWritten_rest (s : State) (line : Nat) :
    (s.throughWritten line).through = s.through.filter (fun t => !decide (t.line = line)) ∧
      (s.throughWritten line).mem = s.mem ∧ (s.throughWritten line).vdevs = s.vdevs ∧
      (s.throughWritten line).launches = s.launches := by
  let hit := s.through.filter fun t => decide (t.line = line)
  let s0 := if hit.isEmpty then s else s.writeBack line
  have hs0 : s0.withLinesOf s = s := by
    show State.withLinesOf (if hit.isEmpty then s else s.writeBack line) s = s
    split
    · rfl
    · exact s.writeBack_rest line
  let s1 : State := { s0 with through := s0.through.filter fun t => !decide (t.line = line) }
  obtain ⟨hrest, hvdevs⟩ := s1.foldl_sendFor_rest hit
  have hthrough : (hit.foldl State.sendFor s1).through = s1.through := (congrArg State.through hrest :)
  have hmem : (hit.foldl State.sendFor s1).mem = s1.mem := (congrArg State.mem hrest :)
  have hlaunches : (hit.foldl State.sendFor s1).launches = s1.launches := (congrArg State.launches hrest :)
  exact ⟨hthrough.trans (congrArg (fun x : State => x.through.filter fun t => !decide (t.line = line)) hs0 :),
    hmem.trans (congrArg State.mem hs0 :), hvdevs.trans (congrArg State.vdevs hs0 :),
    hlaunches.trans (congrArg State.launches hs0 :)⟩

/-- Settles O49: the slice's access, the delivery of its answer, the late fault and the write-through. -/
theorem storesArePerformedAtTheirSlices : Obligations.StoresArePerformedAtTheirSlices := by
  refine ⟨?_, ?_, ?_, ?_⟩
  · intro s k c e sl y x v answered he hmate hy hask hlone hserve
    refine ⟨fun hok => ?_, fun cause hbad => ?_⟩
    · obtain ⟨t, hrun, hmem, hentry, hanswer⟩ := exec_sliceAccess_performs he hmate hy hask hlone hserve hok
      refine ⟨t, hrun, ?_, fun a ha => ?_, (congrArg LogEntry.state hentry :),
        (congrArg LogEntry.pa hentry :), hanswer⟩
      · rw [hmem]
        exact Memory.readN_writeN_self ..
      · rw [hmem]
        exact Memory.read_writeN_outside _ _ _ _ ha
    · obtain ⟨t, hrun, hmem, hentry, hanswer⟩ := exec_sliceAccess_refuses he hmate hy hask hlone hserve hbad
      exact ⟨t, hrun, hmem, congrArg LogEntry.state hentry, congrArg LogEntry.cause hentry, hanswer⟩
  · intro s k c e j id p hmate hrev hack hdst hfence hsaved hroom
    refine ⟨fun hnow hst => exec_storeAcknowledge_frees hack hdst hfence hsaved hroom hmate hrev hnow hst,
      fun hnow hst => exec_lateFaultReport_fails hack hdst hfence hsaved hroom hmate hrev hnow hst,
      fun i hsaving hstop hrevj hi => ?_⟩
    have hnow := Core.takesNow_stopped hsaving hstop hrevj p.payload
    rcases hi with ⟨hst, rfl⟩ | ⟨hst, rfl⟩
    · exact ⟨_, exec_storeAcknowledge .., State.ackArrives_parks hack hdst hfence hsaved hroom hst hnow⟩
    · exact ⟨_, exec_lateFaultReport .., State.ackArrives_parks hack hdst hfence hsaved hroom hst hnow⟩
  · intro s k c e he hhold hready
    rw [exec_lateFaultTrap he hhold]
    exact ⟨_, rfl, s.takeTrap_mem .., State.takeTrap_trapped hready ((s.ctx k c).lateRec e)⟩
  · intro s line
    refine ⟨⟨_, exec_tier1WriteThrough line s⟩, fun hstreams hlaunches => ?_⟩
    obtain ⟨hthrough, hmem, hvdevs, hlaunch⟩ := s.throughWritten_rest line
    rw [exec_tier1WriteThrough, State.payAll_of_none (hvdevs ▸ hstreams) (hlaunch ▸ hlaunches)]
    refine ⟨_, rfl, fun u hu => ?_, fun u hu hne => ?_, hmem⟩
    · rw [hthrough] at hu
      simpa using (List.mem_filter.mp hu).2
    · rw [hthrough]
      exact List.mem_filter.mpr ⟨hu, by simpa using hne⟩

end Sys2Proof.Machine
end

section
/-! The events that let a held context go on (O50): responses, misses of TLBs and of the I-cache, pieces brought back from a save
area, expired bounds and latches sent to a helper (05 R93, R98, R100, 19 R290, 02 R35, 23 R356, 10 R193). -/

namespace Sys2Proof.Machine

/-! ### What a walk finds depends on memory alone -/

namespace State.SameMemory

variable {s t : State} (h : s.SameMemory t)
include h

theorem framesOk (need : Bool) (ppn size : Nat) (tier1 : Bool) : t.framesOk need ppn size tier1 = s.framesOk need ppn size tier1 := by
  simp only [State.framesOk, h.frame, h.t1frames, h.promo]

theorem walkGo (need : Bool) (v va levels table : Nat) : t.walkGo need v va levels table = s.walkGo need v va levels table := by
  induction levels generalizing table with
  | zero => rfl
  | succ levels ih => simp only [State.walkGo, h.mem, h.sliceCheck, h.framesOk, ih]

theorem walk (v : Nat) (va : Addr) : t.walk v va = s.walk v va := by
  simp only [State.walk, h.walkGo, h.ptroot]

end State.SameMemory

/-! ### Messages to the host -/

theorem State.inject_host (s : State) (x : Packet) : (s.inject x).host = s.host := (State.countTx_same ..).host

theorem State.pass_host (s : State) (src dst : Node) (c : PClass) : (s.pass src dst c).host = s.host := by
  unfold State.pass
  dsimp only
  split
  · exact ((State.countTx_same ..).trans (State.countRx_same ..)).host
  · exact s.inject_host _

theorem State.asks_host (s : State) (n m : Node) (c back : PClass) : (s.asks n m c back).host = s.host :=
  ((s.pass n m c).pass_host m n back).trans (s.pass_host n m c)

theorem State.foldl_asks_host (n : Node) (l : List Nat) (s : State) :
    (l.foldl (fun s a => s.asks n (.slice (sliceOf a)) .req .rsp) s).host = s.host := by
  induction l generalizing s with
  | nil => rfl
  | cons a l ih => exact (ih _).trans (s.asks_host ..)

section
variable {s : State} {v : Nat} {va : Addr} (n : Node)

/-- A walk of a malformed table tells the host (19 R289). -/
theorem State.walked_host_malformed (h : s.walk v va = .malformed) : (s.walked n v va).host = s.host ++ [.badEntry v va] := by
  simp [State.walked, h, State.foldl_asks_host, (s.count_same v 8 1).host]

/-- One that finds no mapping does not. -/
theorem State.walked_host_none (h : s.walk v va = .none) : (s.walked n v va).host = s.host := by
  simp [State.walked, h, State.foldl_asks_host, (s.count_same v 8 1).host]

end

/-! ### Responses (05 R93) -/

/-- A held load whose way is clear ends, and the turn is given back. -/
theorem exec_gResponse_loads {s : State} {k c since pa : Nat} {z : Size} {sx : Bool} {m : MemOp 15}
    (hhold : (s.ctx k c).hold = some { instr := .ldg z sx m, since := since, phase := .held })
    (ha : aligned (eaOf m (s.ctx k c)) z.bytes = true)
    (h : ({ s with cur := (k, c) } : State).reachesG false (eaOf m (s.ctx k c)) pa false .none .part)
    (hlate : (s.ctx k c).lateEntry = none) (henabled : s.enabled k c = true) :
    ∃ t, exec (.gResponse k c) s = .next t ∧ t.cur = s.cur ∧ t.mem = s.mem ∧
      t.ctx k c = (loadDone z sx m (Memory.word s.mem pa z.bytes) (s.ctx k c)).advance := by
  let u : State := { s with cur := (k, c) }
  obtain ⟨u1, hu, hrun⟩ := loadGW_reached (s := u) h ha (.ldg z sx m) sx rfl
  have hserve : exec (.gResponse k c) s = giveBack s.cur (loadGW (.ldg z sx m) false z sx .none .part m u) := by
    show execGResponse k c s = _
    simp [execGResponse, hhold, hlate, henabled]
    rfl
  rw [hserve, hrun]
  refine ⟨_, rfl, rfl, hu.mem, ?_⟩
  have hcur : u1.cur = (k, c) := hu.cur
  have hme := u1.setMe_me (loadDone z sx m (Memory.word s.mem pa z.bytes) (s.ctx k c)).advance
  unfold State.me at hme
  rw [State.setMe_k, State.setMe_c, State.k, State.c, hcur] at hme
  exact hme

/-! ### Translation misses (19 R290) -/

/-- What the walk for a miss leaves. -/
def State.missWalked (s : State) (k v : Nat) (va : Addr) : State :=
  (s.asks (.core k) (.core (serviceOf (clusOf k))) .ctrl .ctrl).walked (.core (serviceOf (clusOf k))) v va

theorem State.missWalked_same (s : State) (k v : Nat) (va : Addr) : s.SameButTraffic (s.missWalked k v va) :=
  (s.asks_same ..).trans (State.walked_same ..)

section
variable {s : State} {k c v : Nat} {va : Addr} {wr ex : Bool} (hphase : (s.ctx k c).phase = some (.miss v va wr ex))
  (hquiet : s.quiet (.core k) (.core (serviceOf (clusOf k))) .ctrl .ctrl = true)
include hphase hquiet

/-- A miss that the walk finds an entry for. -/
theorem exec_tlbMissRequest_leaf {e : TlbEntry} (h : s.walk v va = .leaf e) :
    exec (.tlbMissRequest k c) s = .next ((s.missWalked k v va).fillTlb k e) := by
  show execTlbMissRequest k c s = _
  simp [execTlbMissRequest, hphase, hquiet, h, State.missWalked]

/-- A miss that the walk finds none for. -/
theorem exec_tlbMissRequest_bad (h : s.walk v va = .none ∨ s.walk v va = .malformed) : exec (.tlbMissRequest k c) s =
    .next ((s.missWalked k v va).setCtx k c { (s.missWalked k v va).ctx k c with tlbBad := true }) := by
  show execTlbMissRequest k c s = _
  rcases h with h | h <;> simp [execTlbMissRequest, hphase, hquiet, h, State.missWalked]

end

/-- The entry of a walk stands in the TLBs of the core and of its cluster. -/
theorem State.fillTlb_mem_tlb (s : State) (k : Nat) (e : TlbEntry) :
    e ∈ ((s.fillTlb k e).core k).tlb ∧ e ∈ ((s.fillTlb k e).cluster (clusOf k)).tlb := by
  unfold State.fillTlb
  refine ⟨?_, ?_⟩
  · rw [State.setCore_core_self]
    exact mem_tlbInsert ..
  · rw [State.setCore_cluster, State.setCluster_cluster_self]
    exact mem_tlbInsert ..

/-! ### Instruction misses (02 R35) -/

section
variable {s : State} {k c : Nat} (henabled : s.enabled k c = true) (hhold : (s.ctx k c).hold = none)
  (habsent : (s.ctx k c).absent = false) (hflows : s.coreFlows k = false) (hfetch : s.fetchable k c = false)
  (hcode : (s.ctx k c).codeBad ≠ some (s.ctx k c).pc) (hmoves : s.lineMoves k (s.vdevOf k c) (s.ctx k c).pc = false)
include henabled hhold habsent hflows hfetch hcode hmoves

theorem exec_fetchRefill_fills {x : CodeLine} {fresh : Bool}
    (h : s.readLine k (s.vdevOf k c) (s.ctx k c).pc = .inr (x, fresh)) :
    exec (.fetchRefill k c) s = .next ((s.useLine k (s.vdevOf k c) (s.ctx k c).pc).fillLine k x fresh) := by
  show execFetchRefill k c s = _
  simp [execFetchRefill, henabled, hhold, habsent, hflows, hfetch, hcode, hmoves, h]

theorem exec_fetchRefill_traps {cause : Byte} (h : s.readLine k (s.vdevOf k c) (s.ctx k c).pc = .inl cause) :
    exec (.fetchRefill k c) s = .next ((s.useLine k (s.vdevOf k c) (s.ctx k c).pc).takeTrap k c
      { tpc := (s.ctx k c).pc, cause := cause, addr := (s.ctx k c).pc.setWidth 64, val := 0 }) := by
  show execFetchRefill k c s = _
  simp [execFetchRefill, henabled, hhold, habsent, hflows, hfetch, hcode, hmoves, h]

end

/-- A context whose fetch was found to have no mapping, once a line of it has come. -/
def State.codeHealed (s : State) (k : Nat) (x : CodeLine) (j : Nat) (y : Ctx) : Ctx :=
  if s.vdevOf k j = x.vdev ∧ y.codeBad.any fun a => decide (a.toNat / 64 = x.addr) then { y with codeBad := none } else y

/-- A core whose I-cache has taken a line. -/
def State.lineFilled (s : State) (k : Nat) (x : CodeLine) : Core :=
  { s.core k with
    icache := (x :: (s.core k).icache).take 64
    ctxs := (s.core k).ctxs.map fun e => (e.1, s.codeHealed k x e.1 e.2) }

/-- A cluster whose code cache has taken a line. -/
def State.codeFilled (s : State) (k : Nat) (x : CodeLine) : Cluster :=
  { s.cluster (clusOf k) with codeCache := (x :: (s.cluster (clusOf k)).codeCache).take 8192 }

theorem State.fillLine_eq (s : State) (k : Nat) (x : CodeLine) (fresh : Bool) : s.fillLine k x fresh =
    (if fresh then s.setCluster (clusOf k) (s.codeFilled k x) else s).setCore k (s.lineFilled k x) := by
  have hctxs : ((s.core k).ctxs.map fun e =>
      if s.vdevOf k e.1 = x.vdev ∧ e.2.codeBad.any fun a => decide (a.toNat / 64 = x.addr) then
        (e.1, { e.2 with codeBad := none }) else e) = (s.core k).ctxs.map fun e => (e.1, s.codeHealed k x e.1 e.2) := by
    refine List.map_congr_left fun e _ => ?_
    unfold State.codeHealed
    split <;> rfl
  unfold State.fillLine State.lineFilled
  rw [← hctxs]
  cases fresh <;> rfl

theorem State.lineFilled_ctx (s : State) (k c : Nat) (x : CodeLine) :
    (s.lineFilled k x).ctx k c = s.ctx k c ∨ (s.lineFilled k x).ctx k c = { s.ctx k c with codeBad := none } := by
  have hfind : (s.lineFilled k x).ctxs.find c = ((s.core k).ctxs.find c).map (s.codeHealed k x c) :=
    Sparse.find_map_values _ (s.codeHealed k x) c
  unfold State.ctx Core.ctx Sparse.get
  rw [hfind]
  cases (s.core k).ctxs.find c with
  | none => exact .inl rfl
  | some y =>
    simp only [Option.map_some, Option.getD_some, State.codeHealed]
    split
    · exact .inr rfl
    · exact .inl rfl

/-- A line that is filled stands in the I-cache, and in the code cache where it came from memory; a context forgets at most
that its fetch had no mapping. -/
theorem State.fillLine_fills (s : State) (k c : Nat) (x : CodeLine) (fresh : Bool) :
    x ∈ ((s.fillLine k x fresh).core k).icache ∧
      (fresh = true → x ∈ ((s.fillLine k x fresh).cluster (clusOf k)).codeCache) ∧ (s.fillLine k x fresh).mem = s.mem ∧
      ((s.fillLine k x fresh).ctx k c = s.ctx k c ∨ (s.fillLine k x fresh).ctx k c = { s.ctx k c with codeBad := none }) := by
  rw [State.fillLine_eq]
  refine ⟨?_, fun hfresh => ?_, ?_, ?_⟩
  · rw [State.setCore_core_self]
    simp [State.lineFilled]
  · rw [hfresh, if_pos rfl, State.setCore_cluster, State.setCluster_cluster_self]
    simp [State.codeFilled]
  · cases fresh <;> rfl
  · unfold State.ctx
    rw [State.setCore_core_self]
    exact s.lineFilled_ctx k c x

theorem State.SameButTraffic.frameReady {s t : State} (h : s.SameButTraffic t) {k c : Nat} (hready : s.frameReady k c) :
    t.frameReady k c := by
  unfold State.frameReady
  rw [h.ctx, h.slot, h.bank]
  exact hready

theorem State.SameButTraffic.tvec {s t : State} (h : s.SameButTraffic t) (k : Nat) : (t.core k).tvec = (s.core k).tvec :=
  (congrArg Core.tvec (h.core k) :)

/-! ### What follows a restore (23 R356) -/

/-- The registers that a save area holds of a context, and whether they are absent, are the same. -/
structure Ctx.SamePieces (y y1 : Ctx) : Prop where
  absent : y1.absent = y.absent
  a : y1.a = y.a
  p : y1.p = y.p

/-- Slots, registers and the vector engine of core `k` are absent or present as before. -/
structure Core.SamePieces (k : Nat) (x x1 : Core) : Prop where
  slots : x1.slots = x.slots
  vx : x1.vx.absent = x.vx.absent
  ctx : ∀ c, (x.ctx k c).SamePieces (x1.ctx k c)

/-- The banks, and those pieces of every core, are as before. -/
structure State.SamePieces (s t : State) : Prop where
  bank : ∀ cl b, t.bank cl b = s.bank cl b
  core : ∀ k, (s.core k).SamePieces k (t.core k)

theorem Ctx.SamePieces.of_eq {y y1 : Ctx} (h : y1 = y) : y.SamePieces y1 := h ▸ ⟨rfl, rfl, rfl⟩

theorem Core.SamePieces.of_ctxs {k : Nat} {x x1 : Core} (hslots : x1.slots = x.slots) (hvx : x1.vx.absent = x.vx.absent)
    (hctxs : x1.ctxs = x.ctxs) : x.SamePieces k x1 :=
  ⟨hslots, hvx, fun c => .of_eq (congrArg (Sparse.get · (ctxInit k) c) hctxs)⟩

theorem Core.SamePieces.refl (k : Nat) (x : Core) : x.SamePieces k x := .of_ctxs rfl rfl rfl

theorem Core.SamePieces.trans {k : Nat} {x x1 x2 : Core} (h : x.SamePieces k x1) (h' : x1.SamePieces k x2) : x.SamePieces k x2 where
  slots := h'.slots.trans h.slots
  vx := h'.vx.trans h.vx
  ctx c := ⟨(h'.ctx c).absent.trans (h.ctx c).absent, (h'.ctx c).a.trans (h.ctx c).a, (h'.ctx c).p.trans (h.ctx c).p⟩

namespace State.SamePieces

variable {s t u : State}

theorem refl (s : State) : s.SamePieces s := ⟨fun _ _ => rfl, fun k => .refl k _⟩

theorem trans (h : s.SamePieces t) (h' : t.SamePieces u) : s.SamePieces u :=
  ⟨fun cl b => (h'.bank cl b).trans (h.bank cl b), fun k => (h.core k).trans (h'.core k)⟩

theorem foldl {α : Type} (f : State → α → State) (hf : ∀ (s : State) a, s.SamePieces (f s a)) (l : List α) (s : State) :
    s.SamePieces (l.foldl f s) := by
  induction l generalizing s with
  | nil => exact refl s
  | cons a l ih => exact (hf s a).trans (ih _)

theorem ofTraffic (h : s.SameButTraffic t) : s.SamePieces t :=
  ⟨h.bank, fun k => .of_ctxs (congrArg Core.slots (h.core k) :) (congrArg (fun x : Core => x.vx.absent) (h.core k) :) (h.ctxs k)⟩

theorem setCore {k : Nat} {x : Core} (h : (s.core k).SamePieces k x) : s.SamePieces (s.setCore k x) := by
  refine ⟨fun _ _ => rfl, fun i => ?_⟩
  by_cases hi : i = k
  · rw [hi, State.setCore_core_self]
    exact h
  · rw [State.setCore_core_ne _ _ hi]
    exact .refl i _

theorem slot (h : s.SamePieces t) (k n : Nat) : t.slot k n = s.slot k n :=
  congrArg (fun m : Sparse Slot => m.get {} n) (h.core k).slots

theorem ctx (h : s.SamePieces t) (k c : Nat) : (s.ctx k c).SamePieces (t.ctx k c) := (h.core k).ctx c

end State.SamePieces

/-- A flow phase that opens begins at the next instruction, with the pieces of its core as they are (10 R198). -/
theorem State.openFlow_same (s : State) (k : Nat) : s.SamePieces (s.openFlow k) := by
  have hctx0 : ((s.core k).ctx k 0).SamePieces ((((s.core k).ctx k 0).setFlag stFLW true).advance) := ⟨rfl, rfl, rfl⟩
  unfold State.openFlow
  refine State.SamePieces.trans ?_ (.ofTraffic (State.count_same ..).toSameButTraffic)
  refine .setCore ⟨rfl, rfl, fun c => ?_⟩
  by_cases hc : c = 0
  · subst hc
    refine (congrArg (Ctx.SamePieces _) (Sparse.get_put_self ..)).mpr hctx0
  · exact .of_eq (Sparse.get_put_ne _ _ _ hc)

theorem State.flowOpen_same (s : State) (p g : Nat) : s.SamePieces (s.flowOpen p g) := by
  have hpart (x : Part) : s.SamePieces (s.setPart p x) := ⟨fun _ _ => rfl, fun k => .refl k _⟩
  unfold State.flowOpen
  dsimp only
  split
  · split
    · exact (hpart _).trans (.foldl _ (fun s m => s.openFlow_same m) _ _)
    · exact .refl s
  · exact .refl s

theorem State.useLocked_same (s : State) (k c : Nat) (a : Addr) : s.SameButTraffic (s.useLocked k c a) := by
  refine .foldl _ (fun s b => ?_) _ s
  split
  · exact s.useLine_same ..
  · exact .refl s

theorem State.relock_same (s : State) (k : Nat) : s.SamePieces (s.relock k) := by
  unfold State.relock
  dsimp only
  split
  · split
    · exact .refl s
    · exact (State.SamePieces.ofTraffic (s.useLocked_same ..)).trans (.setCore (.of_ctxs rfl rfl rfl))
  · exact .refl s

/-- What follows a restore leaves every piece as it is. -/
theorem State.restored_same (s : State) (k : Nat) : s.SamePieces (s.restored k) := by
  delta State.restored
  extract_lets x slotsLeft left s1
  have hs1 : s.SamePieces s1 := by
    dsimp only [s1]
    split
    · split
      · exact (s.relock_same k).trans (State.flowOpen_same ..)
      · exact .refl s
    · exact .refl s
  have hkeeps {y : Core} (hslots : y.slots = (s1.core k).slots) (hvx : y.vx.absent = (s1.core k).vx.absent)
      (hctxs : y.ctxs = (s1.core k).ctxs) : s1.SamePieces (s1.setCore k y) := .setCore (.of_ctxs hslots hvx hctxs)
  split
  · split
    · exact hs1
    · exact hs1.trans ⟨fun _ _ => rfl, (hkeeps (y := { s1.core k with restoreFrom := none }) rfl rfl rfl).core⟩
  · split
    · exact hs1
    · exact hs1.trans (hkeeps rfl rfl rfl)

/-! ### Pieces brought back from a save area (23 R356) -/

section
variable {s : State} {k key : Nat} {e : Saved} (hrestores : s.restores k key e) (hwaits : s.restoreWaits k = false)
include hrestores hwaits

/-- A micro-trap whose area still reads as it was written restores its piece. -/
theorem State.microTrap_restores (f : State → Saved → State) : s.microTrap k f = (f (s.walkArea key) e).restored k := by
  obtain ⟨hfrom, hsaved, hgood⟩ := hrestores
  simp [State.microTrap, hwaits, hfrom, hsaved, hgood]

/-- The registers of an absent context come back. -/
theorem exec_registerMissMicrotrap_context {c : Nat} (habsent : (s.ctx k c).absent = true) :
    ∃ t, exec (.registerMissMicrotrap k c) s = .next t ∧ (t.ctx k c).absent = false ∧ (t.ctx k c).a = (s.ctx k c).a ∧
      (t.ctx k c).p = (s.ctx k c).p := by
  have hwalk := s.walkArea_same key
  let u := (s.walkArea key).setCtx k c { (s.walkArea key).ctx k c with absent := false }
  have hrun : exec (.registerMissMicrotrap k c) s = .next (u.restored k) := by
    show execRegisterMissMicrotrap k c s = _
    simp only [execRegisterMissMicrotrap, habsent, if_true, State.microTrap_restores hrestores hwaits]
    rfl
  have hctx : u.ctx k c = { s.ctx k c with absent := false } := by
    rw [State.setCtx_ctx_self, hwalk.ctx]
  have hkept := (u.restored_same k).ctx k c
  rw [hctx] at hkept
  exact ⟨_, hrun, hkept.absent, hkept.a, hkept.p⟩

/-- An absent vector engine comes back for the instruction that names it. -/
theorem exec_registerMissMicrotrap_vector {c since : Nat} (habsent : (s.ctx k c).absent = false)
    (hhold : (s.ctx k c).hold = some { instr := .vwait, since := since, phase := .engineMiss }) :
    ∃ t, exec (.registerMissMicrotrap k c) s = .next t ∧ (t.core k).vx.absent = false := by
  let u := (s.walkArea key).setCore k (((s.walkArea key).core k).present .vx)
  have hengine : engineOf .vwait = some .vx := rfl
  have hrun : exec (.registerMissMicrotrap k c) s = .next (u.restored k) := by
    show execRegisterMissMicrotrap k c s = _
    simp only [execRegisterMissMicrotrap, habsent, Bool.false_eq_true, if_false, hhold, hengine,
      State.microTrap_restores hrestores hwaits]
    rfl
  have hcore : (u.core k).vx.absent = false := by
    rw [State.setCore_core_self]
    rfl
  exact ⟨_, hrun, ((u.restored_same k).core k).vx.trans hcore⟩

end

/-- An absent slot whose saved bank is attached. -/
def State.bankBack (s : State) (k n b : Nat) (bk : Bank) (m : Sparse Saved) : State :=
  let s1 := s.attach k n b { bk with marked := (s.bank (clusOf k) b).marked, corrected := (s.bank (clusOf k) b).corrected }
    (s.slot k n).tag
  { s1.setCore k ((s1.core k).rebank n b) with saved := m }

theorem State.bankBack_slot (s : State) (k n b : Nat) (bk : Bank) (m : Sparse Saved) :
    (s.bankBack k n b bk m).slot k n = { bank := b, state := .attached, tag := (s.slot k n).tag } := by
  let s1 := s.attach k n b { bk with marked := (s.bank (clusOf k) b).marked, corrected := (s.bank (clusOf k) b).corrected }
    (s.slot k n).tag
  have hrebank : (s1.setCore k ((s1.core k).rebank n b)).slot k n = s1.slot k n :=
    (congrArg (Core.slot · n) (State.setCore_core_self s1 k ((s1.core k).rebank n b)) :)
  exact hrebank.trans (State.setSlot_slot_self ..)

theorem State.bankBack_bank (s : State) (k n b : Nat) (bk : Bank) (m : Sparse Saved) :
    (s.bankBack k n b bk m).bank (clusOf k) b = { bk with
      marked := (s.bank (clusOf k) b).marked, corrected := (s.bank (clusOf k) b).corrected, state := .held k n } :=
  State.setBank_bank_self ..

/-- The bank of an absent slot comes back with its bytes and full bits. -/
theorem exec_bankMissMicrotrap_attaches {s : State} {k key n b : Nat} {e : Saved} {bk : Bank} (hrestores : s.restores k key e)
    (hwaits : s.restoreWaits k = false) (habsent : (s.slot k n).state = .absent) (hwanted : s.slotWanted k n = true)
    (hpick : (s.cluster (clusOf k)).pick (quadIn k) = some b) (hbank : e.banks.find n = some bk) :
    ∃ t, exec (.bankMissMicrotrap k n) s = .next t ∧
      t.slot k n = { bank := b, state := .attached, tag := (s.slot k n).tag } ∧
      t.bank (clusOf k) b = { bk with
        marked := (s.bank (clusOf k) b).marked, corrected := (s.bank (clusOf k) b).corrected, state := .held k n } := by
  have hwalk := s.walkArea_same key
  have hpickw : ((s.walkArea key).cluster (clusOf k)).pick (quadIn k) = some b := by
    have hbanks : ((s.walkArea key).cluster (clusOf k)).bank = (s.cluster (clusOf k)).bank := funext (hwalk.bank (clusOf k))
    rw [← hpick, Cluster.pick, hbanks]
    rfl
  have hfrom : ((s.walkArea key).core k).restoreFrom = some key :=
    (congrArg Core.restoreFrom (hwalk.core k) :).trans hrestores.1
  have hgo : (decide ((s.slot k n).state = .absent) && s.slotWanted k n) = true := by simp [habsent, hwanted]
  have hrun : exec (.bankMissMicrotrap k n) s = .next (((s.walkArea key).bankBack k n b bk
      ((s.walkArea key).saved.put key { e with banks := e.banks.drop n })).restored k) := by
    show execBankMissMicrotrap k n s = _
    unfold execBankMissMicrotrap
    rw [if_pos hgo, State.microTrap_restores hrestores hwaits, hpickw, hbank]
    generalize s.walkArea key = w at hfrom ⊢
    dsimp only
    rw [hfrom]
    rfl
  have hsame := ((s.walkArea key).bankBack k n b bk ((s.walkArea key).saved.put key { e with banks := e.banks.drop n })).restored_same k
  refine ⟨_, hrun, ?_, ?_⟩
  · rw [hsame.slot, State.bankBack_slot, hwalk.slot]
  · rw [hsame.bank, State.bankBack_bank, hwalk.bank]

/-! ### Expired bounds (05 R100) and latches sent to a helper (10 R193) -/

section
variable {s : State} {k c since : Nat} {i : Instr} {a : Word}
  (hhold : (s.ctx k c).hold = some { instr := i, since := since, phase := .poll a }) (hbound : 0 < (s.ctx k c).bound)
  (hlate : since + (s.ctx k c).bound ≤ s.cyc.toNat)
include hhold hbound hlate

/-- A wait other than for an event is abandoned with a timeout. -/
theorem exec_btoTimeout_abandons (hi : ∀ m, i ≠ .waite m) :
    exec (.btoTimeout k c) s = .next (s.setCtx k c ((s.ctx k c).abandon causeTimeout (addrOf a))) := by
  show execBtoTimeout k c s = _
  simp only [execBtoTimeout, hhold, hbound, hlate, and_self, if_true]

/-- A wait for an event ends without one. -/
theorem exec_btoTimeout_expires (hi : ∃ m, i = .waite m) :
    exec (.btoTimeout k c) s = .next (s.setCtx k c ((s.ctx k c).setPhase .expired)) := by
  obtain ⟨m, rfl⟩ := hi
  show execBtoTimeout k c s = _
  simp only [execBtoTimeout, hhold, hbound, hlate, and_self, if_true]

end

/-- Latches set at home for a helper that is away. -/
theorem exec_eventLatchMessage {s : State} {k h a c : Nat} (haway : (s.ctx k h).away = some (a, c))
    (hlatches : (s.ctx k h).latches ≠ 0) : exec (.eventLatchMessage k h) s =
    .next ((s.setCtx k h { s.ctx k h with latches := 0 }).inject
      { src := .core k, dst := .core a, cls := .ctrl, seq := 0, level := 0, payload := .latch k h (s.ctx k h).latches }) := by
  show execEventLatchMessage k h s = _
  simp only [execEventLatchMessage, haway, hlatches, if_false]

/-- Settles O50: each event by the unit it looks at; a piece of a save area comes back before what a restore may release. -/
theorem missesAndWaitsAreServed : Obligations.MissesAndWaitsAreServed := by
  refine ⟨?_, ?_, ?_, ?_, ?_, ?_, ?_⟩
  · intro s k c since pa z sx m u hhold ha hreach hlate henabled
    obtain ⟨t, hrun, hcur, hmem, hctx⟩ := exec_gResponse_loads hhold ha hreach hlate henabled
    refine ⟨t, hrun, hcur, hmem, ?_⟩
    rw [hctx]
    exact ⟨rfl, rfl, loaded_memory ..⟩
  · intro s k c v va wr ex hphase hquiet
    have hsame := s.missWalked_same k v va
    refine ⟨fun e hleaf => ?_, fun hnone => ?_, fun hbad => ?_⟩
    · have hfill := hsame.trans (State.fillTlb_same _ k e).toSameButTraffic
      obtain ⟨hcore, hcluster⟩ := (s.missWalked k v va).fillTlb_mem_tlb k e
      exact ⟨_, exec_tlbMissRequest_leaf hphase hquiet hleaf, hcore, hcluster, hfill.mem, hfill.ctx k c⟩
    · refine ⟨_, exec_tlbMissRequest_bad hphase hquiet (.inl hnone), ?_, ?_⟩
      · rw [State.setCtx_ctx_self]
      · rw [← (s.asks_same ..).sameMemory.walk] at hnone
        exact (State.walked_host_none _ hnone).trans (s.asks_host ..)
    · refine ⟨_, exec_tlbMissRequest_bad hphase hquiet (.inr hbad), ?_, ?_⟩
      · rw [State.setCtx_ctx_self]
      · rw [← (s.asks_same ..).sameMemory.walk] at hbad
        exact (State.walked_host_malformed _ hbad).trans (congrArg (· ++ _) (s.asks_host ..))
  · intro s k c henabled hhold habsent hflows hfetch hcode hmoves
    have huse := s.useLine_same k (s.vdevOf k c) (s.ctx k c).pc
    refine ⟨fun x fresh hread => ?_, fun cause hread hready => ?_⟩
    · obtain ⟨hicache, hcache, hmem, hctx⟩ := (s.useLine k (s.vdevOf k c) (s.ctx k c).pc).fillLine_fills k c x fresh
      rw [huse.ctx] at hctx
      exact ⟨_, exec_fetchRefill_fills henabled hhold habsent hflows hfetch hcode hmoves hread, hicache, hcache,
        hmem.trans huse.mem, hctx⟩
    · have htrap := State.takeTrap_trapped (huse.frameReady hready)
        { tpc := (s.ctx k c).pc, cause := cause, addr := (s.ctx k c).pc.setWidth 64, val := 0 }
      rw [huse.tvec] at htrap
      refine ⟨_, exec_fetchRefill_traps henabled hhold habsent hflows hfetch hcode hmoves hread,
        (State.takeTrap_mem ..).trans huse.mem, ?_⟩
      rw [← BitVec.or_zero (x := cause.setWidth 64)]
      exact htrap
  · intro s k key n b e bk hrestores hwaits habsent hwanted hpick hbank
    obtain ⟨t, hrun, hslot, hheld⟩ := exec_bankMissMicrotrap_attaches hrestores hwaits habsent hwanted hpick hbank
    refine ⟨t, hrun, hslot, ?_⟩
    rw [hheld]
    exact ⟨rfl, rfl, rfl⟩
  · intro s k c key e hrestores hwaits
    exact ⟨exec_registerMissMicrotrap_context hrestores hwaits,
      fun since habsent hhold => exec_registerMissMicrotrap_vector hrestores hwaits habsent hhold⟩
  · intro s k c since i a hhold hbound hlate
    by_cases hi : ∃ m, i = .waite m
    · refine ⟨_, exec_btoTimeout_expires hhold hbound hlate hi, rfl, fun hother => ?_, fun _ => ?_⟩
      · obtain ⟨m, hm⟩ := hi
        exact absurd hm (hother m)
      · rw [State.setCtx_ctx_self]
        simp [Ctx.phase, Ctx.setPhase, hhold]
    · have hother : ∀ m, i ≠ .waite m := fun m hm => hi ⟨m, hm⟩
      refine ⟨_, exec_btoTimeout_abandons hhold hbound hlate hother, rfl, fun _ => ?_, fun hwaite => absurd hwaite hi⟩
      rw [State.setCtx_ctx_self]
      simp [Ctx.phase, Ctx.abandon, hhold]
  · intro s k h a c haway hlatches
    refine ⟨_, exec_eventLatchMessage haway hlatches, ?_, ?_⟩
    · rw [(State.inject_same ..).ctx, State.setCtx_ctx_self]
    · have hseq : (s.setCtx k h { s.ctx k h with latches := 0 }).packetSeq = s.packetSeq := rfl
      rw [← hseq, State.inject_find]
      rfl

end Sys2Proof.Machine
end

section
/-! What a change of a slot says to the contexts that wait (O38, O39): blocked accesses are abandoned, waits for a slot are over,
and latches are set (06 R112, R115, 11 R215). A context that waits for nothing keeps all but its latches. -/

namespace Sys2Proof.Machine

/-! ### Contexts that wait for nothing -/

/-- The context holds an instruction that waits for a slot, a granule or an event (01 R28, 05 R99, 11 R215). -/
def Ctx.polls (y : Ctx) : Prop := ∃ a, y.phase = some (.poll a)

theorem Ctx.not_polls_of_no_hold {y : Ctx} (h : y.hold = none) : ¬ y.polls := by
  simp [Ctx.polls, Ctx.phase, h]

theorem Ctx.not_polls_of_hold {y : Ctx} {h : Hold} (hhold : y.hold = some h) (hphase : ∀ a, h.phase ≠ .poll a) :
    ¬ y.polls := by
  simpa [Ctx.polls, Ctx.phase, hhold] using hphase

theorem Ctx.polls_of_hold {y : Ctx} {h : Hold} {a : Word} (hhold : y.hold = some h) (hphase : h.phase = .poll a) : y.polls :=
  ⟨a, by rw [Ctx.phase, hhold, Option.map_some, hphase]⟩

section
variable {y : Ctx} (h : ¬ y.polls)
include h

theorem Ctx.feWaitL_of_not_polls : y.feWaitL = none := by
  unfold Ctx.feWaitL
  split
  · rfl
  · split
    · exact absurd (Ctx.polls_of_hold ‹_› rfl) h
    · exact absurd (Ctx.polls_of_hold ‹_› rfl) h
    · rfl

theorem Ctx.feWaitC_of_not_polls : y.feWaitC = none := by
  unfold Ctx.feWaitC
  split
  · rfl
  · split
    · exact absurd (Ctx.polls_of_hold ‹_› rfl) h
    · exact absurd (Ctx.polls_of_hold ‹_› rfl) h
    · rfl

theorem Ctx.slotSettled_of_not_polls (n cyc : Nat) (attached : Bool) : y.slotSettled n cyc attached = y := by
  unfold Ctx.slotSettled
  split
  · exact absurd (Ctx.polls_of_hold ‹_› rfl) h
  · rfl

theorem Ctx.latch_of_not_polls (b : BitVec 4) (cyc : Nat) : y.latch b cyc = { y with latches := y.latches ||| b } := by
  unfold Ctx.latch
  dsimp only
  split
  · exact absurd (Ctx.polls_of_hold ‹_› rfl) h
  · rfl

end

theorem Ctx.abandon_feWaitL (y : Ctx) (cause : Byte) (a : Addr) : (y.abandon cause a).feWaitL = none := by
  refine Ctx.feWaitL_of_not_polls fun ⟨b, hb⟩ => ?_
  cases hhold : y.hold with
  | none => simp [Ctx.phase, Ctx.abandon, hhold] at hb
  | some h => simp [Ctx.phase, Ctx.abandon, hhold] at hb

/-! ### What the contexts of a core are told -/

/-- What is done to a context says something only to one that waits; latches apart. -/
def TellsWaiters (f : Ctx → Ctx) : Prop := ∀ y : Ctx, ¬ y.polls → ∃ l, f y = { y with latches := l }

/-- The context of a core that releases a slot (06 R112). -/
def Ctx.abandonedL (n : Nat) (y : Ctx) : Ctx :=
  match y.feWaitL with
  | some a => if slotOfAddr a = n ∧ outOfRange a = false then y.abandon causeDetached a else y
  | none => y

/-- The context of a core of a cluster that closes or releases a bank (06 R112). -/
def Ctx.abandonedC (b : Nat) (y : Ctx) : Ctx :=
  match y.feWaitC with
  | some a => if a.toNat / 4096 = b then y.abandon causeCspace a else y
  | none => y

theorem Ctx.abandonedL_tells (n : Nat) : TellsWaiters (Ctx.abandonedL n) := fun y h =>
  ⟨y.latches, by rw [Ctx.abandonedL, Ctx.feWaitL_of_not_polls h]⟩

theorem Ctx.abandonedC_tells (b : Nat) : TellsWaiters (Ctx.abandonedC b) := fun y h =>
  ⟨y.latches, by rw [Ctx.abandonedC, Ctx.feWaitC_of_not_polls h]⟩

theorem Ctx.slotSettled_tells (n cyc : Nat) (attached : Bool) : TellsWaiters fun y => y.slotSettled n cyc attached := fun y h =>
  ⟨y.latches, Ctx.slotSettled_of_not_polls h ..⟩

theorem Ctx.latch_tells (b : BitVec 4) (cyc : Nat) : TellsWaiters fun y => if y.guest.isSome then y else y.latch b cyc := by
  intro y h
  dsimp only
  split
  · exact ⟨y.latches, rfl⟩
  · exact ⟨_, Ctx.latch_of_not_polls h ..⟩

/-- Every listed context of a core changed. -/
def Core.mapCtxs (x : Core) (f : Ctx → Ctx) : Core := { x with ctxs := x.ctxs.map fun e => (e.1, f e.2) }

theorem Core.mapCtxs_ctx {f : Ctx → Ctx} (hf : TellsWaiters f) (x : Core) (k c : Nat) (h : ¬ (x.ctx k c).polls) :
    ∃ l, (x.mapCtxs f).ctx k c = { x.ctx k c with latches := l } := by
  have hfind : (x.mapCtxs f).ctxs.find c = (x.ctxs.find c).map f := Sparse.find_map_values x.ctxs (fun _ => f) c
  have hread : (x.mapCtxs f).ctx k c = ((x.ctxs.find c).map f).getD (ctxInit k) := congrArg (Option.getD · (ctxInit k)) hfind
  rw [hread]
  unfold Core.ctx Sparse.get at h ⊢
  cases hc : x.ctxs.find c with
  | none => exact ⟨_, rfl⟩
  | some y =>
    rw [hc] at h
    exact hf y h

/-! ### States that differ in attach tables and in what waiting contexts are told -/

/-- `t` is `s` but for attach tables, event latches and what contexts that wait are told; no transfer unit has reached a bank. -/
structure State.SameButWaits (s t : State) : Prop where
  rest : { t with cores := s.cores } = s
  core : ∀ k, { t.core k with ctxs := (s.core k).ctxs, slots := (s.core k).slots } = s.core k
  units : ∀ cl b, s.unitsIn cl b = false → t.unitsIn cl b = false
  ctx : ∀ k c, ¬ (s.ctx k c).polls → ∃ l, t.ctx k c = { s.ctx k c with latches := l }

/-- A core replaced whose copy engine is as it was: what transfer units have reached is the same. -/
theorem State.setCore_unitsIn {s : State} {k cl b : Nat} {x : Core} (hx : x.cx = (s.core k).cx) (h : s.unitsIn cl b = false) :
    (s.setCore k x).unitsIn cl b = false := by
  simp only [State.unitsIn, List.any_eq_false] at h ⊢
  intro e he
  rcases Sparse.mem_put _ _ _ _ he with rfl | hold
  · rw [hx]
    unfold State.core Sparse.get
    cases hk : s.cores.find k with
    | none => simp
    | some z => exact h _ (Sparse.mem_of_find hk)
  · exact h e hold

@[simp] theorem State.setSlot_ctx (s : State) (k n i j : Nat) (x : Slot) : (s.setSlot k n x).ctx i j = s.ctx i j := by
  unfold State.setSlot State.ctx
  by_cases hi : i = k
  · subst hi
    rw [State.setCore_core_self]
    rfl
  · rw [State.setCore_core_ne _ _ hi]

namespace State.SameButWaits

variable {s t u : State}

theorem refl (s : State) : s.SameButWaits s := ⟨rfl, fun _ => rfl, fun _ _ => id, fun _ _ _ => ⟨_, rfl⟩⟩

theorem trans (h : s.SameButWaits t) (h' : t.SameButWaits u) : s.SameButWaits u where
  rest := (congrArg (fun x : State => { x with cores := s.cores }) h'.rest :).trans h.rest
  core k := (congrArg (fun x : Core => { x with ctxs := (s.core k).ctxs, slots := (s.core k).slots })
    (h'.core k) :).trans (h.core k)
  units cl b hnone := h'.units cl b (h.units cl b hnone)
  ctx k c hpolls := by
    obtain ⟨l, ht⟩ := h.ctx k c hpolls
    obtain ⟨l', hu⟩ := h'.ctx k c (by rw [ht]; exact hpolls)
    exact ⟨l', hu.trans (by rw [ht])⟩

theorem setCore (s : State) (k : Nat) (x : Core) (hx : { x with ctxs := (s.core k).ctxs, slots := (s.core k).slots } = s.core k)
    (hctx : ∀ c, ¬ (s.ctx k c).polls → ∃ l, x.ctx k c = { s.ctx k c with latches := l }) :
    s.SameButWaits (s.setCore k x) := by
  refine ⟨rfl, fun i => ?_, fun cl b => State.setCore_unitsIn (congrArg Core.cx hx :), fun i c hpolls => ?_⟩
  · by_cases hi : i = k
    · rw [hi, State.setCore_core_self]
      exact hx
    · rw [State.setCore_core_ne _ _ hi]
  · unfold State.ctx
    by_cases hi : i = k
    · subst hi
      rw [State.setCore_core_self]
      exact hctx c hpolls
    · rw [State.setCore_core_ne _ _ hi]
      exact ⟨_, rfl⟩

theorem setSlot (s : State) (k n : Nat) (x : Slot) : s.SameButWaits (s.setSlot k n x) :=
  setCore s k _ rfl fun _ _ => ⟨_, rfl⟩

theorem mapCtxs {f : Ctx → Ctx} (hf : TellsWaiters f) (s : State) (k : Nat) :
    s.SameButWaits (s.setCore k ((s.core k).mapCtxs f)) :=
  setCore s k _ rfl fun c => Core.mapCtxs_ctx hf (s.core k) k c

end State.SameButWaits

/-! ### Each operation -/

theorem State.setCore_mapCtxs_slot (s : State) (k : Nat) (f : Ctx → Ctx) (i m : Nat) :
    (s.setCore k ((s.core k).mapCtxs f)).slot i m = s.slot i m := by
  unfold State.slot
  by_cases hi : i = k
  · subst hi
    rw [State.setCore_core_self]
    rfl
  · rw [State.setCore_core_ne _ _ hi]

theorem State.abandonL_eq (s : State) (k n : Nat) : s.abandonL k n = s.setCore k ((s.core k).mapCtxs (Ctx.abandonedL n)) := by
  unfold State.abandonL Core.mapCtxs
  dsimp only
  congr 2
  refine List.map_congr_left fun e _ => ?_
  unfold Ctx.abandonedL
  cases e.2.feWaitL with
  | none => rfl
  | some a => exact (apply_ite (Prod.mk e.1) ..).symm

theorem State.abandonC_core (s : State) (cl b k : Nat) : (s.abandonC cl b).core k =
    if clusOf k = cl then (s.core k).mapCtxs (Ctx.abandonedC b) else s.core k := by
  let f (k : Nat) (x : Core) : Core := if clusOf k = cl then x.mapCtxs (Ctx.abandonedC b) else x
  have hmap : (s.abandonC cl b).cores = s.cores.map fun e => (e.1, f e.1 e.2) := by
    refine List.map_congr_left fun e _ => ?_
    dsimp only [f]
    split
    · refine congrArg (Prod.mk e.1) ?_
      unfold Core.mapCtxs
      congr 1
      refine List.map_congr_left fun y _ => ?_
      unfold Ctx.abandonedC
      cases y.2.feWaitC with
      | none => rfl
      | some a => exact (apply_ite (Prod.mk y.1) ..).symm
    · rfl
  have hfind : (s.abandonC cl b).cores.find k = (s.cores.find k).map (f k) := hmap ▸ Sparse.find_map_values s.cores f k
  unfold State.core Sparse.get
  rw [hfind]
  cases s.cores.find k with
  | none => exact (ite_self _).symm
  | some x => rfl

/-- Abandoned accesses leave the copy engines alone. -/
theorem State.abandonC_unitsIn (s : State) (cl b i j : Nat) : (s.abandonC cl b).unitsIn i j = s.unitsIn i j := by
  unfold State.unitsIn State.abandonC
  rw [List.any_map]
  refine congrArg (List.any s.cores) (funext fun e => ?_)
  dsimp only [Function.comp]
  split <;> rfl

theorem State.abandonL_same (s : State) (k n : Nat) : s.SameButWaits (s.abandonL k n) :=
  s.abandonL_eq k n ▸ .mapCtxs (Ctx.abandonedL_tells n) s k

theorem State.abandonC_same (s : State) (cl b : Nat) : s.SameButWaits (s.abandonC cl b) := by
  refine ⟨rfl, fun k => ?_, fun i j h => (s.abandonC_unitsIn ..).trans h, fun k c hpolls => ?_⟩
  · rw [State.abandonC_core]
    split <;> rfl
  · unfold State.ctx
    rw [State.abandonC_core]
    split
    · exact Core.mapCtxs_ctx (Ctx.abandonedC_tells b) (s.core k) k c hpolls
    · exact ⟨_, rfl⟩

@[simp] theorem State.abandonL_slot (s : State) (k n i m : Nat) : (s.abandonL k n).slot i m = s.slot i m :=
  s.abandonL_eq k n ▸ s.setCore_mapCtxs_slot ..

@[simp] theorem State.abandonC_slot (s : State) (cl b i m : Nat) : (s.abandonC cl b).slot i m = s.slot i m := by
  unfold State.slot
  rw [State.abandonC_core]
  split <;> rfl

theorem State.latchCore_eq (s : State) (k : Nat) (b : BitVec 4) : s.latchCore k b =
    s.setCore k ((s.core k).mapCtxs fun y => if y.guest.isSome then y else y.latch b s.cyc.toNat) := by
  unfold State.latchCore Core.latch Core.mapCtxs
  congr 2
  exact List.map_congr_left fun e _ => (apply_ite (Prod.mk e.1) ..).symm

theorem State.latchCore_same (s : State) (k : Nat) (b : BitVec 4) : s.SameButWaits (s.latchCore k b) :=
  s.latchCore_eq k b ▸ .mapCtxs (Ctx.latch_tells b _) s k

@[simp] theorem State.latchCore_slot (s : State) (k : Nat) (b : BitVec 4) (i m : Nat) : (s.latchCore k b).slot i m = s.slot i m :=
  s.latchCore_eq k b ▸ s.setCore_mapCtxs_slot ..

/-- No context of the core waits in L space for a granule (05 R99). -/
def State.noFeWait (s : State) (k : Nat) : Prop := ∀ e ∈ (s.core k).ctxs, e.2.feWaitL = none

/-- A slot that leaves ARMED: where no granule is waited for, the bank that it brings fills none (05 R101, 06 R115). -/
theorem State.slotSettled_eq {s : State} {k : Nat} {attached : Bool} (h : attached = true → s.noFeWait k) (n : Nat) :
    s.slotSettled k n attached = s.setCore k ((s.core k).mapCtxs fun y => y.slotSettled n s.cyc.toNat attached) := by
  unfold State.slotSettled
  cases attached with
  | false => rfl
  | true =>
    have hnone : (s.core k).ctxs.filterMap (fun e => e.2.feWaitL) = [] := List.filterMap_eq_nil_iff.mpr (h rfl)
    dsimp only
    rw [hnone]
    rfl

section
variable {s : State} {k : Nat} {attached : Bool} (h : attached = true → s.noFeWait k) (n : Nat)
include h

theorem State.slotSettled_same : s.SameButWaits (s.slotSettled k n attached) :=
  State.slotSettled_eq h n ▸ .mapCtxs (Ctx.slotSettled_tells n _ attached) s k

theorem State.slotSettled_slot (i m : Nat) : (s.slotSettled k n attached).slot i m = s.slot i m :=
  State.slotSettled_eq h n ▸ s.setCore_mapCtxs_slot ..

end

/-! ### Waits for a granule after blocked accesses are abandoned -/

theorem Core.mapCtxs_noFeWait {x : Core} {f : Ctx → Ctx} (hf : ∀ y : Ctx, y.feWaitL = none → (f y).feWaitL = none)
    (h : ∀ e ∈ x.ctxs, e.2.feWaitL = none) : ∀ e ∈ (x.mapCtxs f).ctxs, e.2.feWaitL = none := by
  intro e he
  obtain ⟨d, hd, rfl⟩ := List.mem_map.mp he
  exact hf d.2 (h d hd)

section
variable {s : State} {j : Nat} (h : s.noFeWait j)
include h

theorem State.abandonL_noFeWait (k n : Nat) : (s.abandonL k n).noFeWait j := by
  rw [State.abandonL_eq]
  unfold State.noFeWait
  by_cases hj : j = k
  · subst hj
    rw [State.setCore_core_self]
    refine Core.mapCtxs_noFeWait (fun y hy => ?_) h
    rw [Ctx.abandonedL, hy]
    exact hy
  · rw [State.setCore_core_ne _ _ hj]
    exact h

theorem State.abandonC_noFeWait (cl b : Nat) : (s.abandonC cl b).noFeWait j := by
  unfold State.noFeWait
  rw [State.abandonC_core]
  split
  · refine Core.mapCtxs_noFeWait (fun y hy => ?_) h
    unfold Ctx.abandonedC
    split
    · split
      · exact y.abandon_feWaitL ..
      · exact hy
    · exact hy
  · exact h

theorem State.setSlot_noFeWait (k n : Nat) (x : Slot) : (s.setSlot k n x).noFeWait j := by
  unfold State.noFeWait State.setSlot
  by_cases hj : j = k
  · subst hj
    rw [State.setCore_core_self]
    exact h
  · rw [State.setCore_core_ne _ _ hj]
    exact h

end

/-! ### What a state reads as that differs in waits alone -/

theorem State.me_of_cur {s t : State} (h : t.cur = s.cur) : t.me = t.ctx s.k s.c := by
  unfold State.me State.k State.c
  rw [h]

namespace State.SameButWaits

variable {s t : State} (h : s.SameButWaits t)
include h

theorem cur : t.cur = s.cur := (congrArg State.cur h.rest :)
theorem mem : t.mem = s.mem := (congrArg State.mem h.rest :)
theorem cluster (cl : Nat) : t.cluster cl = s.cluster cl := (congrArg (fun x : State => x.cluster cl) h.rest :)
theorem bank (cl b : Nat) : t.bank cl b = s.bank cl b := (congrArg (fun x : State => x.bank cl b) h.rest :)
theorem task (k : Nat) : (t.core k).task = (s.core k).task := (congrArg Core.task (h.core k) :)
theorem revoking (k : Nat) : (t.core k).revoking = (s.core k).revoking := (congrArg Core.revoking (h.core k) :)

theorem inService (k : Nat) : t.inService k = s.inService k := by
  have hout : (t.core k).outOfService = (s.core k).outOfService := (congrArg Core.outOfService (h.core k) :)
  rw [State.inService, State.inService, hout, h.cluster]

theorem partOf (k : Nat) : t.partOf k = s.partOf k := by
  have hparts : t.parts = s.parts := (congrArg State.parts h.rest :)
  rw [State.partOf, State.partOf, h.task, State.partOfSite, State.partOfSite, hparts]

theorem drains {k b : Nat} (hnone : s.drains k b = false) : t.drains k b = false := by
  obtain ⟨huses, hunits⟩ := Bool.or_eq_false_iff.mp hnone
  have hmx : (t.core k).mx = (s.core k).mx := (congrArg Core.mx (h.core k) :)
  have hvx : (t.core k).vx = (s.core k).vx := (congrArg Core.vx (h.core k) :)
  have hcx : (t.core k).cx = (s.core k).cx := (congrArg Core.cx (h.core k) :)
  refine Bool.or_eq_false_iff.mpr ⟨?_, h.units _ _ hunits⟩
  rw [Core.uses, hmx, hvx, hcx]
  exact huses

section
variable {k c : Nat} (hpolls : ¬ (s.ctx k c).polls)
include hpolls

theorem ctx_hold : (t.ctx k c).hold = (s.ctx k c).hold := by
  obtain ⟨l, hl⟩ := h.ctx k c hpolls
  rw [hl]

theorem ctx_pc : (t.ctx k c).pc = (s.ctx k c).pc := by
  obtain ⟨l, hl⟩ := h.ctx k c hpolls
  rw [hl]

theorem taskOf : t.taskOf k c = s.taskOf k c := by
  obtain ⟨l, hl⟩ := h.ctx k c hpolls
  rw [State.taskOf, State.taskOf, h.task, State.homeOf, State.homeOf, hl]

theorem vdevOf : t.vdevOf k c = s.vdevOf k c := by
  rw [State.vdevOf, State.vdevOf, h.taskOf hpolls]

end

theorem me_pc (hpolls : ¬ s.me.polls) : t.me.pc = s.me.pc := by
  rw [State.me_of_cur h.cur]
  exact h.ctx_pc hpolls

end State.SameButWaits

end Sys2Proof.Machine
end

section
/-! The bank instructions (O38): the pool (06 R109 to R111), releases whose drain set is empty (06 R112, R113), and what an
instruction on a slot leaves alone. -/

namespace Sys2Proof.Machine

/-! ### The pool (06 R110) -/

theorem quadIn_lt (k : Nat) : quadIn k < 16 := by
  unfold quadIn
  omega

/-- The sixteen quads of a cluster are all within six steps of each other. -/
theorem mem_quadOrder {q : Nat} (hq : q < 16) (r : Nat) : r ∈ quadOrder q ↔ r < 16 := by
  simp only [quadOrder, List.mem_flatMap, List.mem_filter, List.mem_range, decide_eq_true_eq]
  constructor
  · rintro ⟨-, -, hr, -⟩
    exact hr
  · intro hr
    refine ⟨_, ?_, hr, rfl⟩
    unfold absDiff
    omega

theorem mem_quadBanks (r b : Nat) : b ∈ quadBanks r ↔ b / 48 = r := by
  simp only [quadBanks, List.mem_map, List.mem_range]
  constructor
  · rintro ⟨i, hi, rfl⟩
    omega
  · rintro rfl
    exact ⟨b % 48, by omega, by omega⟩

theorem Bank.free_of_isClean {b : Bank} (h : b.isClean = true) : b.free = true := by
  have hclean : b.state = .clean := of_decide_eq_true h
  rw [Bank.free, hclean]

section
variable {x : Cluster} {q : Nat} (hq : q < 16)
include hq

theorem Cluster.pick_some {b : Nat} (h : x.pick q = some b) : b < 768 ∧ (x.bank b).free = true := by
  obtain ⟨r, hr, hfind⟩ := List.exists_of_findSome?_eq_some h
  have hr16 := (mem_quadOrder hq r).mp hr
  have hbank : b ∈ quadBanks r ∧ (x.bank b).free = true := by
    split at hfind
    · rename_i c hclean
      cases hfind
      exact ⟨List.mem_of_find?_eq_some hclean, Bank.free_of_isClean (List.find?_some hclean :)⟩
    · exact ⟨List.mem_of_find?_eq_some hfind, (List.find?_some hfind :)⟩
  have hdiv := (mem_quadBanks r b).mp hbank.1
  exact ⟨by omega, hbank.2⟩

theorem Cluster.pick_none (h : x.pick q = none) {b : Nat} (hb : b < 768) : (x.bank b).free = false := by
  have hquad := List.findSome?_eq_none_iff.mp h (b / 48) ((mem_quadOrder hq _).mpr (by omega))
  split at hquad
  · cases hquad
  · simpa using List.find?_eq_none.mp hquad b ((mem_quadBanks _ b).mpr rfl)

end

theorem Bank.zeroed_byte (b : Bank) (o : Nat) : b.zeroed.byte o = 0 := by
  simp [Bank.byte, Bank.granule, Bank.zeroed]

/-! ### Instructions on a slot -/

/-- The executing context goes on with the next instruction; memory and the other slots of its core are as before. -/
def State.goesOn (s t : State) (n : Nat) : Prop :=
  t.me.pc = s.me.pc + 4 ∧ t.me.hold = none ∧ t.mem = s.mem ∧ ∀ i, i ≠ n → t.slot s.k i = s.slot s.k i

/-- A state that goes on with one slot changed. -/
theorem State.setSlot_setMe_goesOn {s u : State} (n : Nat) (x : Slot) {y : Ctx} (hmem : u.mem = s.mem)
    (hslot : ∀ i, u.slot s.k i = s.slot s.k i) (hpc : y.pc = s.me.pc) :
    s.goesOn ((u.setSlot s.k n x).setMe y.advance) n ∧ ((u.setSlot s.k n x).setMe y.advance).slot s.k n = x := by
  refine ⟨⟨?_, ?_, hmem, fun i hi => ?_⟩, ?_⟩
  · rw [State.setMe_me, Ctx.advance_pc_self, hpc]
  · rw [State.setMe_me, Ctx.advance_hold_self]
  · rw [State.setMe_slot, State.setSlot_slot_ne _ _ fun e => hi (congrArg Prod.snd e), hslot]
  · rw [State.setMe_slot, State.setSlot_slot_self]

/-- The status of BALLOC and ATT (06 R108). -/
theorem Ctx.bankStatus_flags (y : Ctx) (v : Word) :
    (y.bankStatus v).flag stZ = (v == 0) ∧ (y.bankStatus v).flag stN = v.msb := by
  constructor
  · calc (y.bankStatus v).flag stZ
        = (y.setFlag stZ (v == 0)).flag stZ := Ctx.setFlag_flag_ne _ _ (by decide)
      _ = (v == 0) := Ctx.setFlag_flag_self _ _ (by decide)
  · exact Ctx.setFlag_flag_self _ _ (by decide)

/-- A bank attached, with the status in A. -/
theorem State.attach_retires (s : State) (n b : Nat) (bk : Bank) (v : Word) :
    let t := (s.attach s.k n b bk 0).setMe (s.me.bankStatus v).advance
    s.goesOn t n ∧ t.me.a = v ∧ t.me.flag stZ = (v == 0) ∧ t.me.flag stN = v.msb ∧
      t.slot s.k n = { bank := b, state := .attached } ∧ t.bank (clusOf s.k) b = { bk with state := .held s.k n } := by
  intro t
  obtain ⟨hgoes, hslot⟩ := State.setSlot_setMe_goesOn (s := s)
    (u := s.setBank (clusOf s.k) b { bk with state := .held s.k n }) n { bank := b, state := .attached } (y := s.me.bankStatus v) rfl (fun _ => rfl) rfl
  have hme : t.me = (s.me.bankStatus v).advance := State.setMe_me ..
  obtain ⟨hz, hn⟩ := s.me.bankStatus_flags v
  rw [hme]
  exact ⟨hgoes, rfl, hz, hn, hslot, State.setBank_bank_self ..⟩

theorem State.closeSlot_same (s : State) (k n : Nat) : s.SameButWaits (s.closeSlot k n) :=
  (s.abandonC_same ..).trans (.setSlot ..)

theorem State.closeSlot_goes {s : State} (h : s.me.hold = none) (n : Nat) :
    s.goesOn ((s.closeSlot s.k n).setMe (s.closeSlot s.k n).me.advance) n ∧
      ((s.closeSlot s.k n).setMe (s.closeSlot s.k n).me.advance).slot s.k n = { s.slot s.k n with opened := false } := by
  have hpc : (s.closeSlot s.k n).me.pc = s.me.pc := (s.closeSlot_same ..).me_pc (Ctx.not_polls_of_no_hold h)
  exact State.setSlot_setMe_goesOn n _ (s.abandonC_same ..).mem (s.abandonC_slot _ _ s.k) hpc

section
variable {s : State} {n : BitVec 4} (hissues : s.issues { mig := false })
include hissues

theorem exec_bqry_reads : exec (.bqry n) s = .next (s.setMe (s.me.setA ((s.slot s.k n.toNat).image.setWidth 64)).advance) := by
  show execBqry n s = _
  unfold execBqry
  rw [run_issues _ _ _ _ _ hissues]
  rfl

variable (hn : n ≠ 0)
include hn

theorem bankOp_issues (i : Instr) (body : State → Act) : bankOp i n s body = finish i (body s) := by
  unfold bankOp
  rw [run_issues _ _ _ _ _ hissues, if_neg hn]

/-! ### An EMPTY slot (06 R110, R111, R114) -/

section
variable (hempty : (s.slot s.k n.toNat).state = .empty)
include hempty

theorem exec_balloc_takes {b : Nat} (hpick : (s.cluster (clusOf s.k)).pick (quadIn s.k) = some b) : exec (.balloc n) s =
    .next ((s.attach s.k n.toNat b (s.bank (clusOf s.k) b).zeroed 0).setMe (s.me.bankStatus (BitVec.ofNat 64 b)).advance) := by
  show execBalloc n s = _
  unfold execBalloc
  rw [bankOp_issues hissues hn, if_pos hempty, hpick]
  rfl

theorem exec_balloc_none (hpick : (s.cluster (clusOf s.k)).pick (quadIn s.k) = none) :
    exec (.balloc n) s = .next (s.setMe (s.me.bankStatus 0x8000000000000000).advance) := by
  show execBalloc n s = _
  unfold execBalloc
  rw [bankOp_issues hissues hn, if_pos hempty, hpick]
  rfl

/-- ATT of a bank of the cluster: a free one is attached, with its bytes where the device kept it. -/
theorem exec_att_claims {b : Nat} (hb : (bits s.me.a 0 10).toNat = b) (hlt : b < 768) : exec (.att n) s =
    if (s.bank (clusOf s.k) b).free then
      .next ((s.attach s.k n.toNat b (if (s.bank (clusOf s.k) b).state = .kept (s.vdevOf s.k s.c) then s.bank (clusOf s.k) b
        else (s.bank (clusOf s.k) b).zeroed) 0).setMe (s.me.bankStatus 0).advance)
    else .next (s.setMe (s.me.bankStatus 1).advance) := by
  subst hb
  have hgo : (decide ((s.slot s.k n.toNat).state ≠ .empty) || decide (767 < (bits s.me.a 0 10).toNat)) = false :=
    Bool.or_eq_false_iff.mpr ⟨decide_eq_false (not_not_intro hempty), decide_eq_false (Nat.not_lt.mpr (Nat.le_of_lt_succ hlt))⟩
  show execAtt n s = _
  unfold execAtt
  rw [bankOp_issues hissues hn]
  dsimp only
  rw [if_neg (Bool.eq_false_iff.mp hgo)]
  simp only [decide_eq_true_eq]
  split <;> rfl

theorem exec_arm_arms (tag : BitVec 16) :
    exec (.arm n tag) s = .next ((s.setSlot s.k n.toNat { state := .armed, tag := tag }).setMe s.me.advance) := by
  show execArm n tag s = _
  unfold execArm
  rw [bankOp_issues hissues hn, if_pos hempty]
  rfl

end

/-! ### An ATTACHED slot (06 R115 to R117) -/

section
variable (hattached : (s.slot s.k n.toNat).state = .attached)
include hattached

theorem exec_bwait_goes : exec (.bwait n) s = .next (s.setMe s.me.advance) := by
  show execBwait n s = _
  unfold execBwait
  rw [bankOp_issues hissues hn, hattached, State.timedOut_of_issues hissues]
  rfl

theorem exec_openSlot_opens : exec (.openSlot n) s =
    .next ((s.setSlot s.k n.toNat { s.slot s.k n.toNat with opened := true }).setMe s.me.advance) := by
  show execOpenSlot n s = _
  unfold execOpenSlot
  rw [bankOp_issues hissues hn]
  dsimp only
  rw [hattached]
  rfl

/-- CLOSE where no transfer unit has reached the bank (06 R116). -/
theorem exec_closeSlot_closes (hunits : s.unitsIn (clusOf s.k) (s.slot s.k n.toNat).bank = false) :
    ∃ t, exec (.closeSlot n) s = .next t ∧ s.goesOn t n.toNat ∧
      t.slot s.k n.toNat = { s.slot s.k n.toNat with opened := false } := by
  have hdone := (s.closeSlot_same s.k n.toNat).units _ _ hunits
  show ∃ t, execCloseSlot n s = _ ∧ _
  rw [execCloseSlot, bankOp_issues hissues hn]
  simp only [hissues.2, hattached]
  by_cases hopen : (s.slot s.k n.toNat).opened = true
  · rw [if_pos hopen, if_neg (Bool.eq_false_iff.mp hdone)]
    exact ⟨_, rfl, hattached ▸ State.closeSlot_goes hissues.2 n.toNat⟩
  · rw [if_neg hopen]
    refine ⟨_, rfl, ⟨?_, ?_, rfl, fun i _ => s.setMe_slot ..⟩, ?_⟩
    · rw [State.setMe_me, Ctx.advance_pc_self]
    · rw [State.setMe_me, Ctx.advance_hold_self]
    · rw [State.setMe_slot, ← hattached, ← Bool.eq_false_iff.mpr hopen]

end

end

/-! ### Releases (06 R112, R113) -/

/-- The bank that a release returns to the pool: kept by a device, or zeroed. -/
def Bank.returned (b : Bank) (v : Nat) (zero : Bool) : Bank :=
  if zero then { b.zeroed with state := .clean } else { b with state := .kept v }

/-- A release of a bank that is not marked for retirement. -/
theorem State.detDone_unmarked {s : State} {k b : Nat} (h : (s.bank (clusOf k) b).marked = false) (c : Nat) (zero : Bool) :
    s.detDone k c b zero = (s.setBank (clusOf k) b ((s.bank (clusOf k) b).returned (s.vdevOf k c) zero)).setCtx k c
      (s.ctx k c).advance := by
  unfold State.detDone State.returnBank
  dsimp only
  rw [h, if_neg Bool.false_ne_true]
  cases zero <;> rfl

section
variable {s : State} {i : Instr} {zero : Bool} {n : BitVec 4} (hissues : s.issues { mig := false }) (hn : n ≠ 0)
include hissues hn

/-- An ARMED slot is only emptied. -/
theorem detOp_armed (harmed : (s.slot s.k n.toNat).state = .armed) :
    ∃ t, detOp i zero n s = .next t ∧ s.goesOn t n.toNat ∧ t.slot s.k n.toNat = {} := by
  let u := s.setSlot s.k n.toNat {}
  have hquiet : false = true → u.noFeWait s.k := fun h => absurd h Bool.false_ne_true
  let v := u.slotSettled s.k n.toNat false
  have hsame : s.SameButWaits v := (State.SameButWaits.setSlot ..).trans (State.slotSettled_same hquiet n.toNat)
  have hslot (i : Nat) : (v.setMe v.me.advance).slot s.k i = u.slot s.k i :=
    (State.setMe_slot ..).trans (State.slotSettled_slot hquiet ..)
  have hpc : v.me.pc = s.me.pc := hsame.me_pc (Ctx.not_polls_of_no_hold hissues.2)
  have harmed' : ((s.core s.k).slot n.toNat).state = .armed := harmed
  refine ⟨v.setMe v.me.advance, ?_, ⟨?_, ?_, hsame.mem, fun i hi => ?_⟩, ?_⟩
  · unfold detOp
    rw [bankOp_issues hissues hn]
    dsimp only
    rw [hissues.2, harmed']
    rfl
  · rw [State.setMe_me, Ctx.advance_pc_self, hpc]
  · rw [State.setMe_me, Ctx.advance_hold_self]
  · exact (hslot i).trans (State.setSlot_slot_ne _ _ fun e => hi (congrArg Prod.snd e))
  · exact (hslot _).trans (State.setSlot_slot_self ..)

/-- The release of an attached bank whose drain set is empty. -/
theorem detOp_attached (hattached : (s.slot s.k n.toNat).state = .attached)
    (hcame : (s.core s.k).cameTo n.toNat = false) (hdrains : s.drains s.k (s.slot s.k n.toNat).bank = false)
    (hmarked : (s.bank (clusOf s.k) (s.slot s.k n.toNat).bank).marked = false) :
    ∃ t, detOp i zero n s = .next t ∧ s.goesOn t n.toNat ∧ t.slot s.k n.toNat = {} ∧
      t.bank (clusOf s.k) (s.slot s.k n.toNat).bank =
        (s.bank (clusOf s.k) (s.slot s.k n.toNat).bank).returned (s.vdevOf s.k s.c) zero := by
  let b := (s.slot s.k n.toNat).bank
  let bk := s.bank (clusOf s.k) b
  let u := ((s.abandonL s.k n.toNat).abandonC (clusOf s.k) b).setSlot s.k n.toNat {}
  have hsame : s.SameButWaits u := ((s.abandonL_same ..).trans (State.abandonC_same ..)).trans (.setSlot ..)
  have hpolls : ¬ (s.ctx s.k s.c).polls := Ctx.not_polls_of_no_hold hissues.2
  let v := s.detStart s.k n.toNat b
  have hv : v = u.setBank (clusOf s.k) b { bk with state := .leaving } := rfl
  have hbank : v.bank (clusOf s.k) b = { bk with state := .leaving } := State.setBank_bank_self ..
  have hdone : v.detDone s.k s.c b zero =
      (u.setBank (clusOf s.k) b (bk.returned (s.vdevOf s.k s.c) zero)).setCtx s.k s.c (u.ctx s.k s.c).advance := by
    have hvdev : v.vdevOf s.k s.c = s.vdevOf s.k s.c := hsame.vdevOf hpolls
    rw [State.detDone_unmarked (hbank ▸ hmarked), hbank, hvdev, hv, State.setBank_setBank]
    cases zero <;> rfl
  have hslot (i : Nat) : ((s.abandonL s.k n.toNat).abandonC (clusOf s.k) b).slot s.k i = s.slot s.k i :=
    (State.abandonC_slot ..).trans (State.abandonL_slot ..)
  have hrun : detOp i zero n s = .next (v.detDone s.k s.c b zero) := by
    have hattached' : ((s.core s.k).slot n.toNat).state = .attached := hattached
    have hdrains' : s.drains s.k ((s.core s.k).slot n.toNat).bank = false := hdrains
    unfold detOp
    rw [bankOp_issues hissues hn]
    dsimp only
    rw [hissues.2, hattached']
    dsimp only
    rw [if_neg (Bool.eq_false_iff.mp hcame), if_neg (Bool.eq_false_iff.mp hdrains')]
    rfl
  have hgoes := State.setSlot_setMe_goesOn (s := s) (u := ((s.abandonL s.k n.toNat).abandonC (clusOf s.k) b).setBank (clusOf s.k) b
    (bk.returned (s.vdevOf s.k s.c) zero)) n.toNat {} (y := u.ctx s.k s.c) hsame.mem hslot (hsame.ctx_pc hpolls)
  obtain ⟨hon, hempty⟩ := hgoes
  rw [hrun, hdone]
  exact ⟨_, rfl, hon, hempty, State.setBank_bank_self ..⟩

end

/-- Settles O38: each instruction by the state of its slot. -/
theorem bankInstructionsMoveBanks : Obligations.BankInstructionsMoveBanks := by
  intro s n tag hissues k cl sl goes
  refine ⟨exec_bqry_reads hissues, fun hn => ⟨fun hempty => ⟨fun b hpick => ?_, fun hpick => ⟨fun b => ?_, ?_⟩, ?_, ?_⟩,
    fun harmed => ⟨detOp_armed hissues hn harmed, detOp_armed hissues hn harmed⟩,
    fun hattached => ⟨exec_bwait_goes hissues hn hattached, ?_, exec_closeSlot_closes hissues hn hattached,
      fun hcame hdrains hmarked => ⟨detOp_attached hissues hn hattached hcame hdrains hmarked,
        detOp_attached hissues hn hattached hcame hdrains hmarked⟩⟩⟩⟩
  · obtain ⟨hlt, hfree⟩ := Cluster.pick_some (quadIn_lt k) hpick
    obtain ⟨hgoes, ha, -, hneg, hslot, hbank⟩ := s.attach_retires n.toNat b (s.bank cl b).zeroed (BitVec.ofNat 64 b)
    refine ⟨hlt, hfree, _, exec_balloc_takes hissues hn hempty hpick, hgoes, ha, ?_, hslot, ?_⟩
    · rw [hneg, BitVec.msb_eq_decide, BitVec.toNat_ofNat, Nat.mod_eq_of_lt (by omega)]
      exact decide_eq_false (by omega)
    · rw [hbank]
      exact ⟨rfl, rfl, fun o _ => (s.bank cl b).zeroed_byte o⟩
  · exact Cluster.pick_none (quadIn_lt k) hpick
  · refine ⟨_, exec_balloc_none hissues hn hempty hpick, s.setMe_leaves _, ?_⟩
    obtain ⟨hz, hneg⟩ := s.me.bankStatus_flags 0x8000000000000000
    rw [State.setMe_me]
    exact ⟨rfl, hneg, hz, rfl⟩
  · intro b hlt
    have hrun := exec_att_claims hissues hn hempty (b := b) rfl hlt
    refine ⟨fun hfree => ?_, fun hheld => ?_⟩
    · obtain ⟨hgoes, ha, hz, -, hslot, hbank⟩ := s.attach_retires n.toNat b
        (if (s.bank cl b).state = .kept (s.vdevOf k s.c) then s.bank cl b else (s.bank cl b).zeroed) 0
      refine ⟨_, hrun.trans (if_pos hfree), hgoes, ha, hz, hslot, ?_⟩
      rw [hbank]
      refine ⟨rfl, fun o _ => ?_⟩
      split
      · rfl
      · exact (s.bank cl b).zeroed_byte o
    · refine ⟨_, hrun.trans (if_neg (Bool.eq_false_iff.mp hheld)), s.setMe_leaves _, ?_⟩
      rw [State.setMe_me]
      exact ⟨rfl, (s.me.bankStatus_flags 1).1, rfl⟩
  · obtain ⟨hgoes, hslot⟩ := State.setSlot_setMe_goesOn (s := s) n.toNat { state := .armed, tag := tag } rfl (fun _ => rfl) rfl
    exact ⟨_, exec_arm_arms hissues hn hempty tag, hgoes, State.setMe_me .., congrArg Slot.state hslot, congrArg Slot.tag hslot⟩
  · exact ⟨_, exec_openSlot_opens hissues hn hattached,
      State.setSlot_setMe_goesOn n.toNat { sl with opened := true } rfl (fun _ => rfl) rfl⟩

end Sys2Proof.Machine
end

section
/-! Hand-overs (O39): the sender's slot in transit, the arrival at the target, and the status (06 R118 to R120); the events of held
hand-overs and releases (06 R112, R113). -/

namespace Sys2Proof.Machine

/-! ### The arrival at the target (06 R119, Table 6-3) -/

/-- The target word of a hand-over of context `c` of core `k` names core `j`, which takes banks from there: in service, of the same
partition, with a task that is not being aborted. -/
structure State.hovReaches (s : State) (k c j : Nat) (a : Word) : Prop where
  named : s.hovTo k c a = some j
  service : s.inService j = true
  part : s.partOf j = s.partOf k
  owned : (s.partOf k).isSome = true
  task : (s.core j).task.isSome = true
  kept : (s.core j).revoking = false

theorem State.hovTo_of_no_twin {s : State} {k c j : Nat} {a : Word} (htwin : (s.taskOf k c).bind Task.twin = none)
    (htarget : hovTarget k a = some j) : s.hovTo k c a = some j := by
  rw [State.hovTo, htwin]
  exact htarget

/-- The bank `b` delivered to slot `m` of core `j`, with the latch of a delivery. -/
def State.handedTo (s : State) (j m b : Nat) (bk : Bank) (tag : BitVec 16) : State :=
  ((s.attach j m b bk tag).slotSettled j m true).latchCore j 1

section
variable {s : State} {k c n j : Nat} {a : Word} (h : s.hovReaches k c j a)
include h

/-- At a target that takes banks the slot and its tag decide. -/
theorem State.hovArrive_reaches : s.hovArrive k c n a =
    if (s.slot j (hovSlot a)).state = .armed ∧ (s.slot j (hovSlot a)).tag = hovTag a then
      (s.handedTo j (hovSlot a) (s.slot k n).bank (s.bank (clusOf k) (s.slot k n).bank) (hovTag a), 0)
    else (s, 1) := by
  obtain ⟨hnamed, hservice, hpart, howned, htask, hkept⟩ := h
  have htask' : (s.core j).task.isNone = false := by simpa [Option.isSome_iff_ne_none] using htask
  have howned' : (s.partOf k).isNone = false := by simpa [Option.isSome_iff_ne_none] using howned
  simp [State.hovArrive, hnamed, hservice, hpart, howned', htask', hkept, State.handedTo]

end

/-- A bank attached leaves the contexts alone. -/
theorem State.attach_noFeWait {s : State} {i : Nat} (h : s.noFeWait i) (j m b : Nat) (bk : Bank) (tag : BitVec 16) :
    (s.attach j m b bk tag).noFeWait i :=
  State.setSlot_noFeWait (s := s.setBank (clusOf j) b { bk with state := .held j m }) h j m _

section
variable {s : State} {j : Nat} (h : s.noFeWait j) (m b : Nat) (bk : Bank) (tag : BitVec 16)
include h

theorem State.handedTo_same : (s.setBank (clusOf j) b { bk with state := .held j m }).SameButWaits (s.handedTo j m b bk tag) :=
  ((State.SameButWaits.setSlot _ j m { bank := b, state := .attached, opened := false, tag := tag }).trans
    (State.slotSettled_same (fun _ => State.attach_noFeWait h j m b bk tag) m)).trans (State.latchCore_same ..)

theorem State.handedTo_slot (i o : Nat) : (s.handedTo j m b bk tag).slot i o =
    (s.setSlot j m { bank := b, state := .attached, opened := false, tag := tag }).slot i o :=
  (State.latchCore_slot ..).trans (State.slotSettled_slot (fun _ => State.attach_noFeWait h j m b bk tag) ..)

end

/-- The arrival leaves a context that waits for nothing as it was, but for its latches. -/
theorem State.hovArrive_ctx {s : State} (hquiet : ∀ j, s.noFeWait j) (k c n : Nat) (a : Word) (hpolls : ¬ (s.ctx k c).polls) :
    ∃ l, (s.hovArrive k c n a).1.ctx k c = { s.ctx k c with latches := l } := by
  unfold State.hovArrive
  dsimp only
  split
  · exact ⟨_, rfl⟩
  split
  · exact ⟨_, rfl⟩
  split
  · exact ⟨_, rfl⟩
  split
  · exact (State.handedTo_same (hquiet _) _ _ _ _).ctx k c hpolls
  · exact ⟨_, rfl⟩

/-! ### The status (06 R119) -/

/-- The sender's slot once the status is back. -/
def Slot.afterHov (sl : Slot) (st : BitVec 2) : Slot :=
  if st = 0 then {} else { sl with state := .attached, opened := sl.wasOpen }

theorem State.hovReturn_eq (s : State) (k c n : Nat) (st : BitVec 2) : s.hovReturn k c n st =
    (s.setSlot k n ((s.slot k n).afterHov st)).setCtx k c
      ((((s.ctx k c).setFlag stZ (st == 0)).setFlag stN false).setA (st.setWidth 64)).advance := by
  have hback : s.hovSlotBack k n st = s.setSlot k n ((s.slot k n).afterHov st) := by
    unfold State.hovSlotBack Slot.afterHov
    split <;> rfl
  unfold State.hovReturn
  dsimp only
  rw [hback, State.setSlot_ctx]

theorem State.hovReturn_ctx (s : State) (k c n : Nat) (st : BitVec 2) :
    let y := (s.hovReturn k c n st).ctx k c
    y.a = st.setWidth 64 ∧ y.flag stZ = (st == 0) ∧ y.pc = (s.ctx k c).pc + 4 ∧ y.hold = none := by
  intro y
  have hy : y = ((((s.ctx k c).setFlag stZ (st == 0)).setFlag stN false).setA (st.setWidth 64)).advance := by
    dsimp only [y]
    rw [State.hovReturn_eq, State.setCtx_ctx_self]
  rw [hy]
  refine ⟨rfl, ?_, rfl, rfl⟩
  calc (((s.ctx k c).setFlag stZ (st == 0)).setFlag stN false).flag stZ
      = ((s.ctx k c).setFlag stZ (st == 0)).flag stZ := Ctx.setFlag_flag_ne _ _ (by decide)
    _ = (st == 0) := Ctx.setFlag_flag_self _ _ (by decide)

theorem State.hovReturn_slot_self (s : State) (k c n : Nat) (st : BitVec 2) :
    (s.hovReturn k c n st).slot k n = (s.slot k n).afterHov st := by
  rw [State.hovReturn_eq, State.setCtx_slot, State.setSlot_slot_self]

theorem State.hovReturn_slot_ne (s : State) {k n i m : Nat} (c : Nat) (st : BitVec 2) (h : (i, m) ≠ (k, n)) :
    (s.hovReturn k c n st).slot i m = s.slot i m := by
  rw [State.hovReturn_eq, State.setCtx_slot, State.setSlot_slot_ne _ _ h]

@[simp] theorem State.hovReturn_bank (s : State) (k c n : Nat) (st : BitVec 2) (cl b : Nat) :
    (s.hovReturn k c n st).bank cl b = s.bank cl b := by
  rw [State.hovReturn_eq]
  rfl

@[simp] theorem State.hovReturn_mem (s : State) (k c n : Nat) (st : BitVec 2) : (s.hovReturn k c n st).mem = s.mem := by
  rw [State.hovReturn_eq]
  rfl

@[simp] theorem State.hovReturn_cur (s : State) (k c n : Nat) (st : BitVec 2) : (s.hovReturn k c n st).cur = s.cur := by
  rw [State.hovReturn_eq]
  rfl

/-! ### The sender (06 R119, R120) -/

/-- The sender's slot while its bank is on its way. -/
def Slot.inTransit (sl : Slot) : Slot := { sl with state := .transit, opened := false, wasOpen := sl.opened }

theorem State.hovStart_same (s : State) (k n : Nat) : s.SameButWaits (s.hovStart k n) :=
  ((State.SameButWaits.setSlot s k n (s.slot k n).inTransit).trans (State.abandonL_same ..)).trans (State.abandonC_same ..)

theorem State.hovStart_slot (s : State) (k n i m : Nat) :
    (s.hovStart k n).slot i m = (s.setSlot k n (s.slot k n).inTransit).slot i m :=
  (State.abandonC_slot ..).trans (State.abandonL_slot ..)

theorem State.hovStart_slot_self (s : State) (k n : Nat) : (s.hovStart k n).slot k n = (s.slot k n).inTransit :=
  (s.hovStart_slot ..).trans (State.setSlot_slot_self ..)

theorem State.hovStart_slot_ne (s : State) {k n i m : Nat} (h : (i, m) ≠ (k, n)) : (s.hovStart k n).slot i m = s.slot i m :=
  (s.hovStart_slot ..).trans (State.setSlot_slot_ne _ _ h)

theorem State.hovStart_noFeWait {s : State} {j : Nat} (h : s.noFeWait j) (k n : Nat) : (s.hovStart k n).noFeWait j :=
  State.abandonC_noFeWait (State.abandonL_noFeWait (State.setSlot_noFeWait h _ _ _) _ _) _ _

section
variable {s t : State} {k c : Nat} (h : s.SameButWaits t) (hpolls : ¬ (s.ctx k c).polls)
include h hpolls

theorem State.SameButWaits.hovTo (a : Word) : t.hovTo k c a = s.hovTo k c a := by
  rw [State.hovTo, State.hovTo, h.taskOf hpolls]

theorem State.SameButWaits.hovReaches {j : Nat} {a : Word} (hr : s.hovReaches k c j a) : t.hovReaches k c j a where
  named := (h.hovTo hpolls a).trans hr.named
  service := (h.inService j).trans hr.service
  part := by rw [h.partOf, h.partOf, hr.part]
  owned := by rw [h.partOf, hr.owned]
  task := by rw [h.task, hr.task]
  kept := (h.revoking j).trans hr.kept

/-- A hand-over that may be delivered may be so with its slot in transit. -/
theorem State.SameButWaits.hovReady {n : Nat} (hbank : (t.slot k n).bank = (s.slot k n).bank) (hr : s.hovReady k c n = true) :
    t.hovReady k c n = true := by
  obtain ⟨l, hl⟩ := h.ctx k c hpolls
  simp only [State.hovReady, Bool.and_eq_true, Bool.not_eq_true'] at hr ⊢
  obtain ⟨⟨hdrains, hrelease⟩, hstores⟩ := hr
  refine ⟨⟨hbank ▸ h.drains hdrains, ?_⟩, ?_⟩
  · rw [State.releasable, hl]
    exact hrelease
  · rw [hl]
    exact hstores

end

section
variable {s : State} {n : BitVec 4} (hissues : s.issues { mig := false }) (hn : n ≠ 0)
  (htwin : (s.taskOf s.k s.c).bind Task.twin = none) (hgood : hovBad s.me.a = false)
  (hattached : (s.slot s.k n.toNat).state = .attached) (hcame : (s.core s.k).cameTo n.toNat = false)
  (hready : s.hovReady s.k s.c n.toNat = true)
include hissues hn htwin hgood hattached hcame hready

/-- A hand-over with nothing to wait for arrives and has its status at once. -/
theorem exec_hov_arrives :
    let r := (s.hovStart s.k n.toNat).hovArrive s.k s.c n.toNat s.me.a
    exec (.hov n) s = .next (r.1.hovReturn s.k s.c n.toNat r.2) := by
  intro r
  have hslot := congrArg Slot.bank (s.hovStart_slot_self s.k n.toNat)
  have hgo := (s.hovStart_same s.k n.toNat).hovReady (Ctx.not_polls_of_no_hold hissues.2) hslot hready
  have hn' : ¬ n = 0#4 := hn
  show execHov n s = _
  rw [execHov, run_issues _ _ _ _ _ hissues]
  simp [htwin, hissues.2, hn', hgood, hattached, hcame, State.hovGo, hgo, r]

variable {j : Nat} (hreaches : s.hovReaches s.k s.c j s.me.a)
include hreaches

/-- To a slot ARMED with the tag the bank goes, with status 0. -/
theorem exec_hov_delivers (hclus : clusOf j = clusOf s.k) (harmed : (s.slot j (hovSlot s.me.a)).state = .armed)
    (htag : (s.slot j (hovSlot s.me.a)).tag = hovTag s.me.a) (hquiet : s.noFeWait j) :
    ∃ t, exec (.hov n) s = .next t ∧ t.me.a = 0 ∧ t.me.flag stZ = true ∧ t.me.pc = s.me.pc + 4 ∧ t.slot s.k n.toNat = {} ∧
      t.slot j (hovSlot s.me.a) = { bank := (s.slot s.k n.toNat).bank, state := .attached, tag := hovTag s.me.a } ∧
      t.bank (clusOf s.k) (s.slot s.k n.toNat).bank =
        { s.bank (clusOf s.k) (s.slot s.k n.toNat).bank with state := .held j (hovSlot s.me.a) } ∧ t.mem = s.mem := by
  let u := s.hovStart s.k n.toNat
  let m := hovSlot s.me.a
  let b := (s.slot s.k n.toNat).bank
  let v := u.handedTo j m b (s.bank (clusOf s.k) b) (hovTag s.me.a)
  have hpolls : ¬ (s.ctx s.k s.c).polls := Ctx.not_polls_of_no_hold hissues.2
  have hsame : s.SameButWaits u := s.hovStart_same ..
  have hne : (j, m) ≠ (s.k, n.toNat) := by
    intro heq
    have hstate : (s.slot j m).state = (s.slot s.k n.toNat).state := congrArg (fun x : Nat × Nat => (s.slot x.1 x.2).state) heq
    rw [hattached, show (s.slot j m).state = .armed from harmed] at hstate
    cases hstate
  have hquietu : u.noFeWait j := State.hovStart_noFeWait hquiet _ _
  have hhanded := State.handedTo_same hquietu m b (s.bank (clusOf s.k) b) (hovTag s.me.a)
  have hrun : exec (.hov n) s = .next (v.hovReturn s.k s.c n.toNat 0) := by
    have harrives : u.hovArrive s.k s.c n.toNat s.me.a = (v, 0) := by
      have hown : (u.slot s.k n.toNat).bank = b := (congrArg Slot.bank (s.hovStart_slot_self s.k n.toNat) :)
      rw [State.hovArrive_reaches (hsame.hovReaches hpolls hreaches), s.hovStart_slot_ne hne, if_pos ⟨harmed, htag⟩,
        hown, hsame.bank]
    rw [exec_hov_arrives hissues hn htwin hgood hattached hcame hready, harrives]
  have hcur : (v.hovReturn s.k s.c n.toNat 0).cur = s.cur := (State.hovReturn_cur ..).trans (hhanded.cur.trans hsame.cur)
  have hpc : (v.ctx s.k s.c).pc = s.me.pc :=
    (hhanded.ctx_pc (Ctx.not_polls_of_no_hold ((hsame.ctx_hold hpolls).trans hissues.2))).trans (hsame.ctx_pc hpolls)
  obtain ⟨ha, hz, hnext, -⟩ := v.hovReturn_ctx s.k s.c n.toNat 0
  refine ⟨_, hrun, ?_, ?_, ?_, ?_, ?_, ?_, ?_⟩
  · rw [State.me_of_cur hcur, ha]
    rfl
  · rw [State.me_of_cur hcur, hz]
    rfl
  · rw [State.me_of_cur hcur, hnext, hpc]
  · exact State.hovReturn_slot_self ..
  · exact (v.hovReturn_slot_ne _ _ hne).trans ((State.handedTo_slot hquietu ..).trans (State.setSlot_slot_self ..))
  · exact (State.hovReturn_bank ..).trans ((hhanded.bank _ _).trans (hclus ▸ State.setBank_bank_self ..))
  · exact (State.hovReturn_mem ..).trans (hhanded.mem.trans hsame.mem)

/-- To any other slot but its own it comes back with status 1. -/
theorem exec_hov_refused
    (hslot : ¬ ((s.slot j (hovSlot s.me.a)).state = .armed ∧ (s.slot j (hovSlot s.me.a)).tag = hovTag s.me.a))
    (hne : (j, hovSlot s.me.a) ≠ (s.k, n.toNat)) :
    ∃ t, exec (.hov n) s = .next t ∧ t.me.a = 1 ∧ t.me.flag stZ = false ∧ t.me.pc = s.me.pc + 4 ∧
      (t.slot s.k n.toNat).state = .attached ∧ (t.slot s.k n.toNat).opened = (s.slot s.k n.toNat).opened ∧
      (t.slot s.k n.toNat).bank = (s.slot s.k n.toNat).bank ∧ t.mem = s.mem := by
  let u := s.hovStart s.k n.toNat
  have hpolls : ¬ (s.ctx s.k s.c).polls := Ctx.not_polls_of_no_hold hissues.2
  have hsame : s.SameButWaits u := s.hovStart_same ..
  have hrun : exec (.hov n) s = .next (u.hovReturn s.k s.c n.toNat 1) := by
    have harrives : u.hovArrive s.k s.c n.toNat s.me.a = (u, 1) := by
      rw [State.hovArrive_reaches (hsame.hovReaches hpolls hreaches), s.hovStart_slot_ne hne, if_neg hslot]
    rw [exec_hov_arrives hissues hn htwin hgood hattached hcame hready, harrives]
  have hcur : (u.hovReturn s.k s.c n.toNat 1).cur = s.cur := (State.hovReturn_cur ..).trans hsame.cur
  have hback : (u.hovReturn s.k s.c n.toNat 1).slot s.k n.toNat = (s.slot s.k n.toNat).inTransit.afterHov 1 := by
    rw [State.hovReturn_slot_self, State.hovStart_slot_self]
  obtain ⟨ha, hz, hnext, -⟩ := u.hovReturn_ctx s.k s.c n.toNat 1
  refine ⟨_, hrun, ?_, ?_, ?_, (congrArg Slot.state hback :), (congrArg Slot.opened hback :),
    (congrArg Slot.bank hback :),
    (State.hovReturn_mem ..).trans hsame.mem⟩
  · rw [State.me_of_cur hcur, ha]
    rfl
  · rw [State.me_of_cur hcur, hz]
    rfl
  · rw [State.me_of_cur hcur, hnext, hsame.ctx_pc hpolls]
    rfl

end

/-! ### The events of held hand-overs and releases -/

section
variable {s : State} {k c since : Nat} {n : BitVec 4}

theorem exec_hovDrainDone_sends (hhold : (s.ctx k c).hold = some { instr := .hov n, since := since, phase := .hovDrain })
    (hready : s.hovReady k c n.toNat = true) :
    exec (.hovDrainDone k c) s = .next (s.setCtx k c ((s.ctx k c).setPhase .hovSent)) := by
  show execHovDrainDone k c s = _
  simp [execHovDrainDone, Ctx.hovOf, Ctx.phase, hhold, hready]

theorem exec_hovArrival_arrives (hhold : (s.ctx k c).hold = some { instr := .hov n, since := since, phase := .hovSent }) :
    let r := s.hovArrive k c n.toNat (s.ctx k c).a
    exec (.hovArrival k c) s = .next (r.1.setCtx k c ((r.1.ctx k c).setPhase (.hovBack r.2))) := by
  show execHovArrival k c s = _
  simp [execHovArrival, Ctx.hovOf, Ctx.phase, hhold]

theorem exec_hovStatusReturn_returns {st : BitVec 2}
    (hhold : (s.ctx k c).hold = some { instr := .hov n, since := since, phase := .hovBack st }) (hlive : (s.ctx k c).live = true) :
    exec (.hovStatusReturn k c) s = .next (s.hovReturn k c n.toNat st) := by
  show execHovStatusReturn k c s = _
  simp [execHovStatusReturn, Ctx.hovOf, Ctx.phase, hhold, hlive]

section
variable {b : Nat} (hlive : (s.ctx k c).live = true)
include hlive

theorem exec_bankReleaseDrainDone_det (hhold : (s.ctx k c).hold = some { instr := .det n, since := since, phase := .release b })
    (hdrains : s.drains k b = false) : exec (.bankReleaseDrainDone k c) s = .next (s.detDone k c b false) := by
  show execBankReleaseDrainDone k c s = _
  simp [execBankReleaseDrainDone, hhold, hlive, hdrains]

theorem exec_bankReleaseDrainDone_detZ (hhold : (s.ctx k c).hold = some { instr := .detZ n, since := since, phase := .release b })
    (hdrains : s.drains k b = false) :
    exec (.bankReleaseDrainDone k c) s = .next (s.setCtx k c ((s.ctx k c).setPhase (.zeroing b))) := by
  show execBankReleaseDrainDone k c s = _
  simp [execBankReleaseDrainDone, hhold, hlive, hdrains]

theorem exec_detZZeroingDone_returns (hhold : (s.ctx k c).hold = some { instr := .detZ n, since := since, phase := .zeroing b }) :
    exec (.detZZeroingDone k c) s = .next (s.detDone k c b true) := by
  show execDetZZeroingDone k c s = _
  simp [execDetZZeroingDone, hhold, hlive]

end

end

/-- A phase entered by a context that holds an instruction. -/
theorem Ctx.setPhase_phase {y : Ctx} {h : Hold} (hhold : y.hold = some h) (p : Phase) : (y.setPhase p).phase = some p := by
  simp [Ctx.setPhase, Ctx.phase, hhold]

/-- Settles O39: a hand-over that has nothing to wait for is one arrival and one status; the events are its steps, and those of a
release. -/
theorem handOversMoveABank : Obligations.HandOversMoveABank := by
  refine ⟨?_, ?_⟩
  · intro s n j hissues hn htwin a k sl d hgood htarget hattached hcame hready hservice hpart howned htask hkept hclus
    have hreaches : s.hovReaches s.k s.c j s.me.a :=
      ⟨State.hovTo_of_no_twin htwin htarget, hservice, hpart, howned, htask, hkept⟩
    exact ⟨exec_hov_delivers hissues hn htwin hgood hattached hcame hready hreaches hclus,
      exec_hov_refused hissues hn htwin hgood hattached hcame hready hreaches⟩
  · intro s k c since n held
    refine ⟨fun hhold hready => ⟨_, exec_hovDrainDone_sends hhold hready, ?_⟩, fun hhold hquiet => ?_, fun st hhold hlive => ?_,
      fun b hmarked hlive => ⟨fun hhold hdrains => ?_, fun hhold hdrains => ?_, fun hhold => ?_⟩⟩
    · rw [State.setCtx_ctx_self]
      exact Ctx.setPhase_phase hhold _
    · obtain ⟨l, hl⟩ := State.hovArrive_ctx hquiet k c n.toNat (s.ctx k c).a (Ctx.not_polls_of_hold hhold fun _ => nofun)
      refine ⟨_, (s.hovArrive k c n.toNat (s.ctx k c).a).2, exec_hovArrival_arrives hhold, ?_⟩
      rw [State.setCtx_ctx_self, hl]
      exact Ctx.setPhase_phase hhold _
    · exact ⟨_, exec_hovStatusReturn_returns hhold hlive, s.hovReturn_ctx ..⟩
    · refine ⟨_, exec_bankReleaseDrainDone_det hlive hhold hdrains, ?_⟩
      rw [State.detDone_unmarked hmarked, State.setCtx_ctx_self, State.setCtx_bank, State.setBank_bank_self]
      exact ⟨rfl, rfl⟩
    · refine ⟨_, exec_bankReleaseDrainDone_detZ hlive hhold hdrains, ?_⟩
      rw [State.setCtx_ctx_self]
      exact Ctx.setPhase_phase hhold _
    · refine ⟨_, exec_detZZeroingDone_returns hlive hhold, ?_⟩
      rw [State.detDone_unmarked hmarked, State.setCtx_ctx_self, State.setCtx_bank, State.setBank_bank_self]
      exact ⟨rfl, rfl⟩

end Sys2Proof.Machine
end

section
/-! Engine instructions enter their queues, and the waits for them end (O45): a command stands last in its queue with the pointers
that it captured, and its context goes on (07 R126, R133, R148, 08 R152, R165, 09 R169, R172, R179). -/

namespace Sys2Proof.Machine

/-! ### Queues of a core -/

theorem Core.push_queueOf_self (x : Core) (e : Engine) (q : Cmd) :
    (x.push e q).queueOf e = x.queueOf e ++ [{ q with id := x.cmdSeq, nth := x.enqueued e }] := by cases e <;> rfl

theorem Core.push_queueOf_ne (x : Core) {e f : Engine} (q : Cmd) (h : f ≠ e) : (x.push e q).queueOf f = x.queueOf f := by
  cases e <;> cases f
  case mx.mx | vx.vx | cx.cx => exact absurd rfl h
  all_goals rfl

theorem Core.push_enqueued (x : Core) (e : Engine) (q : Cmd) : (x.push e q).enqueued e = x.enqueued e + 1 := by cases e <;> rfl

theorem Core.push_completed (x : Core) (e : Engine) (q : Cmd) : (x.push e q).completed e = x.completed e := by cases e <;> rfl

/-- A command that enters a queue changes its engine and the count of commands alone. -/
theorem Core.push_rest (x : Core) (e : Engine) (q : Cmd) :
    { x.push e q with mx := x.mx, vx := x.vx, cx := x.cx, cmdSeq := x.cmdSeq } = x := by cases e <;> rfl

theorem Core.push_ctxs (x : Core) (e : Engine) (q : Cmd) : (x.push e q).ctxs = x.ctxs := (congrArg Core.ctxs (x.push_rest e q) :)

theorem Core.push_slots (x : Core) (e : Engine) (q : Cmd) : (x.push e q).slots = x.slots :=
  (congrArg Core.slots (x.push_rest e q) :)

/-- What a core holds beside its contexts reads as before after a context is replaced. -/
theorem State.setCtx_core_congr {α : Type} (f : Core → α) (hf : ∀ (x : Core) l, f { x with ctxs := l } = f x) (s : State)
    (k c j : Nat) (y : Ctx) : f ((s.setCtx k c y).core j) = f (s.core j) :=
  (hf _ _).symm.trans (congrArg f (s.setCtx_core k c j y))

theorem State.setMe_queueOf (s : State) (y : Ctx) (j : Nat) (e : Engine) :
    ((s.setMe y).core j).queueOf e = (s.core j).queueOf e :=
  State.setCtx_core_congr (Core.queueOf · e) (fun _ _ => rfl) s s.k s.c j y

theorem State.setMe_enqueued (s : State) (y : Ctx) (j : Nat) (e : Engine) :
    ((s.setMe y).core j).enqueued e = (s.core j).enqueued e :=
  State.setCtx_core_congr (Core.enqueued · e) (fun _ _ => rfl) s s.k s.c j y

theorem State.setMe_completed (s : State) (y : Ctx) (j : Nat) (e : Engine) :
    ((s.setMe y).core j).completed e = (s.core j).completed e :=
  State.setCtx_core_congr (Core.completed · e) (fun _ _ => rfl) s s.k s.c j y

theorem State.setMe_cmdSeq (s : State) (y : Ctx) (j : Nat) : ((s.setMe y).core j).cmdSeq = (s.core j).cmdSeq :=
  State.setCtx_core_congr Core.cmdSeq (fun _ _ => rfl) s s.k s.c j y

/-- A core replaced by one with the same contexts and slots keeps banks, slots and contexts. -/
theorem State.setCore_keepsL (s : State) {k : Nat} {x : Core} (hctxs : x.ctxs = (s.core k).ctxs)
    (hslots : x.slots = (s.core k).slots) : s.keepsL (s.setCore k x) := by
  refine ⟨fun _ _ => rfl, fun j n => ?_, fun j c _ => s.setCore_ctx hctxs j c⟩
  unfold State.slot Core.slot
  by_cases hj : j = k
  · subst hj
    rw [State.setCore_core_self, hslots]
  · rw [State.setCore_core_ne _ _ hj]

/-! ### The enqueue (07 R126) -/

/-- The entry of an instruction with its captured pointers, whatever its values, class and footprint (07 R126). -/
def Cmd.entryOf (q : Cmd) (s : State) (i : Instr) (a b : PReg) : Prop :=
  { q with vals := [], cls := 0, foot := [], banks := [] } = s.cmd i a b

theorem State.cmd_entryOf (s : State) (i : Instr) (a b : PReg) : (s.cmd i a b).entryOf s i a b := rfl

theorem State.cmd_entryOf_with (s : State) (i : Instr) (a b : PReg) (vs : List Word) (cls : BitVec 2) (f bk : List (Nat × Nat)) :
    ({ s.cmd i a b with vals := vs, cls := cls, foot := f, banks := bk } : Cmd).entryOf s i a b := rfl

/-- The state after an enqueue: the command stands last in its queue, and its context goes on. -/
def State.queued (s : State) (e : Engine) (q : Cmd) (returns : Bool) : State :=
  (s.setCore s.k ((s.core s.k).push e q)).setMe
    { s.me.advance with owed := if returns then some (s.core s.k).cmdSeq else s.me.owed }

theorem State.pushed_keepsL (s : State) (e : Engine) (q : Cmd) : s.keepsL (s.setCore s.k ((s.core s.k).push e q)) :=
  s.setCore_keepsL (Core.push_ctxs ..) (Core.push_slots ..)

theorem State.pushed_me (s : State) (e : Engine) (q : Cmd) : (s.setCore s.k ((s.core s.k).push e q)).me = s.me :=
  s.setCore_ctx (Core.push_ctxs ..) s.k s.c

theorem State.enqueue_done {s : State} {e : Engine} {returns : Bool} (hroom : ((s.core s.k).queueOf e).length < e.depth)
    (hrv : returns = true → s.me.flag stRVF = false ∧ s.me.owed = none) (q : Cmd) :
    s.enqueue e q returns = .done (s.queued e q returns) := by
  have hfree : (returns && (s.me.flag stRVF || s.me.owed.isSome)) = false := by
    cases returns with
    | false => rfl
    | true => simp [hrv rfl]
  simp [State.enqueue, State.queued, hfree, Nat.not_le.mpr hroom, State.pushed_me]

theorem State.queued_enqueued {s : State} {q : Cmd} {i : Instr} {a b : PReg} (h : q.entryOf s i a b) (e : Engine)
    (returns : Bool) : s.enqueued (s.queued e q returns) e i a b returns := by
  have hcore := s.setCore_core_self s.k ((s.core s.k).push e q)
  refine ⟨⟨{ q with id := (s.core s.k).cmdSeq, nth := (s.core s.k).enqueued e }, ?_, (congrArg Cmd.instr h :),
    (congrArg Cmd.ctx h :), (congrArg Cmd.pc h :), (congrArg Cmd.pa h :), (congrArg Cmd.pb h :), rfl, (congrArg Cmd.ran h :)⟩,
    fun f hf => ?_, ?_, ?_, State.setMe_me .., rfl,
    State.keepsL_trans (s.pushed_keepsL e q) rfl (State.keepsL_setMe ..)⟩
  · rw [State.queued, State.setMe_queueOf, hcore, Core.push_queueOf_self]
  · rw [State.queued, State.setMe_queueOf, hcore, Core.push_queueOf_ne _ _ hf]
  · rw [State.queued, State.setMe_enqueued, hcore, Core.push_enqueued]
  · rw [State.queued, State.setMe_completed, hcore, Core.push_completed]

/-- An engine instruction whose body comes to an enqueue. -/
theorem engineOp_enqueues {s : State} {e : Engine} {m : Adm} {returns : Bool} (h : s.engineTakes e m returns) {i : Instr}
    {a b : PReg} {body : State → Act} {q : Cmd} (hq : q.entryOf s i a b) (hbody : body s = s.enqueue e q returns) :
    ∃ t, engineOp i e m s body = .next t ∧ s.enqueued t e i a b returns := by
  obtain ⟨hissues, hpresent, hroom, hrv⟩ := h
  refine ⟨s.queued e q returns, ?_, State.queued_enqueued hq e returns⟩
  rw [engineOp, run_issues _ _ _ _ _ hissues, if_neg (by simp [hpresent]), hbody, State.enqueue_done hroom hrv, finish_done]

theorem mxOp_enqueues {s : State} {returns : Bool} (h : s.engineTakes .mx admE returns) {i : Instr}
    (herr : mxTraps i = true → (s.core s.k).mx.err = false) {a b : PReg} {body : State → Act} {q : Cmd}
    (hq : q.entryOf s i a b) (hbody : body s = s.enqueue .mx q returns) :
    ∃ t, mxOp i s body = .next t ∧ s.enqueued t .mx i a b returns := by
  refine engineOp_enqueues h hq ?_
  rw [if_neg (by simpa using herr), hbody]

theorem mxPlain_enqueues {s : State} {returns : Bool} (h : s.engineTakes .mx admE returns) {i : Instr}
    (herr : mxTraps i = true → (s.core s.k).mx.err = false) (a : PReg) :
    ∃ t, mxPlain i a returns s = .next t ∧ s.enqueued t .mx i a 0 returns :=
  mxOp_enqueues h herr (s.cmd_entryOf i a 0) rfl

theorem vxOp_enqueues {s : State} {returns : Bool} (h : s.engineTakes .vx admE returns) {i : Instr}
    (herr : vxTraps i = true → (s.core s.k).vx.err = false) {a b : PReg} {body : State → Act} {q : Cmd}
    (hq : q.entryOf s i a b) (hbody : body s = s.enqueue .vx q returns) :
    ∃ t, vxOp i s body = .next t ∧ s.enqueued t .vx i a b returns := by
  refine engineOp_enqueues h hq ?_
  rw [if_neg (by simpa using herr), hbody]

section
variable {s : State} (k : BitVec 4) (a : PReg)

theorem execVwr_enqueues (h : s.engineTakes .vx admE false) :
    ∃ t, exec (.vwr k a) s = .next t ∧ s.enqueued t .vx (.vwr k a) a 0 false := by
  show ∃ t, execVwr k a s = .next t ∧ _
  exact vxOp_enqueues h (i := .vwr k a) nofun (s.cmd_entryOf ..) rfl

theorem execVrd_enqueues (h : s.engineTakes .vx admE true) :
    ∃ t, exec (.vrd k) s = .next t ∧ s.enqueued t .vx (.vrd k) 0 0 true := by
  show ∃ t, execVrd k s = .next t ∧ _
  exact vxOp_enqueues h (i := .vrd k) nofun (s.cmd_entryOf ..) rfl

theorem execCwr_enqueues (h : s.engineTakes .cx (admCp true) false) :
    ∃ t, exec (.cwr k a) s = .next t ∧ s.enqueued t .cx (.cwr k a) a 0 false := by
  show ∃ t, execCwr k a s = .next t ∧ _
  exact engineOp_enqueues h (s.cmd_entryOf_with (.cwr k a) a 0 [] _ [] []) rfl

end

/-! ### Group writes (07 R133, 08 R152, 09 R169) -/

/-- A group inside the window leaves no out-of-range record. -/
theorem Ctx.noteGroup_inside (y : Ctx) {ea : Addr} {n : Nat} (h : ea.toNat + 8 * n ≤ 0xC000) : y.noteGroup ea n = y := by
  induction n generalizing ea with
  | zero => rfl
  | succ n ih =>
    have hnext : (ea + 8).toNat = ea.toNat + 8 := by
      rw [BitVec.toNat_add]
      exact Nat.mod_eq_of_lt (show ea.toNat + 8 < 2 ^ 48 by omega)
    have hinside : outOfRange ea = false := decide_eq_false (by omega)
    rw [Ctx.noteGroup, Ctx.noteRange_inside _ _ hinside, ih (by omega)]

/-- An enqueue after the executing context has been written back as it was. -/
theorem State.enqueued_of_setMe {s t : State} {e : Engine} {i : Instr} {a b : PReg} {returns : Bool}
    (h : (s.setMe s.me).enqueued t e i a b returns) : s.enqueued t e i a b returns := by
  unfold State.enqueued at h ⊢
  simp only [State.setMe_queueOf, State.setMe_enqueued, State.setMe_completed, State.setMe_cmdSeq, State.setMe_me,
    State.setMe_k, State.setMe_c, State.setMe_mem] at h
  obtain ⟨hlast, hothers, henq, hcompl, hme, hmem, hkeeps⟩ := h
  exact ⟨hlast, hothers, henq, hcompl, hme, hmem, State.keepsL_trans (State.keepsL_setMe s s.me) rfl hkeeps⟩

/-- The operands of a group write: its registers exist, and its doublewords can be read at aligned addresses in the window. -/
def State.groupReady (s : State) (regs : Nat) (k : BitVec 4) (n : BitVec 5) (a : PReg) : Prop :=
  k.toNat + n.toNat ≤ regs ∧ (addrOf (s.me.ptr a)).toNat % 8 = 0 ∧
    (addrOf (s.me.ptr a)).toNat + 8 * n.toNat ≤ 0xC000 ∧ ∃ vs, s.groupRead (addrOf (s.me.ptr a)) n.toNat = .ok vs

theorem groupWrite_enqueues {s : State} {e : Engine} {m : Adm} (h : s.engineTakes e m false) {regs : Nat} {k : BitVec 4}
    {n : BitVec 5} {a : PReg} (hg : s.groupReady regs k n a) (i : Instr) (cls : BitVec 2) :
    ∃ t, groupWrite i e m regs cls k n a s = .next t ∧ s.enqueued t e i a 0 false := by
  obtain ⟨hissues, hpresent, hroom, -⟩ := h
  obtain ⟨hregs, haligned, hinside, vs, hvs⟩ := hg
  have hroom1 : (((s.setMe s.me).core s.k).queueOf e).length < e.depth := by rwa [State.setMe_queueOf]
  refine ⟨(s.setMe s.me).queued e { (s.setMe s.me).cmd i a 0 with vals := vs, cls := cls } false, ?_,
    State.enqueued_of_setMe (State.queued_enqueued (State.cmd_entryOf_with ..) e false)⟩
  rw [groupWrite, engineOp, run_issues _ _ _ _ _ hissues, if_neg (by simp [hpresent])]
  simp only [Nat.not_lt.mpr hregs, haligned, hvs, Nat.not_le.mpr hroom, Ctx.noteGroup_inside _ hinside, ne_eq, not_true_eq_false,
    if_false, Got.elim_ok]
  rw [State.enqueue_done hroom1 (returns := false) nofun, finish_done]

/-! ### Waits (07 R148, 08 R165, 09 R179) -/

/-- Every command of an engine enqueued before `target` has completed, which is where a wait of the context stands. -/
def State.waitOver (s : State) (e : Engine) (target : Nat) : Prop :=
  ((s.me.hold = none ∧ target = (s.core s.k).enqueued e) ∨ s.me.phase = some (.until target)) ∧
    ∀ q ∈ (s.core s.k).queueOf e, target ≤ q.nth

theorem Ctx.hold_of_phase {y : Ctx} {p : Phase} (h : y.phase = some p) : ∃ i n, y.hold = some ⟨i, n, p⟩ := by
  obtain ⟨⟨i, n, p⟩, hhold, rfl⟩ := Option.map_eq_some_iff.mp h
  exact ⟨i, n, hhold⟩

section
variable {s : State} {n : Nat}

theorem State.waitOver.not_abandoned {e : Engine} (h : s.waitOver e n) :
    ∀ x, s.me.hold = some x → ∀ c a, x.phase ≠ .abandoned c a := by
  intro x hx
  obtain ⟨⟨hnone, -⟩ | hphase, -⟩ := h
  · cases hnone.symm.trans hx
  · obtain ⟨i, m, hhold⟩ := Ctx.hold_of_phase hphase
    cases hhold.symm.trans hx
    exact fun _ _ => nofun

theorem State.untilDone_over {e : Engine} (h : s.waitOver e n) : s.untilDone e = s.retire s.me := by
  obtain ⟨⟨hnone, rfl⟩ | hphase, hall⟩ := h
  · rw [State.untilDone, hnone]
    exact if_pos (by simpa using hall)
  · obtain ⟨i, m, hhold⟩ := Ctx.hold_of_phase hphase
    rw [State.untilDone, hhold]
    exact if_pos (by simpa using hall)

theorem State.copyWaited_over (h : s.waitOver .cx n) : s.copyWaited = (n, true) := by
  obtain ⟨hstands, hall⟩ := h
  change ∀ q ∈ (s.core s.k).cx.queue, n ≤ q.nth at hall
  obtain ⟨hnone, rfl⟩ | hphase := hstands
  · simpa [State.copyWaited, hnone] using hall
  · obtain ⟨i, m, hhold⟩ := Ctx.hold_of_phase hphase
    simpa [State.copyWaited, hhold] using hall

/-- An engine instruction at a wait that is over. -/
theorem engineOp_over {e : Engine} {m : Adm} (hb : s.bars m = none) (hpresent : (s.core s.k).engineAbsent e = false)
    (h : s.waitOver e n) (i : Instr) (body : State → Act) : engineOp i e m s body = finish i (body s) := by
  rw [engineOp, run_goesOn hb h.not_abandoned, if_neg (by simp [hpresent])]

theorem execMxwait_over (hb : s.bars admE = none) (hpresent : (s.core s.k).engineAbsent .mx = false) (h : s.waitOver .mx n)
    (herr : (s.core s.k).mx.err = false) : exec .mxwait s = .next (s.setMe s.me.advance) := by
  show execMxwait s = _
  rw [execMxwait, mxOp, engineOp_over hb hpresent h, if_neg (by simp [herr]), State.untilDone_over h, finish_retire]

theorem execVwait_over (hb : s.bars admE = none) (hpresent : (s.core s.k).engineAbsent .vx = false) (h : s.waitOver .vx n)
    (herr : (s.core s.k).vx.err = false) : exec .vwait s = .next (s.setMe s.me.advance) := by
  show execVwait s = _
  rw [execVwait, vxOp, engineOp_over hb hpresent h, if_neg (by simp [herr]), State.untilDone_over h, finish_retire]

theorem execRdwait_over (hb : s.bars (admCp true) = none) (hpresent : (s.core s.k).engineAbsent .cx = false)
    (h : s.waitOver .cx n) : exec .rdwait s = .next ((s.takeThrough s.k s.c n).setMe s.me.advance) := by
  show execRdwait s = _
  rw [execRdwait, engineOp_over hb hpresent h, State.copyWaited_over h]
  rfl

/-- The core after `CWAIT`: the record is cleared, and its value is under way (09 R179). -/
def Core.cwaited (x : Core) (c : Nat) : Core :=
  { x with
    cx := { x.cx with cv := x.cx.cv.set! 7 0 }, cmdSeq := x.cmdSeq + 1
    returns := x.returns ++ [(c, x.cmdSeq, putBit x.cx.cv7 0 false)] }

theorem execCwait_over (hb : s.bars (admCp true) = none) (hpresent : (s.core s.k).engineAbsent .cx = false)
    (h : s.waitOver .cx n) (hrvf : s.me.flag stRVF = false) (howed : s.me.owed = none) :
    exec .cwait s = .next (((s.setCore s.k ((s.core s.k).cwaited s.c)).takeThrough s.k s.c n).setMe
      { s.me.advance with owed := some (s.core s.k).cmdSeq }) := by
  have hput (x y : Core) : (s.setCore s.k x).setCore s.k y = s.setCore s.k y := by simp [State.setCore]
  have hme : ((s.setCore s.k ((s.core s.k).cwaited s.c)).takeThrough s.k s.c n).me = s.me :=
    s.setCore_ctx (x := (s.core s.k).cwaited s.c) rfl s.k s.c
  show execCwait s = _
  rw [execCwait, engineOp_over hb hpresent h, State.copyWaited_over h]
  simp only [hrvf, howed, Option.isSome_none, Bool.or_self, Bool.not_true, Bool.false_eq_true, if_false, finish_done,
    State.giveRv, State.setCore_core_self, hput]
  congr 2
  exact congrArg (fun y : Ctx => { y.advance with owed := some (s.core s.k).cmdSeq }) hme

end

theorem putBit_putBit_false {n : Nat} (w : BitVec n) (i : Nat) (b : Bool) : putBit (putBit w i b) i false = putBit w i false := by
  cases b with
  | false => exact (BitVec.and_assoc ..).trans (congrArg (w &&& ·) BitVec.and_self)
  | true =>
    refine BitVec.eq_of_getLsbD_eq fun j hj => ?_
    simp only [putBit, if_true, Bool.false_eq_true, if_false, BitVec.getLsbD_and, BitVec.getLsbD_or, BitVec.getLsbD_not]
    grind

theorem cvGet_set_self (cv : Vector Word 8) (v : Word) : cvGet (cv.set! 7 v) 7 = v := by
  simp [cvGet]

theorem cvGet_set_ne (cv : Vector Word 8) {j : Nat} (v : Word) (h : j < 7) : cvGet (cv.set! 7 v) j = cvGet cv j := by
  simp [cvGet]
  grind

/-! ### The register accesses, plain commands and waits -/

/-- Settles O45: each access comes to an enqueue of its engine; a wait that is over goes on, and takes the lines of its commands. -/
theorem engineRegisterAccessesAndWaits : Obligations.EngineRegisterAccessesAndWaits := by
  intro s k n a
  refine ⟨fun h => ⟨mxPlain_enqueues h (i := .mxwr k a) nofun a, mxPlain_enqueues h (i := .mxckf) nofun 0,
      fun hg => groupWrite_enqueues h hg _ 0, fun herr => ⟨mxPlain_enqueues h (fun _ => herr) 0,
        mxPlain_enqueues h (fun _ => herr) 0, mxPlain_enqueues h (fun _ => herr) 0⟩⟩,
    fun h => ⟨mxPlain_enqueues h (i := .mxrd k) nofun 0, mxPlain_enqueues h (i := .mxckl) nofun 0⟩,
    fun h => ⟨execVwr_enqueues k a h, fun hg => groupWrite_enqueues h hg _ 0⟩,
    fun h => execVrd_enqueues k h,
    fun h => ⟨execCwr_enqueues k a h, fun hg => groupWrite_enqueues h hg _ _⟩,
    fun n ⟨hb, hpresent, h⟩ herr => execMxwait_over hb hpresent h herr,
    fun n ⟨hb, hpresent, h⟩ herr => execVwait_over hb hpresent h herr, fun n ⟨hb, hpresent, h⟩ => ⟨?_, fun hrvf howed => ?_⟩⟩
  · exact ⟨_, execRdwait_over hb hpresent h, rfl, rfl, State.keepsL_setMe ..⟩
  · have hcore {α : Type} (f : Core → α) (hf : ∀ (x : Core) l, f { x with ctxs := l } = f x) :
        f (((((s.setCore s.k ((s.core s.k).cwaited s.c)).takeThrough s.k s.c n).setMe
          { s.me.advance with owed := some (s.core s.k).cmdSeq })).core s.k) = f ((s.core s.k).cwaited s.c) :=
      (State.setCtx_core_congr f hf _ _ _ _ _).trans (congrArg f (s.setCore_core_self ..))
    refine ⟨_, execCwait_over hb hpresent h hrvf howed, ?_, ?_, fun j hj => ?_, State.setMe_me .., rfl, rfl,
      State.keepsL_trans (s.setCore_keepsL (x := (s.core s.k).cwaited s.c) rfl rfl) rfl (State.keepsL_setMe ..)⟩
    · exact (hcore Core.returns fun _ _ => rfl).trans
        (congrArg (fun v => (s.core s.k).returns ++ [(s.c, (s.core s.k).cmdSeq, v)]) (putBit_putBit_false ..))
    · exact (hcore (fun x => cvGet x.cx.cv 7) fun _ _ => rfl).trans (cvGet_set_self ..)
    · exact (hcore (fun x => cvGet x.cx.cv j) fun _ _ => rfl).trans (cvGet_set_ne _ _ hj)

end Sys2Proof.Machine
end

section
/-! Commands with operands in banks enter their queues with a footprint (O47): its bytes lie in attached slots of the window
(07 R129), and its addresses are aligned (07 R126, R131, 09 R169, R174, R180). -/

namespace Sys2Proof.Machine

/-! ### Footprints (07 R129) -/

section
variable {s : State} {f : List (Nat × Nat)}

theorem footOutside_of_footAttached (h : s.footAttached f) : footOutside f = none := by
  refine List.findSome?_eq_none_iff.mpr fun r hr => ?_
  obtain hzero | ⟨hend, -⟩ := h r hr
  · exact if_pos hzero
  · by_cases hzero : r.2 = 0
    · exact if_pos hzero
    · rw [if_neg hzero, if_neg (by omega), if_neg (by omega)]

theorem footSlots_attached (h : s.footAttached f) : ∀ e ∈ footSlots f, (s.slot s.k e.1).state = .attached := by
  intro e he
  obtain ⟨r, hr, he⟩ := List.mem_flatMap.mp he
  obtain hzero | ⟨-, hslots⟩ := h r hr
  · rw [if_pos hzero] at he
    cases he
  · by_cases hzero : r.2 = 0
    · rw [if_pos hzero] at he
      cases he
    · rw [if_neg hzero] at he
      obtain ⟨i, hi, rfl⟩ := List.mem_map.mp he
      have hlt := List.mem_range.mp hi
      exact hslots _ (by omega) (by simp only; omega)

/-- A footprint in attached slots of the window is given its banks. -/
theorem State.withFoot_attached (h : s.footAttached f) (i : Instr) (body : List (Nat × Nat) → Act) :
    s.withFoot i f body = body (s.footBanks s.k f) := by
  have hnone : (footSlots f).find? (fun e => decide ((s.slot s.k e.1).state ≠ .attached)) = none :=
    List.find?_eq_none.mpr fun e he => by simp [footSlots_attached h e he]
  rw [State.withFoot, footOutside_of_footAttached h]
  dsimp only
  rw [hnone]

theorem mxCheck_attached (hroom : (s.core s.k).mx.queue.length < Engine.depth .mx) {al : List (Nat × Nat × Addr)}
    (hal : ∀ e ∈ al, e.1 % e.2.1 = 0) (h : s.footAttached f) (i : Instr) (body : List (Nat × Nat) → Act) :
    mxCheck i al f s body = body (s.footBanks s.k f) := by
  have hnone : al.find? (fun e => decide (e.1 % e.2.1 ≠ 0)) = none :=
    List.find?_eq_none.mpr fun e he => by simp [hal e he]
  rw [mxCheck, if_neg (Nat.not_le.mpr hroom), hnone]
  exact State.withFoot_attached h i body

end

/-! ### Matrix commands (07 Table 7-2) -/

theorem State.engineTakes.room {s : State} {e : Engine} {m : Adm} {returns : Bool} (h : s.engineTakes e m returns) :
    ((s.core s.k).queueOf e).length < e.depth := h.2.2.1

section
variable {s : State} {a b : PReg}

/-- A matrix command with operands: its addresses are aligned, and its footprint lies in attached slots. -/
theorem mxFoot_enqueues (h : s.engineTakes .mx admE false) (herr : (s.core s.k).mx.err = false) {i : Instr} {body : State → Act}
    {al : List (Nat × Nat × Addr)} {f : List (Nat × Nat)}
    (hbody : body s = mxCheck i al f s fun bk => s.enqueue .mx { s.cmd i a b with foot := f, banks := bk } false)
    (hal : ∀ e ∈ al, e.1 % e.2.1 = 0) (hfoot : s.footAttached f) :
    ∃ t, mxOp i s body = .next t ∧ s.enqueued t .mx i a b false :=
  mxOp_enqueues h (fun _ => herr) (s.cmd_entryOf_with i a b [] 0 f (s.footBanks s.k f))
    (hbody.trans (mxCheck_attached h.room hal hfoot i _))

theorem execMxls_enqueues (h : s.engineTakes .mx admE false) (herr : (s.core s.k).mx.err = false)
    (ha : (addrOf (s.me.ptr a)).toNat % 16 = 0)
    (hb : bxOf (mgWfmt (s.mgAhead s.k)) ≠ none → (addrOf (s.me.ptr b)).toNat % 2 = 0)
    (hfoot : s.footAttached (planeFoot (mgWfmt (s.mgAhead s.k)) (addrOf (s.me.ptr a)).toNat (addrOf (s.me.ptr b)).toNat)) :
    ∃ t, exec (.mxls a b) s = .next t ∧ s.enqueued t .mx (.mxls a b) a b false := by
  show ∃ t, execMxls a b s = .next t ∧ _
  refine mxFoot_enqueues h herr rfl (List.forall_mem_cons.mpr ⟨ha, ?_⟩) hfoot
  change ∀ e ∈ (if (bxOf (mgWfmt (s.mgAhead s.k))).isSome then _ else _), _
  cases hfmt : bxOf (mgWfmt (s.mgAhead s.k)) with
  | none => exact nofun
  | some x => exact List.forall_mem_singleton.mpr (hb (by simp [hfmt]))

theorem execMxst_enqueues (h : s.engineTakes .mx admE false) (herr : (s.core s.k).mx.err = false)
    (ha : (addrOf (s.me.ptr a)).toNat % 16 = 0) (hes : mgEs (s.mgAhead s.k) % 16 = 0)
    (hb : bxOf (mgAfmt (s.mgAhead s.k)) ≠ none → (addrOf (s.me.ptr b)).toNat % 2 = 0 ∧ mgHs (s.mgAhead s.k) % 2 = 0)
    (hfoot : s.footAttached (streamFoot (mgAfmt (s.mgAhead s.k)) (mgM (s.mgAhead s.k)) (mgEs (s.mgAhead s.k))
      (mgHs (s.mgAhead s.k)) (addrOf (s.me.ptr a)).toNat (addrOf (s.me.ptr b)).toNat)) :
    ∃ t, exec (.mxst a b) s = .next t ∧ s.enqueued t .mx (.mxst a b) a b false := by
  show ∃ t, execMxst a b s = .next t ∧ _
  refine mxFoot_enqueues h herr rfl (List.forall_mem_cons.mpr ⟨ha, List.forall_mem_cons.mpr ⟨hes, ?_⟩⟩) hfoot
  change ∀ e ∈ (if (bxOf (mgAfmt (s.mgAhead s.k))).isSome then _ else _), _
  cases hfmt : bxOf (mgAfmt (s.mgAhead s.k)) with
  | none => exact nofun
  | some x =>
    obtain ⟨hpb, hhs⟩ := hb (by simp [hfmt])
    exact List.forall_mem_cons.mpr ⟨hpb, List.forall_mem_singleton.mpr hhs⟩

theorem execMxrty_enqueues (h : s.engineTakes .mx admE false) (herr : (s.core s.k).mx.err = false)
    (hfoot : s.footAttached (s.core s.k).mx.retryFoot) :
    ∃ t, exec .mxrty s = .next t ∧ s.enqueued t .mx .mxrty 0 0 false := by
  show ∃ t, execMxrty s = .next t ∧ _
  exact mxFoot_enqueues h herr rfl nofun hfoot

end

/-! ### Copies and reductions (09 R169, R174, R180) -/

section
variable {s : State} {i : Instr} {a b : PReg}

/-- A copy or a reduction with its footprint in attached slots. -/
theorem copyOp_enqueues {twin : Bool} (hexec : exec i s = copyOp i twin a b s) (h : s.engineTakes .cx (admCp twin) false)
    (hfoot : s.footAttached (copyFoot i (s.core s.k).cx.ahead (s.me.ptr a) (s.me.ptr b))) :
    ∃ t, exec i s = .next t ∧ s.enqueued t .cx i a b false := by
  rw [hexec]
  let f := copyFoot i (s.core s.k).cx.ahead (s.me.ptr a) (s.me.ptr b)
  refine engineOp_enqueues h (s.cmd_entryOf_with i a b [] (cvClass (s.core s.k).cx.ahead) f (s.footBanks s.k f)) ?_
  exact (if_neg (Nat.not_le.mpr h.room)).trans (State.withFoot_attached hfoot i _)

theorem exec_copy (hi : i ∈ [Instr.cg2l a b, .cl2g a b, .cw2l a b, .cl2w a b]) : exec i s = copyOp i true a b s := by
  simp only [List.mem_cons, List.not_mem_nil, or_false] at hi
  obtain rfl | rfl | rfl | rfl := hi <;> rfl

/-- The C and X copies are for no twin. -/
theorem exec_copy_no_twin (hi : i ∈ [Instr.cl2c a b, .cc2l a b, .cx2g a b, .cg2x a b]) : exec i s = copyOp i false a b s := by
  simp only [List.mem_cons, List.not_mem_nil, or_false] at hi
  obtain rfl | rfl | rfl | rfl := hi <;> rfl

theorem execRdadd_aligned (h : redMisaligned (s.core s.k).cx.ahead (s.me.ptr a) (s.me.ptr b) = none) :
    exec (.rdadd a b) s = copyOp (.rdadd a b) true a b s := by
  show execRdadd a b s = _
  rw [execRdadd, h]
  cases s.bars (admCp true) <;> rfl

theorem exec_rdflush : exec (.rdflush a) s = copyOp (.rdflush a) true a 0 s := rfl

end

/-- Settles O47: an aligned command whose footprint lies in attached slots comes to an enqueue, with the banks of its footprint. -/
theorem matrixAndCopyCommandsAreQueued : Obligations.MatrixAndCopyCommandsAreQueued := by
  intro s a b
  refine ⟨fun h herr => ⟨execMxls_enqueues h herr, execMxst_enqueues h herr, execMxrty_enqueues h herr⟩,
    fun h => ⟨fun i hi => copyOp_enqueues (exec_copy hi) h, fun haligned => copyOp_enqueues (execRdadd_aligned haligned) h,
      copyOp_enqueues exec_rdflush h nofun⟩,
    fun h i hi => copyOp_enqueues (exec_copy_no_twin hi) h⟩

end Sys2Proof.Machine
end

section
/-! Grants of the engines (07 R127, 08 R151, 20 R304): with a command on one core of a quad alone, its turn comes to that command. -/

namespace Sys2Proof.Machine

section
variable {q k : Nat} {c : Cmd}

theorem mem_quadTurn {last : Nat} {e : Nat × Nat} : e ∈ quadTurn q last ↔ e ∈ (List.range 4).zip (quadCores q) := by
  simp only [quadTurn, List.mem_append, List.mem_filter, decide_eq_true_eq, ← and_or_left]
  exact and_iff_left (Nat.lt_or_ge ..)

theorem mem_quadCores_of_mem_quadTurn {last : Nat} {e : Nat × Nat} (h : e ∈ quadTurn q last) : e.2 ∈ quadCores q :=
  (List.of_mem_zip (mem_quadTurn.mp h)).2

theorem exists_mem_quadTurn (h : k ∈ quadCores q) (last : Nat) : ∃ i, (i, k) ∈ quadTurn q last := by
  obtain ⟨n, hn, rfl⟩ := List.mem_iff_getElem.mp h
  refine ⟨n, mem_quadTurn.mpr (List.mem_iff_getElem.mpr ⟨n, by simpa [quadCores] using hn, ?_⟩)⟩
  simp

/-- A turn of a quad where one core alone has something. -/
theorem quadTurn_findSome_only {f : Nat → Option Cmd} (hk : k ∈ quadCores q) (hf : f k = some c)
    (hothers : ∀ j ∈ quadCores q, j ≠ k → f j = none) (last : Nat) :
    ∃ i, (i, k) ∈ quadTurn q last ∧ (quadTurn q last).findSome? (fun e => (f e.2).map (Prod.mk e)) = some ((i, k), c) := by
  obtain ⟨i, hi⟩ := exists_mem_quadTurn hk last
  obtain ⟨r, hr⟩ := Option.isSome_iff_exists.mp
    (List.findSome?_isSome_iff (f := fun e => (f e.2).map (Prod.mk e)).mpr ⟨(i, k), hi, by simp [hf]⟩)
  obtain ⟨⟨j, m⟩, hmem, heq⟩ := List.exists_of_findSome?_eq_some hr
  have hm : m = k := by
    by_contra hne
    simp [hothers m (mem_quadCores_of_mem_quadTurn hmem) hne] at heq
  subst hm
  rw [hf] at heq
  exact ⟨j, hmem, hr.trans heq.symm⟩

variable {s : State}

theorem State.mxPick_eq (s : State) (q last : Nat) (load : Bool) : s.mxPick q last load =
    (quadTurn q last).findSome? fun e => ((s.mxNext q e.2).filter (isLoad · = load)).map (Prod.mk e) := by
  refine congrArg (List.findSome? · _) (funext fun e => ?_)
  cases s.mxNext q e.2 with
  | none => rfl
  | some c => by_cases h : isLoad c = load <;> simp [Option.filter, h]

/-- The path of the one command picks it. -/
theorem State.mxPick_own (hk : k ∈ quadCores q) (hnext : s.mxNext q k = some c)
    (hothers : ∀ j ∈ quadCores q, j ≠ k → s.mxNext q j = none) {load : Bool} (hload : isLoad c = load) (last : Nat) :
    ∃ i, (i, k) ∈ quadTurn q last ∧ s.mxPick q last load = some ((i, k), c) := by
  rw [State.mxPick_eq]
  exact quadTurn_findSome_only (f := fun j => (s.mxNext q j).filter (isLoad · = load)) hk (by simp [hnext, hload])
    (fun j hj hne => by simp [hothers j hj hne]) last

/-- The other path picks none. -/
theorem State.mxPick_other (hnext : s.mxNext q k = some c) (hothers : ∀ j ∈ quadCores q, j ≠ k → s.mxNext q j = none)
    {load : Bool} (hload : isLoad c ≠ load) (last : Nat) : s.mxPick q last load = none := by
  rw [State.mxPick_eq]
  refine List.findSome?_eq_none_iff.mpr fun e he => ?_
  by_cases h : e.2 = k
  · simp [h, hnext, hload]
  · simp [hothers _ (mem_quadCores_of_mem_quadTurn he) h]

/-- A list of one grant is found at its place in a turn. -/
theorem findSome?_find?_singleton {i : Nat} {l : List (Nat × Nat)} (h : (i, k) ∈ l) :
    l.findSome? (fun e => [((i, k), c)].find? fun g => g.1 == e) = some ((i, k), c) := by
  obtain ⟨r, hr⟩ := Option.isSome_iff_exists.mp
    (List.findSome?_isSome_iff (f := fun e => [((i, k), c)].find? fun g => g.1 == e).mpr ⟨(i, k), h, by simp⟩)
  obtain ⟨e, -, he⟩ := List.exists_of_findSome?_eq_some hr
  rwa [List.mem_singleton.mp (List.mem_of_find?_eq_some he)] at hr

theorem State.mxGrant_only (hk : k ∈ quadCores q) (hnext : s.mxNext q k = some c)
    (hothers : ∀ j ∈ quadCores q, j ≠ k → s.mxNext q j = none) : ∃ i, s.mxGrant q = some ((i, k), c) := by
  have hlist : ∃ i last, (i, k) ∈ quadTurn q last ∧
      (s.mxPick q (s.quad q).lastSt false).toList ++ (s.mxPick q (s.quad q).lastLd true).toList = [((i, k), c)] := by
    cases hload : isLoad c with
    | false =>
      obtain ⟨i, hmem, hi⟩ := State.mxPick_own hk hnext hothers hload (s.quad q).lastSt
      exact ⟨i, _, hmem, by rw [hi, State.mxPick_other hnext hothers (by simp [hload])]; rfl⟩
    | true =>
      obtain ⟨i, hmem, hi⟩ := State.mxPick_own hk hnext hothers hload (s.quad q).lastLd
      exact ⟨i, _, hmem, by rw [hi, State.mxPick_other hnext hothers (by simp [hload])]; rfl⟩
  obtain ⟨i, last, hmem, hl⟩ := hlist
  refine ⟨i, ?_⟩
  rw [State.mxGrant, hl]
  exact findSome?_find?_singleton (mem_quadTurn.mpr (mem_quadTurn.mp hmem))

/-- The grant of the one matrix command of a quad changes the quad's turns, and the command starts. -/
theorem execMatrixCommandGrant_only (hk : k ∈ quadCores q) (hnext : s.mxNext q k = some c)
    (hothers : ∀ j ∈ quadCores q, j ≠ k → s.mxNext q j = none) :
    ∃ z, exec (.matrixCommandGrant q) s = .next ((s.setQuad q z).mxExec k c) := by
  obtain ⟨i, hgrant⟩ := State.mxGrant_only hk hnext hothers
  show ∃ z, execMatrixCommandGrant q s = .next ((s.setQuad q z).mxExec k c)
  rw [execMatrixCommandGrant, hgrant]
  exact ⟨_, rfl⟩

/-- The grant of the one vector command of a quad. -/
theorem execVectorCommandGrant_only (hk : k ∈ quadCores q) (hnext : s.vxNext q k = some c)
    (hothers : ∀ j ∈ quadCores q, j ≠ k → s.vxNext q j = none) :
    ∃ z, exec (.vectorCommandGrant q) s = .next ((s.setQuad q z).vxExec k c) := by
  obtain ⟨i, -, hgrant⟩ := quadTurn_findSome_only hk hnext hothers (s.quad q).lastVx
  show ∃ z, execVectorCommandGrant q s = .next ((s.setQuad q z).vxExec k c)
  rw [execVectorCommandGrant, hgrant]
  exact ⟨_, rfl⟩

end

end Sys2Proof.Machine
end

section
/-! A drain (O48): `MXDRN` holds its context, the grant of its quad decides the check, and a check that passes lets the context go
on (07 R127, R141, R148). -/

namespace Sys2Proof.Machine

/-! ### Registers of the matrix engine (07 R132) -/

theorem mgGet_mgSet_self (mg : Vector Word 16) {k : Nat} (v : Word) (h : k < 16) : mgGet (mgSet mg k v) k = v := by
  simp [mgGet, mgSet, Vector.getD, h]

theorem mgGet_mgSet_ne (mg : Vector Word 16) {j k : Nat} (v : Word) (h : j ≠ k) : mgGet (mgSet mg k v) j = mgGet mg j := by
  simp [mgGet, mgSet, h.symm, Vector.getD]

theorem Mx.setFlag_flag_self (x : Mx) {i : Nat} (b : Bool) (h : i < 64) : (x.setFlag i b).flag i = b := by
  rw [Mx.flag, Mx.setFlag, mgGet_mgSet_self _ _ (by decide), getBit_putBit_self _ _ h]

theorem Mx.setFlag_flag_ne (x : Mx) {i j : Nat} (b : Bool) (h : j ≠ i) : (x.setFlag i b).flag j = x.flag j := by
  rw [Mx.flag, Mx.setFlag, mgGet_mgSet_self _ _ (by decide), getBit_putBit_ne _ _ h, Mx.flag]

/-- The flags of a passed check (07 R141). -/
theorem Mx.record_flags (x : Mx) {v : Verdict} (h : v.pass = true) :
    (x.record v).flag mgPASS = true ∧ (x.record v).flag mgFAIL = false := by
  rw [Mx.record, if_pos h, Mx.setFlag_flag_ne _ _ (by decide), Mx.setFlag_flag_ne _ _ (by decide),
    Mx.setFlag_flag_self _ _ (by decide), Mx.setFlag_flag_ne _ _ (by decide), Mx.setFlag_flag_self _ _ (by decide), h]
  exact ⟨rfl, rfl⟩

theorem State.mgRead_inject (s : State) (x : Mx) : s.mgRead x 14 = if s.injects then mgGet x.mg 14 else 0 := by
  cases h : s.injects <;> simp [State.mgRead, h]

/-- Neither an injection nor the check looks at the queue. -/
theorem Mx.inject_check_queue (x : Mx) (l : List Cmd) (n : Nat) (w : Word) :
    (({ x with queue := l, enqueued := n } : Mx).inject w).check = (x.inject w).check := by
  unfold Mx.inject
  split <;> rfl

/-! ### The check of a drain (07 R141) -/

theorem State.setCmd_ctx (s : State) (k : Nat) (e : Engine) (q : Cmd) (j c : Nat) : (s.setCmd k e q).ctx j c = s.ctx j c :=
  s.setCore_ctx (by cases e <;> rfl) j c

/-- A drain has been decided: its engine context is `x`, and its entry `q`. -/
def State.drained (s : State) (k : Nat) (x : Mx) (q : Cmd) : State :=
  (s.setCore k { s.core k with mx := x }).setCmd k .mx q

theorem State.drained_ctx (s : State) (k : Nat) (x : Mx) (q : Cmd) (j c : Nat) : (s.drained k x q).ctx j c = s.ctx j c :=
  (State.setCmd_ctx ..).trans (s.setCore_ctx (x := { s.core k with mx := x }) rfl j c)

theorem State.drained_flag (s : State) (k : Nat) (x : Mx) (q : Cmd) (i : Nat) :
    ((s.drained k x q).core k).mx.flag i = x.flag i := by
  rw [State.drained, State.setCmd, State.setCore_core_self, State.setCore_core_self]
  rfl

/-- The context that is held at a decided drain goes on. -/
theorem State.drained_goes_on {s : State} {k : Nat} {q : Cmd} (hheld : s.drainer k q = true) (x : Mx) (q1 : Cmd) :
    (if (s.drained k x q1).drainer k q then
      (s.drained k x q1).setCtx k q.ctx ((s.drained k x q1).ctx k q.ctx).advance else s.drained k x q1) =
      (s.drained k x q1).setCtx k q.ctx (s.ctx k q.ctx).advance := by
  rw [State.drainer, State.drained_ctx]
  exact if_pos hheld

/-- Whether an engine context may decide a drain without vectors: a visible result, sizes and a format within range, and no
rejected injection. -/
def Mx.drainable (x : Mx) (inj : Word) : Prop :=
  x.flag mgVIS = true ∧ 1 ≤ mgM x.mg ∧ mgM x.mg ≤ 32 ∧ 1 ≤ mgNcol x.mg ∧ mgNcol x.mg ≤ 32 ∧ mgOfmt x.mg ≠ 3 ∧
    mgScl x.mg = false ∧ mgBia x.mg = false ∧ injectBad inj = false

/-- The drain of a held context whose check passes: PASS is set, and the context goes on. -/
theorem State.mxDrain_passes {s : State} {k : Nat} {q : Cmd}
    (hok : (s.core k).mx.drainable (s.mgRead (s.core k).mx 14))
    (hpass : (((s.core k).mx.inject (s.mgRead (s.core k).mx 14)).check).pass = true) (hheld : s.drainer k q = true) :
    ∃ x q1, s.mxDrain k q = (s.drained k x q1).setCtx k q.ctx (s.ctx k q.ctx).advance ∧
      x.flag mgPASS = true ∧ x.flag mgFAIL = false := by
  obtain ⟨hvis, hm, hm32, hn, hn32, hfmt, hscl, hbia, hinj⟩ := hok
  have hvec (on : Bool) (hoff : on = false) (at_ : Nat) (d : FVal) : s.drainVec k q on at_ d = some (List.replicate 32 d) := by
    rw [hoff]
    rfl
  rw [State.mxDrain, if_neg (by simp [hvis, hfmt, hinj]; omega)]
  dsimp only
  rw [hvec _ hscl, hvec _ hbia]
  dsimp only
  rw [if_pos hpass]
  refine ⟨_, _, State.drained_goes_on hheld _ _, ?_⟩
  have hflag (x : Mx) (v : Word) (i : Nat) : ({ x with mg := mgSet x.mg 15 v } : Mx).flag i = x.flag i :=
    congrArg (getBit · i) (mgGet_mgSet_ne x.mg v (by decide))
  rw [hflag, hflag]
  exact Mx.record_flags _ hpass

/-! ### The grant of a command alone in its quad (20 R304) -/

theorem State.mxNext_of_empty {s : State} {k : Nat} (h : (s.core k).mx.queue = []) (q : Nat) : s.mxNext q k = none := by
  rw [State.mxNext, h]
  rfl

/-- A command that stands alone in the queues of its quad can be granted. -/
theorem State.mxNext_alone {s : State} {q k : Nat} {c : Cmd} (hqueue : (s.core k).mx.queue = [c]) (hran : c.ran = false)
    (hload : isLoad c = false) (hthrottled : s.throttled = false) (hruns : s.enginesRun k = true)
    (habsent : (s.core k).mx.absent = false) (hpresent : c.present = true)
    (hothers : ∀ j ∈ quadCores q, j ≠ k → (s.core j).mx.queue = []) : s.mxNext q k = some c := by
  have hidle : s.pathBusy q false = false := by
    refine List.any_eq_false.mpr fun j hj => ?_
    by_cases h : j = k
    · simp [h, hqueue, Cmd.onPath, hran]
    · simp [hothers j hj h]
  simp [State.mxNext, hqueue, hran, hload, hthrottled, hruns, habsent, hpresent, hidle]

theorem mem_quadCores_quadOf {k : Nat} (h : k < sites) : k ∈ quadCores (quadOf k) := by
  have hclus : clusOf k = k / 1024 / 8 * 128 + k % 1024 / 8 := if_pos h
  refine List.mem_map.mpr ⟨k / 1024 % 2 * 2 + k % 1024 % 2, by simp; omega, ?_⟩
  have hquad : quadIn k = k / 1024 % 8 / 2 * 4 + k % 1024 % 8 / 2 := rfl
  have hdiv : quadOf k / 16 = clusOf k := by unfold quadOf; omega
  have hmod : quadOf k % 16 = quadIn k := by unfold quadOf; omega
  have hcloc : (quadOf k % 16 / 4 * 2 + (k / 1024 % 2 * 2 + k % 1024 % 2) / 2) * 8 + quadOf k % 4 * 2 +
      (k / 1024 % 2 * 2 + k % 1024 % 2) % 2 = k / 1024 % 8 * 8 + k % 1024 % 8 := by omega
  rw [hdiv, hcloc, coreAt]
  omega

/-- Whether engines may go on does not depend on the engines, on the count of commands or on what their contexts wait for. -/
theorem State.enginesRun_congr {s t : State} {k : Nat}
    (hcore : ∀ j, { t.core j with mx := (s.core j).mx, ctxs := (s.core j).ctxs, cmdSeq := (s.core j).cmdSeq } = s.core j)
    (hguest : (t.ctx k 0).guest = (s.ctx k 0).guest) (hthermal : t.thermal = s.thermal) (hvdevs : t.vdevs = s.vdevs)
    (hclusters : t.clusters = s.clusters) : t.enginesRun k = s.enginesRun k := by
  have hfield {α : Type} (f : Core → α) (hf : ∀ (x : Core) m l n, f { x with mx := m, ctxs := l, cmdSeq := n } = f x)
      (j : Nat) : f (t.core j) = f (s.core j) := (hf ..).symm.trans (congrArg f (hcore j))
  have hvdev : t.vdevOf k 0 = s.vdevOf k 0 := by
    unfold State.vdevOf State.taskOf State.homeOf
    rw [hguest, hfield Core.task fun _ _ _ _ => rfl]
  unfold State.enginesRun State.coreFlows State.deviceStopping State.vdev State.cluster
  dsimp only
  rw [hvdev, hthermal, hvdevs, hclusters, hfield Core.stop fun _ _ _ _ => rfl, hfield Core.stopReq fun _ _ _ _ => rfl,
    hfield Core.savedAt fun _ _ _ _ => rfl, hfield Core.revoking fun _ _ _ _ => rfl, hfield Core.flow fun _ _ _ _ => rfl]

/-! ### The held drain (07 R141) -/

/-- The entry of a drain. -/
def State.drainCmd (s : State) (a b : PReg) (f : List (Nat × Nat)) : Cmd :=
  { s.cmd (.mxdrn a b) a b with
    foot := f, banks := s.footBanks s.k f, id := (s.core s.k).cmdSeq, nth := (s.core s.k).enqueued .mx }

/-- The state after `MXDRN`: its entry is queued, and its context is held. -/
def State.draining (s : State) (a b : PReg) (f : List (Nat × Nat)) : State :=
  (s.setCore s.k ((s.core s.k).push .mx (s.drainCmd a b f))).setMe
    { s.me with hold := some { instr := .mxdrn a b, since := s.cyc.toNat, phase := .verdict (s.core s.k).cmdSeq } }

section
variable {s : State} {a b : PReg} {f : List (Nat × Nat)}

theorem mxOp_issues (hissues : s.issues admE) (hpresent : (s.core s.k).engineAbsent .mx = false)
    (herr : (s.core s.k).mx.err = false) (i : Instr) (body : State → Act) : mxOp i s body = finish i (body s) := by
  rw [mxOp, engineOp, run_issues _ _ _ _ _ hissues, if_neg (by simp [hpresent]), if_neg (by simp [herr])]

theorem finish_wait_first {t : State} (h : t.me.hold = none) (i : Instr) (p : Phase) : finish i (.wait p t) =
    .next (t.setMe { t.me with hold := some { instr := i, since := t.cyc.toNat, phase := p } }) := by
  simp [finish, h]

/-- The drain of an idle engine, without vectors, at aligned addresses. -/
theorem execMxdrn_holds (h : s.engineTakes .mx admE false) (herr : (s.core s.k).mx.err = false)
    (hqueue : (s.core s.k).mx.queue = []) (hscl : mgScl (s.core s.k).mx.mg = false) (hbia : mgBia (s.core s.k).mx.mg = false)
    (ha : (addrOf (s.me.ptr a)).toNat % 16 = 0) (hos : mgOs (s.core s.k).mx.mg % 16 = 0)
    (hf : f = drainFoot (s.core s.k).mx.mg (addrOf (s.me.ptr a)).toNat (addrOf (s.me.ptr b)).toNat)
    (hfoot : s.footAttached f) : exec (.mxdrn a b) s = .next (s.draining a b f) := by
  subst hf
  obtain ⟨hissues, hpresent, hroom, -⟩ := h
  have hahead : s.mgAhead s.k = (s.core s.k).mx.mg := by rw [State.mgAhead, hqueue]; rfl
  show execMxdrn a b s = _
  rw [execMxdrn, mxOp_issues hissues hpresent herr, hissues.2]
  dsimp only
  rw [hahead, hscl, hbia]
  refine (congrArg (finish _) (mxCheck_attached hroom ?_ hfoot _ _)).trans ?_
  · simpa [State.cmd] using ⟨ha, hos⟩
  · have hme := s.pushed_me .mx
      (s.drainCmd a b (drainFoot (s.core s.k).mx.mg (addrOf (s.me.ptr a)).toNat (addrOf (s.me.ptr b)).toNat))
    refine (finish_wait_first ((congrArg Ctx.hold hme).trans hissues.2) ..).trans ?_
    exact congrArg (fun y : Ctx => Host.Outcome.next (State.setMe _ { y with hold := _ })) hme

theorem State.draining_me : (s.draining a b f).me =
    { s.me with hold := some { instr := .mxdrn a b, since := s.cyc.toNat, phase := .verdict (s.core s.k).cmdSeq } } :=
  State.setMe_me ..

theorem State.draining_mx (hqueue : (s.core s.k).mx.queue = []) : ((s.draining a b f).core s.k).mx =
    { (s.core s.k).mx with queue := [s.drainCmd a b f], enqueued := (s.core s.k).mx.enqueued + 1 } := by
  have hpush : ((s.core s.k).push .mx (s.drainCmd a b f)).mx = { (s.core s.k).mx with
      queue := (s.core s.k).mx.queue ++ [s.drainCmd a b f], enqueued := (s.core s.k).mx.enqueued + 1 } := rfl
  rw [State.draining, State.setMe, State.setCtx_core_congr Core.mx fun _ _ => rfl, State.setCore_core_self, hpush, hqueue,
    List.nil_append]

theorem State.draining_core_ne {j : Nat} (h : j ≠ s.k) : ((s.draining a b f).core j).mx = (s.core j).mx := by
  rw [State.draining, State.setMe, State.setCtx_core_congr Core.mx fun _ _ => rfl, State.setCore_core_ne _ _ h]

/-- A held drain changes its engine, the contexts and the count of commands alone. -/
theorem State.draining_core (j : Nat) : { (s.draining a b f).core j with
    mx := (s.core j).mx, ctxs := (s.core j).ctxs, cmdSeq := (s.core j).cmdSeq } = s.core j := by
  refine (congrArg (fun x : Core => { x with mx := (s.core j).mx, ctxs := (s.core j).ctxs, cmdSeq := (s.core j).cmdSeq })
    (State.setCtx_core _ s.k s.c j _)).trans ?_
  by_cases hj : j = s.k
  · rw [hj, State.setCore_core_self]
    rfl
  · rw [State.setCore_core_ne _ _ hj]

theorem State.draining_guest (c : Nat) : ((s.draining a b f).ctx s.k c).guest = (s.ctx s.k c).guest := by
  by_cases hc : c = s.c
  · rw [hc]
    exact (congrArg Ctx.guest (s.draining_me (a := a) (b := b) (f := f)) :)
  · have hne : (s.k, c) ≠ (s.k, s.c) := fun h => hc (congrArg Prod.snd h)
    rw [State.draining, State.setMe]
    exact congrArg Ctx.guest ((State.setCtx_ctx_ne _ _ hne).trans (s.setCore_ctx (Core.push_ctxs ..) s.k c))

theorem State.draining_enginesRun : (s.draining a b f).enginesRun s.k = s.enginesRun s.k :=
  State.enginesRun_congr State.draining_core (State.draining_guest 0) rfl rfl rfl

theorem State.draining_mxNext (hqueue : (s.core s.k).mx.queue = []) (hthrottled : s.throttled = false)
    (hruns : s.enginesRun s.k = true) (habsent : (s.core s.k).mx.absent = false)
    (hbanks : ∀ e ∈ s.footBanks s.k f, e.2 ≠ noBank) {q : Nat}
    (hothers : ∀ j ∈ quadCores q, j ≠ s.k → (s.core j).mx.queue = []) :
    (s.draining a b f).mxNext q s.k = some (s.drainCmd a b f) := by
  refine State.mxNext_alone (congrArg Mx.queue (s.draining_mx hqueue)) rfl rfl hthrottled (State.draining_enginesRun.trans hruns)
    ((congrArg Mx.absent (s.draining_mx hqueue)).trans habsent) ?_ fun j hj hne => ?_
  · exact List.all_eq_true.mpr fun e he => decide_eq_true (hbanks e he)
  · exact (congrArg Mx.queue (State.draining_core_ne hne)).trans (hothers j hj hne)

/-- The granted drain of the held context. -/
theorem State.draining_mxExec (z : Quad) (q : Nat) (hqueue : (s.core s.k).mx.queue = [])
    (hok : (s.core s.k).mx.drainable (s.mgRead (s.core s.k).mx 14))
    (hpass : (((s.core s.k).mx.inject (s.mgRead (s.core s.k).mx 14)).check).pass = true) :
    let t := (s.draining a b f).setQuad q z
    ∃ x q1, t.mxExec s.k (s.drainCmd a b f) = (t.drained s.k x q1).setMe t.me.advance ∧
      x.flag mgPASS = true ∧ x.flag mgFAIL = false := by
  intro t
  have hmx : (t.core s.k).mx = _ := s.draining_mx hqueue
  have hinj : t.mgRead (t.core s.k).mx 14 = s.mgRead (s.core s.k).mx 14 := by
    rw [hmx, State.mgRead_inject, State.mgRead_inject]
    rfl
  have hheld : t.drainer s.k (s.drainCmd a b f) = true := by
    have hphase : t.me.phase = some (.verdict (s.core s.k).cmdSeq) := congrArg Ctx.phase s.draining_me
    exact beq_iff_eq.mpr hphase
  refine State.mxDrain_passes (k := s.k) (q := s.drainCmd a b f) ?_ ?_ hheld
  · rw [hinj, hmx]
    exact hok
  · rw [hinj, hmx, Mx.inject_check_queue]
    exact hpass

end

/-- Settles O48: the queued drain is alone in its quad, so the grant decides its check; it passes, and the context goes on. -/
theorem aDrainWritesWhenItsCheckPasses : Obligations.ADrainWritesWhenItsCheckPasses := by
  intro s a b k x mg pa q h herr hqueue hvis hm hm32 hn hn32 hfmt hscl hbia ha hos hfoot hinj hpass hsite hthrottled hruns
    hothers hbanks
  obtain ⟨z, hgrant⟩ := execMatrixCommandGrant_only (mem_quadCores_quadOf hsite)
    (State.draining_mxNext (a := a) (b := b) hqueue hthrottled hruns h.2.1 hbanks hothers)
    fun j hj hne => State.mxNext_of_empty ((congrArg Mx.queue (State.draining_core_ne hne)).trans (hothers j hj hne)) q
  obtain ⟨y, q1, hexec, hPASS, hFAIL⟩ := State.draining_mxExec (a := a) (b := b) z q hqueue
    ⟨hvis, hm, hm32, hn, hn32, hfmt, hscl, hbia, hinj⟩ hpass
  have hflag (i : Nat) :=
    ((s.draining a b (drainFoot mg pa (addrOf (s.me.ptr b)).toNat)).setQuad q z).drained_flag k y q1 i
  have hme := s.draining_me (a := a) (b := b) (f := drainFoot mg pa (addrOf (s.me.ptr b)).toNat)
  refine ⟨_, _, execMxdrn_holds h herr hqueue hscl hbia ha hos rfl hfoot, (congrArg Ctx.pc hme :), (congrArg Ctx.phase hme :), ?_,
    hgrant.trans (congrArg Host.Outcome.next hexec), ?_, ?_, ?_, ?_, rfl⟩
  · exact congrArg (fun m : Mx => m.queue.map Cmd.instr) (s.draining_mx hqueue)
  · exact (congrArg Ctx.pc (State.setMe_me ..)).trans (congrArg (fun y : Ctx => y.pc + 4) hme :)
  · exact congrArg Ctx.hold (State.setMe_me ..)
  · exact (State.setCtx_core_congr (fun x => x.mx.flag mgPASS) (fun _ _ => rfl) ..).trans ((hflag mgPASS).trans hPASS)
  · exact (State.setCtx_core_congr (fun x => x.mx.flag mgFAIL) (fun _ _ => rfl) ..).trans ((hflag mgFAIL).trans hFAIL)

end Sys2Proof.Machine
end

section
/-! What granted commands do at the engines, and how commands complete (O52): register writes, `MXZERO` and `MXFLIP` (07 R132,
R135, R136, 08 R152), completions (07 R127, 08 R165, 09 R177), and values that reach RV (01 R20). -/

namespace Sys2Proof.Machine

/-! ### The chain log leaves planes and accumulators (07 R139) -/

/-- A log entry changes the log and its count alone. -/
theorem Mx.note_rest (x : Mx) (e : ChainEntry) : ∃ l w, x.note e = { x with log := l, mg := mgSet x.mg 13 w } := by
  unfold Mx.note
  split
  · exact ⟨_, _, rfl⟩
  · exact ⟨x.log, _, rfl⟩

theorem Mx.note_flag (x : Mx) (e : ChainEntry) (i : Nat) : (x.note e).flag i = x.flag i := by
  obtain ⟨l, w, h⟩ := x.note_rest e
  rw [h]
  exact congrArg (getBit · i) (mgGet_mgSet_ne x.mg w (by decide))

/-- What a log entry leaves as it was, a list of them does too. -/
theorem Mx.foldl_note {α : Type} (f : Mx → α) (hf : ∀ x e, f (x.note e) = f x) (l : List ChainEntry) (x : Mx) :
    f (l.foldl Mx.note x) = f x := by
  induction l generalizing x with
  | nil => rfl
  | cons e l ih => exact (ih _).trans (hf x e)

theorem Mx.setNst_zero_flag (x : Mx) {i : Nat} (h : i < 16) : (x.setNst 0).flag i = x.flag i := by
  have hmask : getBit (0xFFFF : Word) i = true := by
    interval_cases i <;> rfl
  rw [Mx.flag, Mx.setNst, mgGet_mgSet_self _ _ (by decide)]
  simpa [getBit, Mx.flag] using fun _ => hmask

/-! ### Granted register writes and plain commands -/

section
variable {s : State} {k : Nat} {c : Cmd}

/-- The state after a command without bank transfers has left its engine context as `x`. -/
def State.mxDone (s : State) (k : Nat) (c : Cmd) (x : Mx) : State :=
  ({ s.setCore k { s.core k with mx := x } with fresh := s.fresh + accFree } : State).setCmd k .mx
    { c with ran := true, started := true, moved := true }

theorem State.mxDone_mx (s : State) (k : Nat) (c : Cmd) (x : Mx) :
    ∃ l, ((s.mxDone k c x).core k).mx = { x with queue := l } ∧ (s.mxDone k c x).mem = s.mem := by
  refine ⟨putCmd x.queue { c with ran := true, started := true, moved := true }, ?_, rfl⟩
  have hcore : (({ s.setCore k { s.core k with mx := x } with fresh := s.fresh + accFree } : State).core k) =
      { s.core k with mx := x } := s.setCore_core_self k _
  rw [State.mxDone, State.setCmd, State.setCore_core_self, hcore]
  rfl

/-- A command without bank transfers is done at once, where it has no error. -/
theorem State.mxExec_at_once (hplain : c.instr = .mxzero ∨ c.instr = .mxflip ∨ ∃ j a, c.instr = .mxwr j a)
    (hstarted : c.started = false) {x : Mx} (hrun : s.mxRun c (s.core k).mx s.fresh = (x, none)) :
    ∃ l, ((s.mxExec k c).core k).mx = { x with queue := l } ∧ (s.mxExec k c).mem = s.mem := by
  have hexec : s.mxExec k c = s.mxDone k c x := by
    rw [State.mxExec, if_neg (by simp [hstarted]), State.mxDone]
    obtain hi | hi | ⟨j, a, hi⟩ := hplain <;>
    · rw [hi]
      dsimp only
      rw [hrun]
  rw [hexec]
  exact s.mxDone_mx k c x

/-- A granted register write (07 R132). -/
theorem State.mxExec_mxwr {i : BitVec 4} {a : PReg} (hi : c.instr = .mxwr i a) (hstarted : c.started = false) :
    ((s.mxExec k c).core k).mx.mg = mgWrite s.injects (s.core k).mx.mg i.toNat c.pa ∧ (s.mxExec k c).mem = s.mem := by
  have hrun : s.mxRun c (s.core k).mx s.fresh =
      ({ (s.core k).mx with mg := mgWrite s.injects (s.core k).mx.mg i.toNat c.pa }, none) := by
    rw [State.mxRun, hi]
    dsimp only
    rw [mgWrites, hi]
  obtain ⟨l, hmx, hmem⟩ := State.mxExec_at_once (.inr (.inr ⟨i, a, hi⟩)) hstarted hrun
  exact ⟨(congrArg Mx.mg hmx :), hmem⟩

/-- The engine context of a chain that has just been opened. -/
def Mx.opened (x : Mx) : Mx :=
  x.sources.foldl Mx.note ((({ x with working := {}, log := [], mg := mgSet x.mg 13 0 } : Mx).setFlag mgOPEN true).setNst 0)

theorem Mx.opened_working (x : Mx) : x.opened.working = {} := by
  refine Mx.foldl_note Mx.working (fun y e => ?_) ..
  obtain ⟨l, w, h⟩ := y.note_rest e
  rw [h]

theorem Mx.opened_open (x : Mx) : x.opened.flag mgOPEN = true := by
  rw [Mx.opened, Mx.foldl_note (Mx.flag · mgOPEN) fun y e => y.note_flag e mgOPEN, Mx.setNst_zero_flag _ (by decide),
    Mx.setFlag_flag_self _ _ (by decide)]

/-- A granted `MXZERO` opens a chain with an empty working result (07 R136). -/
theorem State.mxExec_mxzero (hi : c.instr = .mxzero) (hstarted : c.started = false) :
    ((s.mxExec k c).core k).mx.working = {} ∧ ((s.mxExec k c).core k).mx.flag mgOPEN = true ∧ (s.mxExec k c).mem = s.mem := by
  have hrun : s.mxRun c (s.core k).mx s.fresh = ((s.core k).mx.opened, none) := by
    rw [State.mxRun, hi]
    rfl
  obtain ⟨l, hmx, hmem⟩ := State.mxExec_at_once (.inl hi) hstarted hrun
  rw [hmx]
  exact ⟨Mx.opened_working _, Mx.opened_open _, hmem⟩

/-- The engine context after its planes are exchanged. -/
def Mx.flipped (x : Mx) : Mx :=
  let x1 := { x with active := x.shadow, shadow := x.active }
  if x.flag mgOPEN then x1.note { kind := .flip } else x1

theorem Mx.flipped_planes (x : Mx) : x.flipped.active = x.shadow ∧ x.flipped.shadow = x.active := by
  unfold Mx.flipped
  dsimp only
  split
  · obtain ⟨l, w, h⟩ := Mx.note_rest { x with active := x.shadow, shadow := x.active } { kind := .flip }
    rw [h]
    exact ⟨rfl, rfl⟩
  · exact ⟨rfl, rfl⟩

/-- A granted `MXFLIP` exchanges the planes (07 R135). -/
theorem State.mxExec_mxflip (hi : c.instr = .mxflip) (hstarted : c.started = false)
    (hshadow : (s.core k).mx.shadow.isSome = true) :
    ((s.mxExec k c).core k).mx.active = (s.core k).mx.shadow ∧ ((s.mxExec k c).core k).mx.shadow = (s.core k).mx.active ∧
      (s.mxExec k c).mem = s.mem := by
  have hrun : s.mxRun c (s.core k).mx s.fresh = ((s.core k).mx.flipped, none) := by
    rw [State.mxRun, hi]
    exact if_neg (by simpa [Option.isSome_iff_ne_none] using hshadow)
  obtain ⟨l, hmx, hmem⟩ := State.mxExec_at_once (.inr (.inl hi)) hstarted hrun
  obtain ⟨hactive, hshadow'⟩ := (s.core k).mx.flipped_planes
  rw [hmx]
  exact ⟨hactive, hshadow', hmem⟩

/-- A granted register write of the vector unit (08 R152). -/
theorem State.vxExec_vwr {i : BitVec 4} {a : PReg} (hi : c.instr = .vwr i a) (hstarted : c.started = false) :
    ((s.vxExec k c).core k).vx.vc = vcWrite (s.core k).vx.vc i.toNat c.pa ∧ (s.vxExec k c).mem = s.mem := by
  rw [State.vxExec, if_neg (by simp [hstarted]), hi]
  dsimp only
  rw [State.setCmd, State.setVc, State.setCore_core_self, State.setCore_core_self, vcWrites, hi]
  exact ⟨rfl, rfl⟩

end

/-! ### Completions (07 R127, 08 R165, 09 R177) -/

theorem State.complete_core (s : State) (k : Nat) (e : Engine) (q : Cmd) : (s.complete k e q).core k =
    (((s.core k).setQueue e (((s.core k).queueOf e).filter fun x => x.id != q.id)).leave e 1).latch 4 s.cyc.toNat := by
  rw [State.complete, State.leaves, if_neg (by decide), State.setCore_core_self, State.setCore_core_self]
  rfl

theorem State.complete_queueOf (s : State) (k : Nat) (e : Engine) (q : Cmd) :
    ((s.complete k e q).core k).queueOf e = ((s.core k).queueOf e).filter fun x => x.id != q.id := by
  rw [State.complete_core]
  cases e <;> rfl

theorem State.complete_leaves (s : State) (k : Nat) (e : Engine) (q : Cmd) :
    ∀ x ∈ ((s.complete k e q).core k).queueOf e, x.id ≠ q.id := by
  rw [State.complete_queueOf]
  exact fun x hx => bne_iff_ne.mp (List.mem_filter.mp hx).2

theorem State.complete_completed (s : State) (k : Nat) (e : Engine) (q : Cmd) :
    ((s.complete k e q).core k).completed e = (s.core k).completed e + 1 := by
  rw [State.complete_core]
  cases e <;> rfl

theorem State.complete_cv (s : State) (k : Nat) (e : Engine) (q : Cmd) :
    ((s.complete k e q).core k).cx.cv = (s.core k).cx.cv := by
  rw [State.complete_core]
  cases e <;> rfl

theorem State.complete_mem (s : State) (k : Nat) (e : Engine) (q : Cmd) : (s.complete k e q).mem = s.mem := rfl

section
variable {s : State} {k : Nat} {c : Cmd}

theorem execMatrixCommandComplete_moved (hruns : s.enginesRun k = true) (hturn : mxTurn (s.core k).mx.queue = some c)
    (hpresent : c.present = true) (hmoved : c.moved = true) :
    exec (.matrixCommandComplete k) s = .next (s.complete k .mx c) := by
  show execMatrixCommandComplete k s = _
  simp [execMatrixCommandComplete, hturn, hruns, hpresent, State.mxStep, hmoved]

theorem execVectorCommandComplete_moved (hruns : s.enginesRun k = true) (hturn : (s.core k).vx.queue.find? Cmd.ran = some c)
    (hpresent : c.present = true) (hmoved : c.moved = true) :
    exec (.vectorCommandComplete k) s = .next (s.complete k .vx c) := by
  show execVectorCommandComplete k s = _
  simp [execVectorCommandComplete, hturn, hruns, hpresent, State.vxStep, hmoved]

/-- The core after the status of a copy has been recorded. -/
def Core.recorded (x : Core) (c : Cmd) : Core := { x with cx := { x.cx with cv := cvRecord x.cx.cv c.status c.pc } }

theorem execCopyCommandComplete_answered {r : List Cmd} (hqueue : (s.core k).cx.queue = c :: r) (hran : c.ran = true)
    (hanswered : c.answered = true) (hsaved : (s.core k).savedAt = none) :
    exec (.copyCommandComplete k) s = .next ((s.setCore k ((s.core k).recorded c)).complete k .cx c) := by
  show execCopyCommandComplete k s = _
  unfold execCopyCommandComplete
  dsimp only
  split
  case h_1 q l hhead =>
    cases hqueue.symm.trans hhead
    exact if_pos (by simp [hran, hanswered, hsaved])
  case h_2 hnone => cases hqueue.symm.trans hnone

end

/-! ### Values on their way to RV (01 R20) -/

/-- A context with RV filled by the value that it is owed. -/
def Ctx.filled (y : Ctx) (v : Word) : Ctx := { y.setFlag stRVF true with rv := v, owed := none }

theorem Ctx.filled_flag (y : Ctx) (v : Word) : (y.filled v).flag stRVF = true := y.setFlag_flag_self true (by decide)

/-- A latch changes latches and what a wait stands at alone. -/
theorem Ctx.latch_rest (y : Ctx) (b : BitVec 4) (cyc : Nat) : { y.latch b cyc with latches := y.latches, hold := y.hold } = y := by
  unfold Ctx.latch
  dsimp only
  split
  · split
    · rfl
    · split <;> rfl
  · rfl

theorem execRvFill_owed {s : State} {k c id : Nat} {v : Word} {r : List (Nat × Nat × Word)}
    (hreturns : (s.core k).returns = (c, id, v) :: r) (howed : (s.ctx k c).owed = some id) :
    exec (.rvFill k) s = .next ((s.setCore k { s.core k with returns := r }).setCtx k c
      (((s.ctx k c).filled v).latch 8 s.cyc.toNat)) := by
  have hctx : (s.setCore k { s.core k with returns := r }).ctx k c = s.ctx k c :=
    s.setCore_ctx (x := { s.core k with returns := r }) rfl k c
  show execRvFill k s = _
  rw [execRvFill, State.rvStep, hreturns]
  dsimp only
  rw [State.fillRv, hctx]
  exact congrArg Host.Outcome.next (if_pos howed)

end Sys2Proof.Machine
end

section
/-! Turns of the copy engine (09 R171), and the reducers of a slice (03 R69, 09 R180 to R182): with the last obligation of the
family (O52). -/

namespace Sys2Proof.Machine

/-! ### A cluster with one core ready (09 R171) -/

section
variable {s : State} {cl i : Nat} {r : CopyReady}

theorem Cmd.klass_le (q : Cmd) : q.klass ≤ 2 := by
  unfold Cmd.klass
  split
  · exact Nat.zero_le _
  · have hlt := q.cls.isLt
    have hne : q.cls.toNat ≠ 3 := fun h => ‹¬q.cls = 3› (BitVec.eq_of_toNat_eq h)
    omega

theorem State.copyReady_only (h : s.copyReady cl = [(i, r)]) : (∃ k, s.copyGo k = some r.after) ∧ r.klass ≤ 2 := by
  obtain ⟨e, -, he⟩ := List.mem_filterMap.mp (h ▸ List.mem_singleton_self (i, r) : (i, r) ∈ s.copyReady cl)
  cases hhead : s.copyHead e.2 with
  | none => simp [hhead] at he
  | some q =>
    rw [hhead] at he
    obtain ⟨t, ht, heq⟩ := Option.map_eq_some_iff.mp he
    cases heq
    exact ⟨⟨e.2, ht⟩, q.klass_le⟩

/-- The class of the one core that waits is picked. -/
theorem copyPick_only (skip : Vector Nat 3) {n : Nat} (h : n ≤ 2) : copyPick skip (fun c => decide (n = c)) = n := by
  interval_cases n <;> simp [copyPick]

/-- The grant of the one core that waits is its turn, and the counts of the cluster. -/
theorem State.copyGrant_only (hklass : r.klass ≤ 2) : ∃ x, s.copyGrant cl [(i, r)] = some (r.after.setCluster cl x) := by
  have hhas : (fun c => [(i, r)].any fun e => decide (e.2.klass = c)) = fun c => decide (r.klass = c) :=
    funext fun c => Bool.or_false _
  have hrr (last : Nat) : rrPick last [(i, r)] = some (i, r) := by
    unfold rrPick
    by_cases hlast : last < i <;> simp [hlast]
  have hfilter : [(i, r)].filter (fun e => decide (e.2.klass = r.klass)) = [(i, r)] := by simp
  rw [State.copyGrant, hhas]
  dsimp only
  rw [copyPick_only _ hklass, hfilter, hrr]
  exact ⟨_, rfl⟩

theorem execCopyTransferGrant_goes_on (h : s.copyReady cl = [(i, r)]) (hgo : r.free = true ∨ r.going = true) :
    exec (.copyTransferGrant cl) s = .next r.after := by
  show execCopyTransferGrant cl s = _
  rw [execCopyTransferGrant, h]
  cases hfree : r.free with
  | true => simp [hfree]
  | false =>
    have hgoing : r.going = true := hgo.resolve_left (by simp [hfree])
    by_cases hold : r.since + 64 ≤ s.cyc.toNat <;> simp [hfree, hgoing, hold, State.copyGrant, rrPick, State.choose]

theorem execCopyTransferGrant_granted (h : s.copyReady cl = [(i, r)]) (hfree : r.free = false) (hgoing : r.going = false) :
    ∃ x, exec (.copyTransferGrant cl) s = .next (r.after.setCluster cl x) := by
  obtain ⟨x, hgrant⟩ := State.copyGrant_only (s := s) (cl := cl) (i := i) (State.copyReady_only h).2
  refine ⟨x, ?_⟩
  show execCopyTransferGrant cl s = _
  rw [execCopyTransferGrant, h]
  simp [hfree, hgoing, hgrant, State.choose]

end

/-! ### The reducers (03 R69, 09 R181) -/

theorem State.copyAck_slices (s : State) (k id n : Nat) (st : BitVec 4) :
    (s.copyAck k id n st).slices = s.slices ∧ (s.copyAck k id n st).mem = s.mem := by
  unfold State.copyAck
  dsimp only
  split
  · split
    · split
      · split <;> exact ⟨rfl, rfl⟩
      · exact ⟨rfl, rfl⟩
    · exact ⟨rfl, rfl⟩
  · exact ⟨rfl, rfl⟩

/-- The answer of a slice leaves slices and memory. -/
theorem State.collAck_slices (s : State) (sl k id v : Nat) (st : BitVec 4) :
    (s.collAck sl k id v st).slices = s.slices ∧ (s.collAck sl k id v st).mem = s.mem := by
  unfold State.collAck
  dsimp only
  split
  · exact s.copyAck_slices k id 1 st
  · have hsame := s.inject_same { src := .slice sl, dst := copyNode k, cls := .coll, seq := 0, payload := .done k id 1 st,
                                  level := (s.vdev v).collLevel }
    exact ⟨hsame.slices, hsame.mem⟩

theorem State.collAck_slice (s : State) (sl k id v : Nat) (st : BitVec 4) (j : Nat) :
    (s.collAck sl k id v st).slice j = s.slice j :=
  congrArg (fun m : Sparse Slice => m.get {} j) (s.collAck_slices sl k id v st).1

/-- The accumulator that the first contribution of an element opens (09 R181). -/
def RAcc.first (bf det : Bool) (count srcid : Nat) (src : Nat × Nat) (x : W32) : RAcc :=
  { bf16 := bf, det := det, count := count, got := 1, sum := x, parts := if det then [(srcid, src, x)] else [] }

theorem Slice.contribute_first {y : Slice} {pa count : Nat} {bf det : Bool} (hnone : y.accs.find pa = none)
    (hmeets : y.overlaps pa bf = false) (hroom : y.accs.length < 16384) (src : Nat × Nat) (srcid : Nat) (x : W32) :
    y.contribute src pa bf det count srcid x =
      some ({ y with accs := y.accs.put pa (.first bf det count srcid src x) }, 0) := by
  rw [Slice.contribute, hnone]
  simp only [hmeets, Bool.false_eq_true, if_false, Nat.not_le.mpr hroom]
  rfl

/-- A write at a slice changes what is noted for a migration there, and no accumulator or queue (22 R346). -/
theorem State.gStore_slice (s : State) (v pa n x j : Nat) :
    { (s.gStore v pa n x).slice j with dirty := (s.slice j).dirty, ovf := (s.slice j).ovf } = s.slice j := by
  have hdirty (t : State) :
      { (t.noteDirty v pa).slice j with dirty := (t.slice j).dirty, ovf := (t.slice j).ovf } = t.slice j := by
    have hset (y : Slice) (hy : { y with dirty := (t.slice (sliceOf pa)).dirty, ovf := (t.slice (sliceOf pa)).ovf } =
        t.slice (sliceOf pa)) :
        { (t.setSlice (sliceOf pa) y).slice j with dirty := (t.slice j).dirty, ovf := (t.slice j).ovf } = t.slice j := by
      by_cases hj : j = sliceOf pa
      · rw [hj, State.setSlice_slice_self, hy]
      · rw [State.setSlice_slice_ne _ _ hj]
    unfold State.noteDirty
    dsimp only
    split
    · split
      · rfl
      · split
        · exact hset _ rfl
        · exact hset _ rfl
    · rfl
  unfold State.gStore
  dsimp only
  split
  · exact hdirty _
  · exact hdirty _

theorem State.noteThrough_slice (s : State) (k : Nat) (who : Maker) (pa : Nat) (f : Bool) (j : Nat) :
    (s.noteThrough k who pa f).slice j = s.slice j := by
  unfold State.noteThrough
  split <;> rfl

theorem leBytes_length (n v : Nat) : (leBytes n v).length = n := by
  induction n generalizing v with
  | zero => rfl
  | succ n ih => exact congrArg (· + 1) (ih _)

theorem leNat_lt (l : List Byte) : leNat l < 256 ^ l.length := by
  induction l with
  | nil => exact Nat.one_pos
  | cons b l ih =>
    have hb : b.toNat < 256 := b.isLt
    rw [leNat, List.length_cons, Nat.pow_succ]
    omega

theorem RAcc.bytes_length (a : RAcc) : a.bytes.length = if a.bf16 then 2 else 4 := by
  rw [RAcc.bytes, apply_ite List.length, leBytes_length, leBytes_length]

section
variable {s : State} {sl : Nat}

/-- The item that a slice serves is gone from its queue. -/
def State.without (s : State) (sl : Nat) (i : CollItem) : State :=
  s.setSlice sl { s.slice sl with coll := (s.slice sl).coll.erase i }

theorem State.without_slice (s : State) (sl : Nat) (i : CollItem) :
    (s.without sl i).slice sl = { s.slice sl with coll := (s.slice sl).coll.erase i } := State.setSlice_slice_self ..

/-- The item at the head of a queue is served first. -/
theorem State.collNext_head {before : List CollItem} {i : CollItem} {t : State} (h : s.collServe sl before i = some t)
    (l : List CollItem) : s.collNext sl before false (i :: l) = some (i, t) := by
  unfold State.collNext
  dsimp only
  rw [Bool.and_false, if_neg Bool.false_ne_true, h]

/-- A slice with an accumulator opened, and with one closed. -/
def Slice.openAcc (y : Slice) (pa : Nat) (a : RAcc) : Slice := { y with accs := y.accs.put pa a }
def Slice.closeAcc (y : Slice) (pa : Nat) : Slice := { y with accs := y.accs.drop pa }

/-- A contribution `i` of a core has left slice `sl` as `y` (09 R181). -/
def State.contributed (s : State) (sl core : Nat) (i : CollItem) (y : Slice) : State :=
  ((s.setSlice sl y).without sl i).sample (s.vdevOf core 0) 2

theorem State.contributed_slice (core : Nat) (i : CollItem) (y : Slice) :
    (s.contributed sl core i y).slice sl = { y with coll := y.coll.erase i } := by
  refine (State.without_slice ..).trans ?_
  rw [State.setSlice_slice_self]

theorem State.collServe_first {core task pa count srcid : Nat} {bf det : Bool} {x : W32}
    (hnone : (s.slice sl).accs.find pa = none) (hmeets : (s.slice sl).overlaps pa bf = false)
    (hroom : (s.slice sl).accs.length < 16384) (cmd : Nat) :
    s.collServe sl [] (.add core task cmd pa bf det count srcid x) =
      some ((s.contributed sl core (.add core task cmd pa bf det count srcid x)
        ((s.slice sl).openAcc pa (.first bf det count srcid (core, task) x))).collAck sl core cmd (s.vdevOf core 0) 0) := by
  rw [State.collServe]
  dsimp only
  rw [List.any_nil, if_neg Bool.false_ne_true, Slice.contribute_first hnone hmeets hroom]
  rfl

theorem execReductionContribution_serves {core task cmd pa count srcid : Nat} {bf det : Bool} {x : W32} {r : List CollItem}
    {t : State} (hcoll : (s.slice sl).coll = .add core task cmd pa bf det count srcid x :: r)
    (h : s.collServe sl [] (.add core task cmd pa bf det count srcid x) = some t) :
    exec (.reductionContribution sl) s = .next t := by
  show execReductionContribution sl s = _
  rw [execReductionContribution, hcoll, State.collNext_head h]

theorem execReductionContribution_first {core task cmd pa count srcid : Nat} {bf det : Bool} {x : W32} {r : List CollItem}
    (hcoll : (s.slice sl).coll = .add core task cmd pa bf det count srcid x :: r) (hnone : (s.slice sl).accs.find pa = none)
    (hmeets : (s.slice sl).overlaps pa bf = false) (hroom : (s.slice sl).accs.length < 16384) :
    ∃ t, exec (.reductionContribution sl) s = .next t ∧ t.mem = s.mem ∧ t.slice sl =
      { (s.slice sl).openAcc pa (.first bf det count srcid (core, task) x) with coll := r } := by
  refine ⟨_, execReductionContribution_serves hcoll (State.collServe_first hnone hmeets hroom cmd),
    (State.collAck_slices ..).2, ?_⟩
  rw [State.collAck_slice, State.contributed_slice]
  refine congrArg (fun l => ({ (s.slice sl).openAcc pa _ with coll := l } : Slice)) ?_
  exact (congrArg (List.erase · _) hcoll).trans (List.erase_cons_head ..)

theorem Slice.flushWaits_undetermined {y : Slice} {pa : Nat} {a : RAcc} (h : y.accs.find pa = some a) (hdet : a.det = false)
    (bf : Bool) : y.flushWaits pa bf = false := by
  simp [Slice.flushWaits, h, hdet]

/-- The sum of an accumulator has been written to its element, and the accumulator closed (09 R181). -/
def State.flushed (s : State) (sl core cmd v pa : Nat) (a : RAcc) : State :=
  ((s.setSlice sl ((s.slice sl).closeAcc pa)).gStore v pa a.bytes.length (leNat a.bytes)).noteThrough core
    (.copy (s.cmdNth core cmd)) pa false

theorem State.flushed_mem (core cmd v pa : Nat) (a : RAcc) :
    (s.flushed sl core cmd v pa a).mem = Memory.writeN s.mem pa (leNat a.bytes) a.bytes.length :=
  (State.noteThrough_mem ..).trans (State.gStore_mem ..)

theorem State.flushed_slice (core cmd v pa : Nat) (a : RAcc) :
    { (s.flushed sl core cmd v pa a).slice sl with dirty := (s.slice sl).dirty, ovf := (s.slice sl).ovf } =
      (s.slice sl).closeAcc pa := by
  have hstore := (s.setSlice sl ((s.slice sl).closeAcc pa)).gStore_slice v pa a.bytes.length (leNat a.bytes) sl
  rw [State.setSlice_slice_self] at hstore
  rw [State.flushed, State.noteThrough_slice]
  exact hstore

theorem State.flushElement_sum {v pa : Nat} {a : RAcc} (hfind : (s.slice sl).accs.find pa = some a) (hgood : a.bad = false)
    (hdet : a.det = false) (hfree : s.sliceFree pa = true) (hcheck : s.sliceCheck v pa = none) (core cmd : Nat) :
    s.flushElement sl core cmd v pa a.bf16 = some (s.flushed sl core cmd v pa a, 0) := by
  simp [State.flushElement, hfind, hgood, Slice.flushWaits_undetermined hfind hdet, hfree, hcheck, State.flushed,
    Slice.closeAcc]

theorem execReductionFlush_serves {core cmd v pa : Nat} {bf : Bool} {t : State}
    (hcoll : (s.slice sl).coll = [.flush core cmd v pa bf]) (h : s.collServe sl [] (.flush core cmd v pa bf) = some t) :
    exec (.reductionFlush sl) s = .next t := by
  show execReductionFlush sl s = _
  rw [execReductionFlush, hcoll, State.collNext_head h]

theorem execReductionFlush_sum {core cmd v pa : Nat} {a : RAcc} (hcoll : (s.slice sl).coll = [.flush core cmd v pa a.bf16])
    (hfind : (s.slice sl).accs.find pa = some a) (hgood : a.bad = false) (hdet : a.det = false)
    (hheld : s.deviceHeld v = false) (hfree : s.sliceFree pa = true) (hcheck : s.sliceCheck v pa = none) :
    ∃ t, exec (.reductionFlush sl) s = .next t ∧ t.mem = Memory.writeN s.mem pa (leNat a.bytes) a.bytes.length ∧
      (t.slice sl).coll = [] ∧ (t.slice sl).accs = (s.slice sl).accs.drop pa := by
  have hserve : s.collServe sl [] (.flush core cmd v pa a.bf16) =
      some (((s.flushed sl core cmd v pa a).without sl (.flush core cmd v pa a.bf16)).collAck sl core cmd v 0) := by
    rw [State.collServe]
    dsimp only
    rw [hheld, List.any_nil, if_neg (by simp), State.flushElement_sum hfind hgood hdet hfree hcheck]
    rfl
  have hslice := s.flushed_slice (sl := sl) core cmd v pa a
  refine ⟨_, execReductionFlush_serves hcoll hserve, (State.collAck_slices ..).2.trans (State.flushed_mem ..), ?_, ?_⟩
  · rw [State.collAck_slice, State.without_slice]
    have hqueue : ((s.flushed sl core cmd v pa a).slice sl).coll = _ := (congrArg Slice.coll hslice).trans hcoll
    exact (congrArg (List.erase · _) hqueue).trans (List.erase_cons_head ..)
  · rw [State.collAck_slice, State.without_slice]
    exact (congrArg Slice.accs hslice :)

end

/-- Settles O52: one command, core or item alone is the one that is granted, completes or is served. -/
theorem engineGrantsAndCompletions : Obligations.EngineGrantsAndCompletions := by
  refine ⟨fun s q k c hk _ => ⟨fun hnext hstarted hothers => ?_, fun hnext hstarted hothers i a hi => ?_⟩,
    fun s k c hruns => ⟨fun hturn hpresent hmoved => ?_, fun hturn hpresent hmoved => ?_⟩,
    fun s cl i r hready => ⟨(State.copyReady_only hready).1, execCopyTransferGrant_goes_on hready, fun hfree hgoing => ?_⟩,
    fun s k c r hqueue hran hanswered hsaved => ?_,
    fun s sl core task cmd pa count srcid v bf det x r => ⟨fun hcoll hnone hmeets hroom => ?_,
      fun a hcoll hfind hgood hbf hdet hheld hfree hcheck => ?_⟩,
    fun s k c id v r hreturns howed => ?_⟩
  · obtain ⟨z, hgrant⟩ := execMatrixCommandGrant_only hk hnext hothers
    exact ⟨fun i a hi => ⟨_, hgrant, (s.setQuad q z).mxExec_mxwr hi hstarted⟩,
      fun hi => ⟨_, hgrant, (s.setQuad q z).mxExec_mxzero hi hstarted⟩,
      fun hi hshadow => ⟨_, hgrant, State.mxExec_mxflip hi hstarted hshadow⟩⟩
  · obtain ⟨z, hgrant⟩ := execVectorCommandGrant_only hk hnext hothers
    exact ⟨_, hgrant, State.vxExec_vwr hi hstarted⟩
  · exact ⟨_, execMatrixCommandComplete_moved hruns hturn hpresent hmoved, s.complete_leaves k .mx c,
      s.complete_completed k .mx c, s.complete_mem k .mx c⟩
  · exact ⟨_, execVectorCommandComplete_moved hruns hturn hpresent hmoved, s.complete_leaves k .vx c,
      s.complete_completed k .vx c, s.complete_mem k .vx c⟩
  · obtain ⟨x, hgrant⟩ := execCopyTransferGrant_granted hready hfree hgoing
    exact ⟨_, hgrant, rfl, rfl⟩
  · have hcore := s.setCore_core_self k ((s.core k).recorded c)
    exact ⟨_, execCopyCommandComplete_answered hqueue hran hanswered hsaved, State.complete_leaves _ k .cx c,
      (State.complete_cv ..).trans (congrArg (fun x : Core => x.cx.cv) hcore),
      (State.complete_completed ..).trans (congrArg (fun x : Core => x.completed .cx + 1) hcore), State.complete_mem ..⟩
  · obtain ⟨t, hexec, hmem, hslice⟩ := execReductionContribution_first hcoll hnone hmeets hroom
    have hfind : (t.slice sl).accs.find pa = some (.first bf det count srcid (core, task) x) :=
      (congrArg (fun y : Slice => y.accs.find pa) hslice).trans (Sparse.find_put_self ..)
    exact ⟨t, hexec, congrArg Slice.coll hslice, hmem, congrArg (Option.map _) hfind⟩
  · subst hbf
    obtain ⟨t, hexec, hmem, hqueue, haccs⟩ := execReductionFlush_sum hcoll hfind hgood hdet hheld hfree hcheck
    rw [← a.bytes_length]
    refine ⟨t, hexec, hqueue, haccs ▸ Sparse.find_drop_self .., ?_, fun b hb => ?_⟩
    · rw [hmem, Memory.readN_writeN_self, Nat.mod_eq_of_lt (leNat_lt _)]
    · rw [hmem, Memory.read_writeN_outside _ _ _ _ hb]
  · have hrest := ((s.ctx k c).filled v).latch_rest 8 s.cyc.toNat
    refine ⟨_, execRvFill_owed hreturns howed, ?_, ?_, ?_, ?_, rfl⟩
    · rw [State.setCtx_ctx_self]
      exact (congrArg Ctx.rv hrest :)
    · rw [State.setCtx_ctx_self]
      exact (congrArg (Ctx.flag · stRVF) hrest :).trans (Ctx.filled_flag ..)
    · rw [State.setCtx_ctx_self]
      exact (congrArg Ctx.owed hrest :)
    · exact (State.setCtx_core_congr Core.returns (fun _ _ => rfl) ..).trans (congrArg Core.returns (s.setCore_core_self k _))

end Sys2Proof.Machine
end

section
/-! Vector commands enter their queue (O46): one whose registers are rejected, to fail when it executes, and one whose operands
are aligned and lie in attached slots of the window, with the banks of its footprint (08 R151, R154, R156). -/

namespace Sys2Proof.Machine

/-- An instruction that an engine takes finds RV free for the value it returns (01 R20). -/
theorem State.engineTakes.rv_free {s : State} {e : Engine} {m : Adm} {returns : Bool} (h : s.engineTakes e m returns) :
    (returns && (s.me.flag stRVF || s.me.owed.isSome)) = false := by
  obtain ⟨-, -, -, hrv⟩ := h
  cases returns with
  | false => rfl
  | true => simp [hrv rfl]

/-- Every operand of a vector command, where its registers are not rejected, is aligned and lies in attached slots of the
window (08 R154). -/
def State.operandsReady (s : State) (i : Instr) (a b : PReg) : Prop :=
  ∀ os, vOperands i (s.vcAhead s.k) (s.me.ptr a) (s.me.ptr b) = some os →
    (∀ o ∈ os, o.aligned = true) ∧ s.footAttached (os.map VOp.foot).flatten

theorem vxCommand_enqueues {s : State} {i : Instr} {a b : PReg} {returns : Bool} (h : s.engineTakes .vx admE returns)
    (herr : (s.core s.k).vx.err = false) (hready : s.operandsReady i a b) :
    ∃ t, vxCommand i a b returns s = .next t ∧ s.enqueued t .vx i a b returns := by
  have hroom : ¬ Engine.depth .vx ≤ (s.core s.k).vx.queue.length := Nat.not_le.mpr h.room
  have hfree := h.rv_free
  cases hos : vOperands i (s.vcAhead s.k) (s.me.ptr a) (s.me.ptr b) with
  | none =>
    refine vxOp_enqueues h (fun _ => herr) (s.cmd_entryOf i a b) ?_
    simp only [if_neg hroom, hfree, Bool.false_eq_true, if_false, State.cmd, hos]
  | some os =>
    obtain ⟨haligned, hattached⟩ := hready os hos
    have hnone : os.find? (fun o => !o.aligned) = none := List.find?_eq_none.mpr fun o ho => by simp [haligned o ho]
    refine vxOp_enqueues h (fun _ => herr)
      (s.cmd_entryOf_with i a b [] 0 [] (s.footBanks s.k (os.map VOp.foot).flatten)) ?_
    simp only [if_neg hroom, hfree, Bool.false_eq_true, if_false, State.cmd, hos, hnone]
    exact State.withFoot_attached hattached i _

/-- Settles O46: each of them is a vector command, which comes to an enqueue whether its registers are rejected or not. -/
theorem vectorCommandsAreQueued : Obligations.VectorCommandsAreQueued := by
  intro s a b sc u rv r c i hi ret h herr hready
  have hexec : exec i s = vxCommand i a b ret s := by
    simp only [List.mem_cons, List.not_mem_nil, or_false] at hi
    obtain rfl | rfl | rfl | rfl | rfl | rfl | rfl | rfl | rfl | rfl | rfl | rfl | rfl | rfl | rfl | rfl | rfl | rfl | rfl | rfl |
      rfl | rfl := hi <;> rfl
  rw [hexec]
  exact vxCommand_enqueues h herr hready

end Sys2Proof.Machine
end
